-- ==== Sys2Proof/Word.lean ====
section
/-! DEFINITION. The plainest words of the model: the byte of a layout and the numbers of the part's instances. -/

namespace Sys2Proof

/-- One byte of a layout on the link, in the store or in the air (Formats chapter, R170 to R173). -/
abbrev Byte := BitVec 8

/-- An auditorium number, 0 to 15 (Introduction, "Numbering of things"). -/
abbrev Aud := Fin 16

/-- A text track number within an auditorium, 0 to 3. -/
abbrev TextTrack := Fin 4

/-- A sound track number within an auditorium, 0 to 1. -/
abbrev SoundTrack := Fin 2

end Sys2Proof
end

