-- ==== Sys2Proof/Config.lean ====
section
/-! DEFINITION. What the manual fixes as a number of the part, and the free values: opaque constants for what it leaves open. -/

namespace Sys2Proof.Config

/-- Auditoriums, text tracks and sound tracks per auditorium, package ids and store blocks (R165). -/
def auditoriums : Nat := 16
def textTracks : Nat := 4
def soundTracks : Nat := 2
def packageIds : Nat := 64
def storeBlocks : Nat := 128

/-- Pages of a block and data bytes of a page (section 2.1). -/
def pagesPerBlock : Nat := 64
def pageBytes : Nat := 1024

/-- The part code that PART_INFO carries (R170). -/
def partCode : Nat := 0x5A16

/-- The largest show position, stamp or tick (Introduction, section 5). -/
def maxPosition : Nat := 2147483647

/-- The longest stored duration of a cue, in ticks (R8). -/
def maxCueTicks : Nat := 36000

/-- The silicon revision number that PART_INFO carries (R165): the manual gives no value.
A free value (log entry 3). -/
opaque revision : Byte

/-- The "first cue number" of a CUE_APPEND reply that accepted no record: R9 calls it meaningless.
A free value, fresh for each such reply by the counter it is applied to (log entry 4). -/
opaque meaninglessCueNumber : Nat → BitVec 16

/-- Whether the tag of a torn page reads as erased. A page is torn by a failed program, a failed erase or
an operation cut off by a reset (R25, R30, R39); the manual does not say what it holds afterwards.
A free value (log entry 5). -/
opaque tornErased : Nat → Bool

/-- Whether the tag of a torn page, where it does not read as erased, matches its check value (log entry 5). -/
opaque tornReadable : Nat → Bool

/-- The eight bytes of tag fields a torn page gives where its tag is readable (log entry 5). -/
opaque tornTagBits : Nat → BitVec 64

/-- The data bytes a torn page gives where its errors can be corrected (log entry 5). -/
opaque tornData : Nat → List Byte

end Sys2Proof.Config
end

