-- ==== Sys2Proof/Syntax.lean ====
section
/-! DEFINITION. The commands and events of the SA16: one constructor for each row of spec/opcode_table.json. -/

namespace Sys2Proof

/-- A debounced line (R57): a contact input of an auditorium, or the site hold input. -/
inductive ContactLine where
  | auxA (n : Aud)
  | auxB (n : Aud)
  | shold
  deriving DecidableEq, Repr

/-- The steps of the part. A command of the control link carries its tag and its body, byte for byte as the
frame of R171 carries them; its kind is the row's own. An event of a pin, a timer or the store carries what the
outside supplies: the auditorium, a line's level, the bit errors a read met, whether a program or erase succeeded. -/
inductive Instr where
  /-- POWER_ON_RESET (R159). `linksel` is the LINKSEL strap: low selects SPI, high the UART. -/
  | powerOnReset (linksel : Bool)
  /-- LINE_RESET (R159). -/
  | lineReset (linksel : Bool)
  /-- PART_RESET (R169). -/
  | partReset (tag : Byte) (body : List Byte)
  /-- PART_INFO (R165). -/
  | partInfo (tag : Byte) (body : List Byte)
  /-- LINK_STATUS (R165). -/
  | linkStatus (tag : Byte) (body : List Byte)
  /-- TAKE_NOTICES (R167). -/
  | takeNotices (tag : Byte) (body : List Byte)
  /-- NOTICE_SET (R168). -/
  | noticeSet (tag : Byte) (body : List Byte)
  /-- PACKAGE_OPEN (R6). -/
  | packageOpen (tag : Byte) (body : List Byte)
  /-- CUE_APPEND (R9). -/
  | cueAppend (tag : Byte) (body : List Byte)
  /-- PACKAGE_SEAL (R14). -/
  | packageSeal (tag : Byte) (body : List Byte)
  /-- PACKAGE_DELETE (R22). -/
  | packageDelete (tag : Byte) (body : List Byte)
  /-- PACKAGE_PROTECT (R20). -/
  | packageProtect (tag : Byte) (body : List Byte)
  /-- PACKAGE_INFO (R24). -/
  | packageInfo (tag : Byte) (body : List Byte)
  /-- PACKAGE_LIST (R24). -/
  | packageList (tag : Byte) (body : List Byte)
  /-- CUE_AMEND (R17). -/
  | cueAmend (tag : Byte) (body : List Byte)
  /-- CUE_READ (R19). -/
  | cueRead (tag : Byte) (body : List Byte)
  /-- STORE_INFO (R43). -/
  | storeInfo (tag : Byte) (body : List Byte)
  /-- STORE_RECLAIM (R42). -/
  | storeReclaim (tag : Byte) (body : List Byte)
  /-- GATE_SET (R60). -/
  | gateSet (tag : Byte) (body : List Byte)
  /-- TIMING_SET (R84). -/
  | timingSet (tag : Byte) (body : List Byte)
  /-- SHOW_BIND (R65). -/
  | showBind (tag : Byte) (body : List Byte)
  /-- SHOW_UNBIND (R67). -/
  | showUnbind (tag : Byte) (body : List Byte)
  /-- SHOW_START (R81). -/
  | showStart (tag : Byte) (body : List Byte)
  /-- POSITION_REPORT (R78). -/
  | positionReport (tag : Byte) (body : List Byte)
  /-- TRACK_SET (R85). -/
  | trackSet (tag : Byte) (body : List Byte)
  /-- SHOW_STATUS (R87). -/
  | showStatus (tag : Byte) (body : List Byte)
  /-- SOUND_BLOCK (R116). -/
  | soundBlock (tag : Byte) (body : List Byte)
  /-- SOUND_FLUSH (R117). -/
  | soundFlush (tag : Byte) (body : List Byte)
  /-- AIR_SET (R147). -/
  | airSet (tag : Byte) (body : List Byte)
  /-- ANNOUNCE (R140). -/
  | announce (tag : Byte) (body : List Byte)
  /-- ANNOUNCE_CANCEL (R142). -/
  | announceCancel (tag : Byte) (body : List Byte)
  /-- EMITTER_SET (R157). -/
  | emitterSet (tag : Byte) (body : List Byte)
  /-- FRAME_ERROR (R162 a): a damaged, malformed or early-ended link frame. -/
  | frameError
  /-- UNKNOWN_KIND (R162 c): a complete frame whose kind is not in the catalogue. -/
  | unknownKind (kind tag : Byte)
  /-- COLLECT_REPLY (R160 b): an SPI collect transfer in which the host clocks `n` bytes after the code. -/
  | collectReply (n : Nat)
  /-- READ_LINK_STATUS (R160): an SPI transfer by its transfer code and the bytes the host clocks in after the code. The code 0x03 is the
  row's own link status transfer (R160 c); the code 0x01 delivers a command frame as bytes, 0x02 collects, and any other has no effect
  (log entry 32). A transfer may end with its code. -/
  | readLinkStatus (code : Byte) (sent : List Byte := [])
  /-- UART_FRAME_TIMEOUT (R161): 2 ms without a byte between two bytes of a frame. -/
  | uartFrameTimeout
  /-- REPLY_SENT (R161): the last CRC byte of the reply in transmission has left the transmitter. -/
  | replySent
  /-- FETCH_READ_DONE (R95): the fetch read in flight completes, having met `errs` bit errors (R34). -/
  | fetchReadDone (errs : Nat)
  /-- SEEK_READ_DONE (R103). -/
  | seekReadDone (errs : Nat)
  /-- BIND_INDEX_READ_DONE (R66). -/
  | bindIndexReadDone (errs : Nat)
  /-- CUE_READ_STEP_DONE (R19). -/
  | cueReadStepDone (errs : Nat)
  /-- LOAD_PAGE_PROGRAM_DONE (R13): `ok` is the success that the flash reports. -/
  | loadPageProgramDone (ok : Bool)
  /-- SEAL_STEP_DONE (R15). -/
  | sealStepDone (ok : Bool)
  /-- AMEND_READ_DONE (R36). -/
  | amendReadDone (errs : Nat)
  /-- AMEND_PROGRAM_DONE (R37). -/
  | amendProgramDone (ok : Bool)
  /-- DELETE_ERASE_DONE (R23). -/
  | deleteEraseDone (ok : Bool)
  /-- RECLAIM_ERASE_DONE (R42). -/
  | reclaimEraseDone (ok : Bool)
  /-- RETIRE_TAG_PROGRAM_DONE (R40). -/
  | retireTagProgramDone (ok : Bool)
  /-- SCAN_TAG_READ_DONE (R44): `damaged` says that the tag's check value does not match (R26). -/
  | scanTagReadDone (damaged : Bool)
  /-- SCAN_SEAL_READ_DONE (R45). -/
  | scanSealReadDone (errs : Nat)
  /-- SWI_INACTIVE (R41): the line becomes inactive; `after` is the level it is left at. -/
  | swiInactive (after : Bool)
  /-- FRAME_PULSE_RISING_EDGE (R47). -/
  | framePulseRisingEdge (n : Aud)
  /-- FRAME_PULSE_FALLING_EDGE (R47). -/
  | framePulseFallingEdge (n : Aud)
  /-- QUALIFYING_COUNT_REACHED (R47). -/
  | qualifyingCountReached (n : Aud)
  /-- MISSING_PULSE_DEADLINE (R54). -/
  | missingPulseDeadline (n : Aud)
  /-- CONTACT_LEVEL_CHANGE (R57): the line takes the level `active`. -/
  | contactLevelChange (line : ContactLine) (active : Bool)
  /-- DEBOUNCE_SETTLED (R57). -/
  | debounceSettled (line : ContactLine)
  /-- CYCLE_EXPIRY (R129). -/
  | cycleExpiry (n : Aud)
  /-- TRANSMISSION_END (R151). -/
  | transmissionEnd (n : Aud)
  /-- OVERCURRENT_FAULT (R153): OCn is asserted; `after` is the level it is left at. -/
  | overcurrentFault (n : Aud) (after : Bool)
  /-- COOLING_END (R154). -/
  | coolingEnd (n : Aud)
  /-- RETIRE_ERASE_DONE (R40). -/
  | retireEraseDone (ok : Bool)
  /-- UART_SYNC_BYTE_RECEIVED (R161): a byte reaches the receive framer on the UART. The sync byte in HUNTING is the row's own case; the
  other bytes of a frame come the same way (log entry 32). `stopOk` says that the byte's stop bit was right. -/
  | uartSyncByteReceived (b : Byte := 0xA7) (stopOk : Bool := true)
  deriving DecidableEq, Repr

end Sys2Proof
end

