-- ==== Sys2Proof/Decode.lean ====
section
/-! DEFINITION. The byte order and the CRC of the Formats chapter, the frame of the control link with its decoder and encoder,
and the host's decodeTableWord (no row of the opcode table gives bits). -/

namespace Sys2Proof

/-! ## Byte order (section 10.1: most significant byte first) -/

/-- One byte. -/
def u8 (n : Nat) : List Byte := [BitVec.ofNat 8 n]

/-- Two bytes. -/
def u16 (n : Nat) : List Byte := [BitVec.ofNat 8 (n / 256), BitVec.ofNat 8 n]

/-- Four bytes. -/
def u32 (n : Nat) : List Byte :=
  [BitVec.ofNat 8 (n / 16777216), BitVec.ofNat 8 (n / 65536), BitVec.ofNat 8 (n / 256), BitVec.ofNat 8 n]

/-- A two's complement number of four bytes (R170). -/
def s32 (i : Int) : List Byte := u32 (i % 4294967296).toNat

/-- The number that bytes spell. -/
def be (bs : List Byte) : Nat := bs.foldl (fun acc b => acc * 256 + b.toNat) 0

/-! ## The CRC-16 (section 10.1) -/

/-- One bit of the CRC register: polynomial x^16 + x^12 + x^5 + 1. -/
def crcBit (r : BitVec 16) : BitVec 16 :=
  if r.msb then (r <<< 1) ^^^ 0x1021#16 else r <<< 1

/-- One byte, most significant bit first. -/
def crcByte (r : BitVec 16) (b : Byte) : BitVec 16 :=
  let r := r ^^^ (b.setWidth 16 <<< 8)
  crcBit (crcBit (crcBit (crcBit (crcBit (crcBit (crcBit (crcBit r)))))))

/-- The register after the bytes, from all ones. -/
def crc16 (bs : List Byte) : BitVec 16 := bs.foldl crcByte 0xFFFF#16

/-- The two CRC bytes, high byte first. -/
def crcBytes (bs : List Byte) : List Byte := u16 (crc16 bs).toNat

/-! ## The frame of the control link (R171) -/

/-- The sync byte. -/
def syncByte : Byte := 0xA7#8

/-- The largest body length. -/
def maxBody : Nat := 1024

/-- The bytes that the CRC of a frame covers: length, kind, tag, body. -/
def frameCore (kind tag : Byte) (body : List Byte) : List Byte := u16 body.length ++ kind :: tag :: body

/-- A frame on the control link. -/
def linkFrame (kind tag : Byte) (body : List Byte) : List Byte :=
  syncByte :: (frameCore kind tag body ++ crcBytes (frameCore kind tag body))

/-- The command of a kind in the catalogue (R171), or UNKNOWN_KIND. -/
def Instr.ofKind (kind tag : Byte) (body : List Byte) : Instr :=
  match kind.toNat with
  | 0x01 => .partInfo tag body
  | 0x02 => .linkStatus tag body
  | 0x03 => .takeNotices tag body
  | 0x04 => .noticeSet tag body
  | 0x05 => .partReset tag body
  | 0x10 => .packageOpen tag body
  | 0x11 => .cueAppend tag body
  | 0x12 => .packageSeal tag body
  | 0x13 => .packageDelete tag body
  | 0x14 => .packageProtect tag body
  | 0x15 => .packageInfo tag body
  | 0x16 => .packageList tag body
  | 0x17 => .cueAmend tag body
  | 0x18 => .cueRead tag body
  | 0x20 => .storeInfo tag body
  | 0x21 => .storeReclaim tag body
  | 0x30 => .gateSet tag body
  | 0x31 => .timingSet tag body
  | 0x32 => .showBind tag body
  | 0x33 => .showUnbind tag body
  | 0x34 => .showStart tag body
  | 0x35 => .positionReport tag body
  | 0x36 => .trackSet tag body
  | 0x37 => .showStatus tag body
  | 0x40 => .soundBlock tag body
  | 0x41 => .soundFlush tag body
  | 0x50 => .airSet tag body
  | 0x51 => .announce tag body
  | 0x52 => .announceCancel tag body
  | 0x60 => .emitterSet tag body
  | _ => .unknownKind kind tag

/-- The kind, tag and body of the frame that delivers a command; `none` for every step that no complete frame delivers. -/
def Instr.frameParts : Instr → Option (Byte × Byte × List Byte)
  | .partInfo tag body => some (0x01, tag, body)
  | .linkStatus tag body => some (0x02, tag, body)
  | .takeNotices tag body => some (0x03, tag, body)
  | .noticeSet tag body => some (0x04, tag, body)
  | .partReset tag body => some (0x05, tag, body)
  | .packageOpen tag body => some (0x10, tag, body)
  | .cueAppend tag body => some (0x11, tag, body)
  | .packageSeal tag body => some (0x12, tag, body)
  | .packageDelete tag body => some (0x13, tag, body)
  | .packageProtect tag body => some (0x14, tag, body)
  | .packageInfo tag body => some (0x15, tag, body)
  | .packageList tag body => some (0x16, tag, body)
  | .cueAmend tag body => some (0x17, tag, body)
  | .cueRead tag body => some (0x18, tag, body)
  | .storeInfo tag body => some (0x20, tag, body)
  | .storeReclaim tag body => some (0x21, tag, body)
  | .gateSet tag body => some (0x30, tag, body)
  | .timingSet tag body => some (0x31, tag, body)
  | .showBind tag body => some (0x32, tag, body)
  | .showUnbind tag body => some (0x33, tag, body)
  | .showStart tag body => some (0x34, tag, body)
  | .positionReport tag body => some (0x35, tag, body)
  | .trackSet tag body => some (0x36, tag, body)
  | .showStatus tag body => some (0x37, tag, body)
  | .soundBlock tag body => some (0x40, tag, body)
  | .soundFlush tag body => some (0x41, tag, body)
  | .airSet tag body => some (0x50, tag, body)
  | .announce tag body => some (0x51, tag, body)
  | .announceCancel tag body => some (0x52, tag, body)
  | .emitterSet tag body => some (0x60, tag, body)
  | .unknownKind kind tag => some (kind, tag, [])
  | .powerOnReset _ => none
  | .lineReset _ => none
  | .frameError => none
  | .collectReply _ => none
  | .readLinkStatus _ _ => none
  | .uartFrameTimeout => none
  | .replySent => none
  | .fetchReadDone _ => none
  | .seekReadDone _ => none
  | .bindIndexReadDone _ => none
  | .cueReadStepDone _ => none
  | .loadPageProgramDone _ => none
  | .sealStepDone _ => none
  | .amendReadDone _ => none
  | .amendProgramDone _ => none
  | .deleteEraseDone _ => none
  | .reclaimEraseDone _ => none
  | .retireTagProgramDone _ => none
  | .scanTagReadDone _ => none
  | .scanSealReadDone _ => none
  | .swiInactive _ => none
  | .framePulseRisingEdge _ => none
  | .framePulseFallingEdge _ => none
  | .qualifyingCountReached _ => none
  | .missingPulseDeadline _ => none
  | .contactLevelChange _ _ => none
  | .debounceSettled _ => none
  | .cycleExpiry _ => none
  | .transmissionEnd _ => none
  | .overcurrentFault _ _ => none
  | .coolingEnd _ => none
  | .retireEraseDone _ => none
  | .uartSyncByteReceived _ _ => none

/-- The kind, tag and body of the frame that the bytes of a deliver transfer or of a frame in reception hold (R160 a, R162 a, R171); `none`
for a first byte that is not the sync byte, a body length above 1024, a frame that ends early and a CRC that does not match. Bytes
after the end of the frame are ignored. -/
def openFrame : List Byte → Option (Byte × Byte × List Byte)
  | sync :: l1 :: l0 :: kind :: tag :: rest =>
    let len := be [l1, l0]
    if sync = syncByte ∧ len ≤ maxBody ∧ len + 2 ≤ rest.length
        ∧ (rest.drop len).take 2 = crcBytes (frameCore kind tag (rest.take len)) then
      some (kind, tag, rest.take len)
    else none
  | _ => none

/-- The step that the bytes of a frame make: its command, UNKNOWN_KIND, or a frame error (R162 a, c, R171). -/
def decodeFrame (bytes : List Byte) : Instr :=
  match openFrame bytes with
  | some (kind, tag, body) => Instr.ofKind kind tag body
  | none => .frameError

/-- Whether the bytes of a frame in reception reach to its last CRC byte: sync, length, kind, tag, body and CRC (R161, R171). -/
def frameComplete (bytes : List Byte) : Bool :=
  decide (3 ≤ bytes.length ∧ 7 + be ((bytes.drop 1).take 2) ≤ bytes.length)

/-- The frame that delivers a command, where a complete frame delivers it. -/
def encodeFrame (i : Instr) : Option (List Byte) :=
  i.frameParts.map fun p => linkFrame p.1 p.2.1 p.2.2

/-! ## The host's table words -/

/-- The command that a word spells by the opcode table's bits. No row of the table gives bits, so no word spells one. -/
def decodeTableWord (_nbits _w : Nat) : Option Instr := none

end Sys2Proof
end

