-- ==== Sys2Proof/Machine/State.lean ====
section
/-! DEFINITION. The state of the SA16 as plain data, the reasons a step can stop, and the machine right after a power-on reset.
Every field cites the rule that names it. What changes a field stands in the other files of this folder. -/

namespace Sys2Proof.Machine

/-- The faults of a step. The manual gives the part no condition in which it stops, so there is none. -/
inductive Fault where
  deriving DecidableEq, Repr

/-- The refusals of a step. -/
inductive Refusal where
  /-- Raised by an arm of `exec` for a row of the opcode table without a meaning (safe). No arm raises it. -/
  | notModelled (mnemonic : String)
  deriving DecidableEq, Repr

/-! ## Packages -/

/-- The rate classes, in the order of the Introduction's table (R170 codes them 0 to 5). -/
inductive RateClass where
  | fps24 | fps25 | fps30 | fps48 | fps50 | fps60
  deriving DecidableEq, Repr

/-- Package states (R2, R3). -/
inductive PkgState where
  | filling | sealing | ready | deleting | abandoned | failed
  deriving DecidableEq, Repr

/-- Protection levels (R20). -/
inductive Protection where
  | unprotected | soft | firm
  deriving DecidableEq, Repr

/-- Kinds of a text track (R2). -/
inductive TextKind where
  | captions | subtitles
  deriving DecidableEq, Repr

/-- A text track description: a 3-byte language label and a kind (R2). -/
structure TextDesc where
  label : List Byte
  kind : TextKind
  deriving DecidableEq, Repr

/-- Placements of a cue (section 1.5). -/
inductive Placement where
  | bottom | top
  deriving DecidableEq, Repr

/-- Emphases of a caption line (section 1.5). -/
inductive Emphasis where
  | plain | italic
  deriving DecidableEq, Repr

/-- A caption line (section 1.5). -/
structure Line where
  emphasis : Emphasis
  text : List Byte
  deriving DecidableEq, Repr

/-- A cue record as the store holds it and a cue copy as an engine holds it (section 1.5, R89). -/
structure Cue where
  number : Nat
  startTick : Nat
  endTick : Nat
  placement : Placement
  speaker : Option Nat
  lines : List Line
  deriving DecidableEq, Repr

/-- An entry of a track page index (R11). -/
structure IndexEntry where
  logical : Nat
  firstCue : Nat
  firstStart : Nat
  deriving DecidableEq, Repr

/-- The fields of a package entry that PACKAGE_OPEN and the appends give it and that its seal page carries (R2, R15);
absent in an entry that the scan found ABANDONED (R45). -/
structure PkgInfo where
  title : List Byte
  rate : RateClass
  duration : Nat
  text : List TextDesc
  sound : List (List Byte)
  cueCounts : Vector Nat 4
  deriving DecidableEq, Repr

/-- Where a track's index pages lie: the position of the first and how many there are (R2, R29). -/
structure IndexLoc where
  first : Nat
  count : Nat
  deriving DecidableEq, Repr

/-- An entry of a page map (R35). -/
structure MapEntry where
  logical : Nat
  page : Nat
  generation : Nat
  deriving DecidableEq, Repr

/-- A package entry (R2), with the package's page map (R35). -/
structure Package where
  id : Nat
  serial : Nat
  state : PkgState
  info : Option PkgInfo
  pageCounts : Vector Nat 4
  blocks : List Nat
  indexLoc : Vector (Option IndexLoc) 4
  amend : Option Nat
  protection : Protection
  binds : Nat
  map : List MapEntry
  deriving DecidableEq, Repr

/-- A load (R6, R10, R11): its package, the staging buffer, the current track and the start tick of its last record, the track page
indexes, and the number of pages handed over so far. -/
structure Load where
  pkg : Nat
  staging : List Byte
  track : Option (Fin 4)
  lastStart : Nat
  index : Vector (List IndexEntry) 4
  handed : Nat
  deriving DecidableEq, Repr

/-! ## The store -/

/-- Roles of a page tag (R26). -/
inductive Role where
  | data | index | seal | amend | retire
  deriving DecidableEq, Repr

/-- A page tag (R26). Of a RETIRE tag only the role is meant. -/
structure PageTag where
  role : Role
  pkg : Nat
  serial : Nat
  logical : Nat
  track : Nat
  generation : Nat
  deriving DecidableEq, Repr

/-- The data of a page: the bytes from its first byte on (every later byte reads 0xFF, R172), or a seal page's content,
whose byte layout the manual does not give (R15). -/
inductive PageBody where
  | bytes (bs : List Byte)
  | sealed (info : PkgInfo) (pageCounts : Vector Nat 4)
  deriving DecidableEq, Repr

/-- A page that is not erased (R25): programmed with a tag and data, left torn by a failed or cut-off operation
(R30, R39), or left by a failed program of a RETIRE tag, whose block the scan will find unrecognised (R40); the last two with the number
of their free value. -/
inductive PageCell where
  | programmed (tag : PageTag) (body : PageBody)
  | torn (k : Nat)
  | unrecognised (k : Nat)
  deriving DecidableEq, Repr

/-- What reading a page tag gives (R44). -/
inductive TagRead where
  | erased
  | readable (tag : PageTag)
  | unreadable
  deriving DecidableEq, Repr

/-- Block classes (R27), in the order STORE_INFO lists them (R43). -/
inductive BlockClass where
  | blank | package | amend | retired | unknown
  deriving DecidableEq, Repr

/-- A block record (R27). -/
structure BlockRec where
  cls : BlockClass
  owner : Option Nat
  nextPage : Nat
  marked : Bool
  deriving DecidableEq, Repr

/-- The requesters of the store engine, in the order of R30's table. -/
inductive Requester where
  | engine (n : Aud) (t : TextTrack)
  | bind (n : Aud)
  | host
  | scan
  deriving DecidableEq, Repr

/-- The two reads of a track engine (R89). -/
inductive ReadKind where
  | fetch | seek
  deriving DecidableEq, Repr

/-- A flash operation as it is requested (R29, R30). A logical page and a position are resolved when the operation starts. -/
inductive StoreOp where
  | readLogical (pkg logical : Nat)
  | readPosition (pkg position : Nat)
  | readTag (block page : Nat)
  | readSeal (block page : Nat)
  | program (block page : Nat)
  | erase (block : Nat)
  deriving DecidableEq, Repr

/-- A request to the store engine (R30, R31): its requester, its operation, the need by which track engine reads are
ranked, and the tags that are returned unchanged. -/
structure Request where
  who : Requester
  op : StoreOp
  kind : ReadKind
  need : Nat
  bindGen : Nat
  seekCount : Nat
  deriving DecidableEq, Repr

/-- The operation in flight: its request and the page (64 · block + page) or block it was resolved to. -/
structure Flight where
  req : Request
  addr : Nat
  deriving DecidableEq, Repr

/-- The page register's content: the tag and the data being written (R33). -/
structure PageImage where
  tag : PageTag
  body : PageBody
  deriving DecidableEq, Repr

/-- The step an amendment has reached (R36, R38, R40). -/
inductive AmendStage where
  | readIndex (ordinal : Nat) (best : Option IndexEntry)
  | readPage (entry : IndexEntry)
  | program (logical generation : Nat) (cue : Cue)
  | retire
  deriving DecidableEq, Repr

/-- The step a cue read has reached (R19). -/
inductive CueReadStage where
  | readIndex (ordinal : Nat) (best : Option IndexEntry)
  | readPage (entry : IndexEntry)
  deriving DecidableEq, Repr

/-- The host store operation (R5). A seal keeps the load of its package, with the staging buffer and the page indexes, until it ends
(R11, R15, R16). -/
inductive HostOp where
  | loadPage (pkg : Nat)
  | sealing (pkg step : Nat) (load : Load)
  | amend (pkg : Nat) (track : Fin 4) (cue : Nat) (placement : Placement) (speaker : Option Nat) (lines : List Line)
      (block : Nat) (reserved : Bool) (stage : AmendStage)
  | cueRead (pkg : Nat) (track : Fin 4) (cue : Nat) (stage : CueReadStage)
  | delete (pkg : Nat) (block : Nat) (rest : List Nat) (retired : Nat)
  | reclaim (block : Nat) (rest : List Nat) (returned retired : Nat)
  deriving DecidableEq, Repr

/-- The host store operation slot when it is occupied: the operation, and the program or erase it waits to request
until SWI becomes inactive, if it waits (R41). -/
structure HostSlot where
  op : HostOp
  waiting : Option StoreOp
  deriving DecidableEq, Repr

/-- What the start-up scan made of a block on its own (R44). -/
inductive ScanClass where
  | blank | retired | unknown | packageCandidate | amendCandidate
  deriving DecidableEq, Repr

/-- A block the scan has visited (R44): its classification, whether it is marked, its next-page number and its tags in page order. -/
structure ScanBlock where
  block : Nat
  cls : ScanClass
  marked : Bool
  nextPage : Nat
  tags : List TagRead
  deriving DecidableEq, Repr

/-- A seal page the scan has still to read (R45). -/
structure SealRead where
  pkg : Nat
  block : Nat
  page : Nat
  deriving DecidableEq, Repr

/-- The start-up scan (R44 to R46): the number of blocks visited, the tags read so far of the block being visited,
the blocks visited, the seal pages still to be read, and the directory that the scan is making, which becomes the package directory
when it completes (R164). -/
structure Scan where
  visited : Nat
  tags : List TagRead
  found : List ScanBlock
  seals : List SealRead
  dir : List Package
  deriving DecidableEq, Repr

/-! ## Auditorium inputs -/

/-- States of the frame-pulse filter (R47). -/
inductive FilterState where
  | low | qualifying | high
  deriving DecidableEq, Repr

/-- States of the frame reference (R49). -/
inductive RefState where
  | absent | set | restarted
  deriving DecidableEq, Repr

/-- Taken levels of a debouncer (R57). -/
inductive Taken where
  | active | inactive | unsettled
  deriving DecidableEq, Repr

/-- A debouncer with the level of its line (R57). -/
structure Debouncer where
  level : Bool
  taken : Taken
  steady : Nat
  deriving DecidableEq, Repr

/-- A gate table entry and the gate value (R59). -/
inductive Gate where
  | opened | closed
  deriving DecidableEq, Repr

/-- An auditorium input unit (chapter 3, R62), with the level of its FPn line. -/
structure InputUnit where
  fp : Bool
  filter : FilterState
  qualCount : Nat
  qualLength : Nat
  wCurrent : Nat
  wStaged : Nat
  candidates : Nat
  ref : RefState
  e : Nat
  pm : Nat
  lastInterval : Nat
  mismatchRun : Nat
  armed : Bool
  auxA : Debouncer
  auxB : Debouncer
  gateTable : Vector Gate 8
  gate : Gate
  deriving DecidableEq, Repr

/-! ## Show contexts -/

/-- Show states (R64). -/
inductive ShowState where
  | vacant | binding | standby | acquiring | locked | coasting | held | finished
  deriving DecidableEq, Repr

/-- The enable and lead of a track (R63). -/
structure TrackSetting where
  enabled : Bool
  lead : Nat
  deriving DecidableEq, Repr

/-- An index page that a bind has still to read (R66). -/
structure BindRead where
  track : Fin 4
  position : Nat
  entries : Nat
  deriving DecidableEq, Repr

/-- A show context (R63). The package fields are `none`, 0 or empty in VACANT. `bindTodo` lists the index pages the
bind has still to read, the one requested first; `bindAsked` says that its read has been requested (R66). -/
structure ShowCtx where
  st : ShowState
  pkg : Option Nat
  rate : Option RateClass
  duration : Nat
  textCount : Nat
  soundCount : Nat
  cueCounts : Vector Nat 4
  c : Nat
  adv : Nat
  k : Int
  coast : Nat
  acquire : Nat
  bindGen : Nat
  coastLimit : Nat
  coastLimitStaged : Nat
  slewWindow : Nat
  slewWindowStaged : Nat
  text : Vector TrackSetting 4
  sound : Vector TrackSetting 2
  index : Vector (List IndexEntry) 4
  bindTodo : List BindRead
  bindAsked : Bool
  deriving DecidableEq, Repr

/-! ## Track engines and playout -/

/-- Track states (R91). -/
inductive TrackState where
  | off | waiting | seeking | running | ended
  deriving DecidableEq, Repr

/-- What a seek has gathered so far and the page index entry its read names (R89). -/
structure SeekColl where
  overlap : List Cue
  future : List Cue
  entry : Nat
  deriving DecidableEq, Repr

/-- The engine's one request to the cue store (R89). -/
structure OutRead where
  kind : ReadKind
  inFlight : Bool
  deriving DecidableEq, Repr

/-- A track engine (R89). -/
structure TrackEngine where
  state : TrackState
  cueCount : Nat
  index : List IndexEntry
  cursor : Nat
  cursorStart : Option Nat
  look : List Cue
  active : List Cue
  seekCount : Nat
  seekPos : Nat
  seek : Option SeekColl
  out : Option OutRead
  starved : Bool
  starveCount : Nat
  missed : Nat
  deriving DecidableEq, Repr

/-- Playout states (R114). -/
inductive PlayState where
  | off | idle | priming | serving | frozen | stopped
  deriving DecidableEq, Repr

/-- A sound block in a playout queue (R113). -/
structure SoundBlk where
  stamp : Nat
  payload : List Byte
  deriving DecidableEq, Repr

/-- A playout engine (R113). -/
structure Playout where
  state : PlayState
  enabled : Bool
  lead : Nat
  z : Option Int
  queue : List SoundBlk
  served : Nat
  gaps : Nat
  discarded : Nat
  skips : Nat
  deriving DecidableEq, Repr

/-! ## The air and the emitter -/

/-- Bit rates (R127), coded 0 to 2 by R170. -/
inductive BitRate where
  | r250 | r500 | r1000
  deriving DecidableEq, Repr

/-- Air settings (R127). -/
structure AirSettings where
  rate : BitRate
  site : Nat
  idle : Nat
  deriving DecidableEq, Repr

/-- Events of a pending event list (R90, R135). -/
inductive Event where
  | cueOn (t : TextTrack) (cue : Cue)
  | cueOff (t : TextTrack) (number : Nat)
  | clear (t : TextTrack)
  | announceEnd
  deriving DecidableEq, Repr

/-- The announcement slot (R127, R140, R141), with the announcement number of R173. A life of `none` is unlimited. -/
inductive AnnSlot where
  | empty
  | active (text : List Byte) (interval countdown : Nat) (life : Option Nat) (number : Nat)
  | ending
  deriving DecidableEq, Repr

/-- Items of an air frame (R132). -/
inductive Item where
  | cueOn (t : TextTrack) (cue : Cue)
  | repeated (t : TextTrack) (cue : Cue)
  | cueOff (t : TextTrack) (number : Nat)
  | clear (t : TextTrack)
  | sound (t : SoundTrack) (stamp : Nat) (payload : List Byte)
  | gap (t : SoundTrack) (stamp : Nat)
  | announce (interval number : Nat) (text : List Byte)
  | announceEnd
  deriving DecidableEq, Repr

/-- A built air frame: the header fields of R145 and R173 and its items. -/
structure AirFrame where
  site : Nat
  aud : Nat
  sequence : Nat
  flags : Byte
  length : Nat
  position : Nat
  bindGen : Nat
  mask : Byte
  items : List Item
  deriving DecidableEq, Repr

/-- An air scheduler (R127). The budget B follows from the current bit rate (R131), and the byte account exists only
within a frame build. -/
structure AirSched where
  timer : Nat
  current : AirSettings
  staged : AirSettings
  sequence : Nat
  pend : List Event
  carousel : Fin 16
  ann : AnnSlot
  beacon : Nat
  lastGate : Option Gate
  lastSize : Nat
  built : Nat
  overflows : Nat
  deriving DecidableEq, Repr

/-- Line modes, rest pulls and pairings (R149, R150). -/
inductive LineMode where
  | off | pushPull | sink | source
  deriving DecidableEq, Repr

inductive RestPull where
  | floating | weakLow | weakHigh
  deriving DecidableEq, Repr

inductive Pairing where
  | independent | tracking | antivalent
  deriving DecidableEq, Repr

/-- The line settings of an emitter unit (R149). -/
structure LineSettings where
  modeA : LineMode
  pullA : RestPull
  modeB : LineMode
  pullB : RestPull
  pairing : Pairing
  p : Nat
  w : Nat
  deriving DecidableEq, Repr

/-- Emitter states (R152). -/
inductive EmitState where
  | disabled | sleeping | active | cooling | latchedOff
  deriving DecidableEq, Repr

/-- A transmission: the frame on the lines, its bit rate, the line settings it is sent with, and the reference counts it has run (R149, R151). A
frame is never sent with settings mixed from two EMITTER_SET commands, so a transmission keeps those it began with (log entry 36). -/
structure Transmission where
  frame : AirFrame
  rate : BitRate
  lines : LineSettings
  progress : Nat
  deriving DecidableEq, Repr

/-- An emitter unit (R149), with the level of its OCn line. -/
structure Emitter where
  state : EmitState
  current : LineSettings
  staged : LineSettings
  demand : Bool
  tx : Option Transmission
  retry : Nat
  clean : Nat
  cooling : Nat
  sent : Nat
  dropped : Nat
  lastFault : Option Nat
  oc : Bool
  deriving DecidableEq, Repr

/-- The blocks of one auditorium (Introduction, section 3). -/
structure Auditorium where
  input : InputUnit
  ctx : ShowCtx
  text : Vector TrackEngine 4
  sound : Vector Playout 2
  air : AirSched
  emit : Emitter
  deriving DecidableEq, Repr

/-! ## The control link -/

/-- Link selections (R159). -/
inductive LinkSel where
  | spi | uart
  deriving DecidableEq, Repr

/-- Part-wide phases (R159). -/
inductive Phase where
  | starting | running
  deriving DecidableEq, Repr

/-- The receive framer (R159, R161): HUNTING, or a frame in reception with its bytes so far and the measure counts since the last. -/
inductive Framer where
  | hunting
  | receiving (bytes : List Byte) (gap : Nat)
  deriving DecidableEq, Repr

/-- Result codes, in the order of the table of section 9.4 (R171). -/
inductive Code where
  | ok | accepted | busy | state | range | noSuch | order | full | late | duplicate | guarded | bound | starting
  | linkBusy | frameError | unknownKind
  deriving DecidableEq, Repr

/-- A reply: its kind, its tag, its result code and the bytes of the values after it (R171). -/
structure Reply where
  kind : Byte
  tag : Byte
  code : Code
  vals : List Byte
  deriving DecidableEq, Repr

/-- The reply buffer (R159, R163). WITHHELD keeps the kind and tag of the CUE_READ that is owed its reply. -/
inductive ReplyBuf where
  | empty
  | withheld (kind tag : Byte)
  | ready (r : Reply)
  deriving DecidableEq, Repr

/-- Which of the two holders of a reply the UART transmitter is sending (R161). -/
inductive TxSource where
  | slot | buffer
  deriving DecidableEq, Repr

/-- Notice sources (R166, R170). -/
inductive Source where
  | aud (n : Aud)
  | store
  | part
  deriving DecidableEq, Repr

/-- Notice kinds, in the order of their ordinals (section 9.6). -/
inductive NoticeKind where
  | showHeld | storeFail | storeUncorrectable | emitterLatched | rateMismatch | pulseLost | lockGained | jumped
  | earlyPulse | cueMissed | soundSkip | frameDropped | emitterFault | storeDone | storeWorn | bindDone | showFinished
  | startDone
  deriving DecidableEq, Repr

/-- An entry of the pending-notice set (R166); its level is fixed by its kind. The detail is held as the bytes of R170. -/
structure Notice where
  source : Source
  kind : NoticeKind
  count : Nat
  detail : List Byte
  deriving DecidableEq, Repr

/-- Attention thresholds (R168). -/
inductive Threshold where
  | alert | all
  deriving DecidableEq, Repr

/-! ## The part -/

/-- The whole part. -/
structure State where
  /-- Link selection (R159). -/
  linkSel : LinkSel
  /-- Part-wide phase (R159). -/
  phase : Phase
  /-- Receive framer (R159). -/
  framer : Framer
  /-- Reply buffer (R159). -/
  replyBuf : ReplyBuf
  /-- Refusal slot (R159). -/
  refusal : Option Reply
  /-- What the UART transmitter is sending (R161). -/
  uartTx : Option TxSource
  /-- The bytes clocked out after the code of the latest SPI transfer (R160): the model's own field, log entry 6. -/
  linkOut : List Byte
  /-- Pending-notice set, in taking order (R166, R167). -/
  notices : List Notice
  /-- Attention threshold (R168). -/
  threshold : Threshold
  /-- Attention line ATTN (R168). -/
  attn : Bool
  /-- Count of accepted ANNOUNCE commands (R173). -/
  announces : Nat
  /-- Package directory, in ascending package id (R1). -/
  packages : List Package
  /-- Serial high-water (R4). -/
  serialHigh : Nat
  /-- Load in progress of the package in FILLING (R6); the load of a package in SEALING is kept by its seal, in the slot (R15, log entry 38). -/
  load : Option Load
  /-- Host store operation slot (R5). -/
  slot : Option HostSlot
  /-- The flash: the pages that are not erased, by page number 64 · block + page, in rising order (section 2.1). -/
  flash : List (Nat × PageCell)
  /-- Block records (R27). -/
  blocks : Vector BlockRec 128
  /-- Page register (R33). -/
  pageReg : Option PageImage
  /-- Store engine: idle, or the operation in flight (R30). -/
  flight : Option Flight
  /-- Request queue, in the order of joining (R30). -/
  queue : List Request
  /-- Start-up scan, during STARTING (R44). -/
  scan : Option Scan
  /-- Level of the SWI line (R41). -/
  swi : Bool
  /-- Site hold debouncer (R58). -/
  shold : Debouncer
  /-- The sixteen auditoriums. -/
  auds : Vector Auditorium 16
  /-- Number of the next free value: the model's own field, log entry 4. -/
  free : Nat
  /-- The commands that wait, first in, first out: the model's own field, log entry 1. -/
  pending : List Instr
  deriving DecidableEq, Repr

/-! ## After a power-on reset -/

/-- A debouncer after any reset (R57), for a line that stands inactive (log entry 7). -/
def Debouncer.reset : Debouncer := { level := false, taken := .unsettled, steady := 0 }

/-- The default gate table (R59). -/
def defaultGateTable : Vector Gate 8 :=
  #v[.opened, .opened, .opened, .opened, .closed, .closed, .closed, .closed]

/-- An input unit after any reset (R62's table). The filter length in force at the rising edge, which neither R48 nor R62's table gives a value for,
is 24, the current filter length (log entry 42). -/
def InputUnit.reset : InputUnit :=
  { fp := false, filter := .high, qualCount := 0, qualLength := 24, wCurrent := 24, wStaged := 24, candidates := 0
    ref := .absent, e := 0, pm := 0, lastInterval := 0, mismatchRun := 0, armed := true
    auxA := .reset, auxB := .reset, gateTable := defaultGateTable, gate := .closed }

/-- A track setting after any reset (R88). -/
def TrackSetting.reset : TrackSetting := { enabled := false, lead := 24 }

/-- A show context after a power-on reset (R88). -/
def ShowCtx.reset : ShowCtx :=
  { st := .vacant, pkg := none, rate := none, duration := 0, textCount := 0, soundCount := 0
    cueCounts := Vector.replicate 4 0, c := 0, adv := 0, k := 0, coast := 0, acquire := 0, bindGen := 0
    coastLimit := 12, coastLimitStaged := 12, slewWindow := 6, slewWindowStaged := 6
    text := Vector.replicate 4 .reset, sound := Vector.replicate 2 .reset, index := Vector.replicate 4 []
    bindTodo := [], bindAsked := false }

/-- A track engine after any reset (R112). -/
def TrackEngine.reset : TrackEngine :=
  { state := .off, cueCount := 0, index := [], cursor := 0, cursorStart := none, look := [], active := []
    seekCount := 0, seekPos := 0, seek := none, out := none, starved := false, starveCount := 0, missed := 0 }

/-- A playout engine after any reset (R126). -/
def Playout.reset : Playout :=
  { state := .off, enabled := false, lead := 24, z := none, queue := [], served := 0, gaps := 0, discarded := 0, skips := 0 }

/-- Air settings after a power-on reset (R148). -/
def AirSettings.reset : AirSettings := { rate := .r500, site := 0, idle := 50 }

/-- The air scheduler of auditorium `n` after a power-on reset (R148). -/
def AirSched.reset (n : Nat) : AirSched :=
  { timer := 1500 * (n + 1), current := .reset, staged := .reset, sequence := 0, pend := [], carousel := 0, ann := .empty
    beacon := 0, lastGate := none, lastSize := 0, built := 0, overflows := 0 }

/-- Line settings after a power-on reset (R158). -/
def LineSettings.reset : LineSettings :=
  { modeA := .off, pullA := .weakLow, modeB := .off, pullB := .weakLow, pairing := .independent, p := 12, w := 6 }

/-- An emitter unit after a power-on reset (R158), for an OCn line that stands deasserted (log entry 7). -/
def Emitter.reset : Emitter :=
  { state := .disabled, current := .reset, staged := .reset, demand := false, tx := none, retry := 0, clean := 0
    cooling := 0, sent := 0, dropped := 0, lastFault := none, oc := false }

/-- An auditorium after a power-on reset. -/
def Auditorium.reset (n : Nat) : Auditorium :=
  { input := .reset, ctx := .reset, text := Vector.replicate 4 .reset, sound := Vector.replicate 2 .reset
    air := .reset n, emit := .reset }

/-- A block record before the scan has rebuilt it (log entry 8). -/
def BlockRec.reset : BlockRec := { cls := .unknown, owner := none, nextPage := 0, marked := false }

/-- The scan as it begins (R44): the tag of page 0 of block 0 is being read. -/
def Scan.reset : Scan := { visited := 0, tags := [], found := [], seals := [], dir := [] }

/-- The scan's first tag read, in flight from the reset on (R44, R159). -/
def Flight.reset : Flight :=
  { req := { who := .scan, op := .readTag 0 0, kind := .fetch, need := 0, bindGen := 0, seekCount := 0 }, addr := 0 }

/-- The machine right after a power-on reset (R159 and the reset tables of every chapter), with a blank flash (log entry 9),
LINKSEL tied low and every input line inactive (log entry 7). -/
def State.reset : State :=
  { linkSel := .spi, phase := .starting, framer := .hunting, replyBuf := .empty, refusal := none, uartTx := none
    linkOut := [], notices := [], threshold := .alert, attn := false, announces := 0
    packages := [], serialHigh := 65535, load := none, slot := none
    flash := [], blocks := Vector.replicate 128 .reset, pageReg := none, flight := some .reset, queue := []
    scan := some .reset, swi := false, shold := .reset, auds := Vector.ofFn (fun n => .reset n.val), free := 0, pending := [] }

end Sys2Proof.Machine
end

