-- ==== Sys2Proof/Machine/Operands.lean ====
section
/-! DEFINITION. The values of a command's body and of a reply: the numbers of a rate class, the codes of enumerated values, and the
coding of values in a reply or a notice detail (R170), read and written in one place. -/

namespace Sys2Proof.Machine

/-! ## Rate classes (Introduction, section 5) -/

/-- T, the ticks per frame. -/
def RateClass.ticks : RateClass → Nat
  | .fps24 => 50 | .fps25 => 48 | .fps30 => 40 | .fps48 => 25 | .fps50 => 24 | .fps60 => 20

/-- N, the nominal measure counts per frame. -/
def RateClass.nominal : RateClass → Nat
  | .fps24 => 50000 | .fps25 => 48000 | .fps30 => 40000 | .fps48 => 25000 | .fps50 => 24000 | .fps60 => 20000

/-- Lo, the lower bound of the rate window (R51). -/
def RateClass.lo (r : RateClass) : Nat := 7 * r.nominal / 8

/-- Hi, the upper bound of the rate window (R51). -/
def RateClass.hi (r : RateClass) : Nat := 9 * r.nominal / 8

/-- s, the largest slew step (R63). -/
def RateClass.step (r : RateClass) : Nat := r.ticks / 8

/-! ## Codes of enumerated values (R170) -/

def RateClass.code : RateClass → Nat
  | .fps24 => 0 | .fps25 => 1 | .fps30 => 2 | .fps48 => 3 | .fps50 => 4 | .fps60 => 5
def PkgState.code : PkgState → Nat
  | .filling => 0 | .sealing => 1 | .ready => 2 | .deleting => 3 | .abandoned => 4 | .failed => 5
def Protection.code : Protection → Nat
  | .unprotected => 0 | .soft => 1 | .firm => 2
def TextKind.code : TextKind → Nat
  | .captions => 0 | .subtitles => 1
def Placement.code : Placement → Nat
  | .bottom => 0 | .top => 1
def Emphasis.code : Emphasis → Nat
  | .plain => 0 | .italic => 1
def FilterState.code : FilterState → Nat
  | .low => 0 | .qualifying => 1 | .high => 2
def RefState.code : RefState → Nat
  | .absent => 0 | .set => 1 | .restarted => 2
def Taken.code : Taken → Nat
  | .active => 0 | .inactive => 1 | .unsettled => 2
def Gate.code : Gate → Nat
  | .opened => 0 | .closed => 1
def ShowState.code : ShowState → Nat
  | .vacant => 0 | .binding => 1 | .standby => 2 | .acquiring => 3 | .locked => 4 | .coasting => 5 | .held => 6 | .finished => 7
def TrackState.code : TrackState → Nat
  | .off => 0 | .waiting => 1 | .seeking => 2 | .running => 3 | .ended => 4
def PlayState.code : PlayState → Nat
  | .off => 0 | .idle => 1 | .priming => 2 | .serving => 3 | .frozen => 4 | .stopped => 5
def BitRate.code : BitRate → Nat
  | .r250 => 0 | .r500 => 1 | .r1000 => 2
def LineMode.code : LineMode → Nat
  | .off => 0 | .pushPull => 1 | .sink => 2 | .source => 3
def RestPull.code : RestPull → Nat
  | .floating => 0 | .weakLow => 1 | .weakHigh => 2
def Pairing.code : Pairing → Nat
  | .independent => 0 | .tracking => 1 | .antivalent => 2
def EmitState.code : EmitState → Nat
  | .disabled => 0 | .sleeping => 1 | .active => 2 | .cooling => 3 | .latchedOff => 4
def LinkSel.code : LinkSel → Nat
  | .spi => 0 | .uart => 1
def Phase.code : Phase → Nat
  | .starting => 0 | .running => 1
def Threshold.code : Threshold → Nat
  | .alert => 0 | .all => 1
def AnnSlot.code : AnnSlot → Nat
  | .empty => 0 | .active _ _ _ _ _ => 1 | .ending => 2

/-- Result codes are 0x00 to 0x0F in table order (R171). -/
def Code.code : Code → Nat
  | .ok => 0 | .accepted => 1 | .busy => 2 | .state => 3 | .range => 4 | .noSuch => 5 | .order => 6 | .full => 7
  | .late => 8 | .duplicate => 9 | .guarded => 10 | .bound => 11 | .starting => 12 | .linkBusy => 13 | .frameError => 14
  | .unknownKind => 15

/-- Requester kinds, numbered in the order of R30's table (R170). -/
def Requester.code : Requester → Nat
  | .engine _ _ => 0 | .bind _ => 1 | .host => 2 | .scan => 3

/-- Kinds of the host store operation, in the order of R5's list. -/
def HostOp.code : HostOp → Nat
  | .loadPage _ => 0 | .sealing _ _ _ => 1 | .amend _ _ _ _ _ _ _ _ _ => 2 | .cueRead _ _ _ _ => 3
  | .delete _ _ _ _ => 4 | .reclaim _ _ _ _ => 5

/-- Event kinds of a pending list, in the order of R135. -/
def Event.code : Event → Nat
  | .cueOn _ _ => 0 | .cueOff _ _ => 1 | .clear _ => 2 | .announceEnd => 3

/-- The text track an event names (R90). -/
def Event.track : Event → Option Nat
  | .cueOn t _ => some t.val | .cueOff t _ => some t.val | .clear t => some t.val | .announceEnd => none

/-! ## Codes read from a body: `none` is an out-of-range value (R170) -/

def RateClass.ofByte (b : Byte) : Option RateClass :=
  [RateClass.fps24, .fps25, .fps30, .fps48, .fps50, .fps60][b.toNat]?
def Protection.ofByte (b : Byte) : Option Protection := [Protection.unprotected, .soft, .firm][b.toNat]?
def TextKind.ofByte (b : Byte) : Option TextKind := [TextKind.captions, .subtitles][b.toNat]?
def Placement.ofByte (b : Byte) : Option Placement := [Placement.bottom, .top][b.toNat]?
def Emphasis.ofByte (b : Byte) : Option Emphasis := [Emphasis.plain, .italic][b.toNat]?
def Gate.ofByte (b : Byte) : Option Gate := [Gate.opened, .closed][b.toNat]?
def BitRate.ofByte (b : Byte) : Option BitRate := [BitRate.r250, .r500, .r1000][b.toNat]?
def LineMode.ofByte (b : Byte) : Option LineMode := [LineMode.off, .pushPull, .sink, .source][b.toNat]?
def RestPull.ofByte (b : Byte) : Option RestPull := [RestPull.floating, .weakLow, .weakHigh][b.toNat]?
def Pairing.ofByte (b : Byte) : Option Pairing := [Pairing.independent, .tracking, .antivalent][b.toNat]?
def Threshold.ofByte (b : Byte) : Option Threshold := [Threshold.alert, .all][b.toNat]?

/-- An enable: disabled 0, enabled 1 (R170). -/
def enableOf (b : Byte) : Option Bool := [false, true][b.toNat]?

/-- A speaker tag: 0 is absent, 1 to 31 a tag (R170, section 1.5). -/
def speakerOf (b : Byte) : Option (Option Nat) :=
  if b.toNat = 0 then some none else if b.toNat ≤ 31 then some (some b.toNat) else none

/-- An auditorium number, 0 to 15. -/
def audOf (b : Byte) : Option Aud := if h : b.toNat < 16 then some ⟨b.toNat, h⟩ else none

/-- A text track number, 0 to 3. -/
def textOf (b : Byte) : Option TextTrack := if h : b.toNat < 4 then some ⟨b.toNat, h⟩ else none

/-- A sound track number, 0 to 1. -/
def soundOf (b : Byte) : Option SoundTrack := if h : b.toNat < 2 then some ⟨b.toNat, h⟩ else none

/-- An enable and a lead, 0 to 240 (R65, R85). -/
def settingOf (enable lead : Byte) : Option TrackSetting :=
  match enableOf enable with
  | some b => if lead.toNat ≤ 240 then some { enabled := b, lead := lead.toNat } else none
  | none => none

/-! ## Coding of values in replies and notice details (R170) -/

/-- A value of two states that no list names. -/
def flag (b : Bool) : List Byte := u8 (if b then 1 else 0)

/-- A value that may be absent: a presence byte, then the value, all 0 where it is absent. -/
def present (zero : List Byte) : Option (List Byte) → List Byte
  | some v => u8 1 ++ v
  | none => u8 0 ++ zero

/-- A number of one byte that may be absent. -/
def optU8 (o : Option Nat) : List Byte := present (u8 0) (o.map u8)
/-- A number of two bytes that may be absent. -/
def optU16 (o : Option Nat) : List Byte := present (u16 0) (o.map u16)
/-- A number of four bytes that may be absent. -/
def optU32 (o : Option Nat) : List Byte := present (u32 0) (o.map u32)
/-- A signed number that may be absent. -/
def optS32 (o : Option Int) : List Byte := present (u32 0) (o.map s32)

/-- A text: a length byte and its bytes. -/
def textBytes (t : List Byte) : List Byte := u8 t.length ++ t

/-- A list of values: a count byte and its members in order. -/
def listBytes (f : α → List Byte) (l : List α) : List Byte := u8 l.length ++ l.flatMap f

/-- A line: an emphasis byte, a length byte and the text (R171, R172). -/
def Line.bytes (l : Line) : List Byte := u8 l.emphasis.code ++ textBytes l.text

/-- A speaker tag byte: 0 is absent (R170). -/
def speakerByte (o : Option Nat) : List Byte := u8 (o.getD 0)

/-- An enable and a lead. -/
def TrackSetting.bytes (t : TrackSetting) : List Byte := flag t.enabled ++ u8 t.lead

/-- Air settings: bit rate, site code, idle period (R148). -/
def AirSettings.bytes (a : AirSettings) : List Byte := u8 a.rate.code ++ u16 a.site ++ u8 a.idle

/-- Line settings, in the order of EMITTER_SET's body (R158, R171). -/
def LineSettings.bytes (l : LineSettings) : List Byte :=
  u8 l.modeA.code ++ u8 l.pullA.code ++ u8 l.modeB.code ++ u8 l.pullB.code ++ u8 l.pairing.code ++ u16 l.p ++ u16 l.w

end Sys2Proof.Machine
end

