-- ==== Sys2Proof/Machine/Cues.lean ====
section
/-! DEFINITION. The forms of a cue record (R172): the appended record of a CUE_APPEND, the stored record of a data page, and the
index page; each read and written here, once. -/

namespace Sys2Proof.Machine

/-! ## Appended records and the lines of a body -/

/-- A line as a body carries it, its emphasis not yet judged. -/
structure RawLine where
  emphasis : Byte
  text : List Byte
  deriving DecidableEq, Repr

/-- An appended record as a body carries it, its values not yet judged (R172). -/
structure RawRecord where
  track : Nat
  startTick : Nat
  endTick : Nat
  placement : Byte
  speaker : Byte
  lines : List RawLine
  deriving DecidableEq, Repr

/-- `n` lines from the front of the bytes, with the bytes after them; `none` where the bytes end first. -/
def rawLines : Nat → List Byte → Option (List RawLine × List Byte)
  | 0, bs => some ([], bs)
  | n + 1, em :: len :: rest =>
    if rest.length < len.toNat then none
    else
      match rawLines n (rest.drop len.toNat) with
      | some (ls, rest') => some ({ emphasis := em, text := rest.take len.toNat } :: ls, rest')
      | none => none
  | _ + 1, _ => none

/-- One appended record from the front of the bytes. -/
def rawRecord : List Byte → Option (RawRecord × List Byte)
  | tr :: s3 :: s2 :: s1 :: s0 :: e3 :: e2 :: e1 :: e0 :: pl :: sp :: n :: rest =>
    match rawLines n.toNat rest with
    | some (ls, rest') =>
      some ({ track := tr.toNat, startTick := be [s3, s2, s1, s0], endTick := be [e3, e2, e1, e0], placement := pl
              speaker := sp, lines := ls }, rest')
    | none => none
  | _ => none

/-- Appended records back to back; `none` where the body does not end exactly at the end of a record (R172). The first
argument bounds the number of records: each has 12 bytes or more, so the body's length will do. -/
def rawRecords : Nat → List Byte → Option (List RawRecord)
  | _, [] => some []
  | 0, _ :: _ => none
  | n + 1, b :: bs =>
    match rawRecord (b :: bs) with
    | some (r, rest) =>
      match rawRecords n rest with
      | some rs => some (r :: rs)
      | none => none
    | none => none

/-- A line whose emphasis and length lie within the cue record table: PLAIN or ITALIC, 1 to 48 bytes (section 1.5). -/
def RawLine.checked (l : RawLine) : Option Line :=
  match Emphasis.ofByte l.emphasis with
  | some em => if 1 ≤ l.text.length ∧ l.text.length ≤ 48 then some { emphasis := em, text := l.text } else none
  | none => none

/-- The fields that an amendment may change, judged by the cue record table. -/
structure CueText where
  placement : Placement
  speaker : Option Nat
  lines : List Line
  deriving DecidableEq, Repr

/-- Placement, speaker tag and 1 to 3 lines within the values of the cue record table (R7 c, R17 d). -/
def checkedText (placement speaker : Byte) (lines : List RawLine) : Option CueText :=
  match Placement.ofByte placement, speakerOf speaker, lines.mapM RawLine.checked with
  | some pl, some sp, some ls =>
    if 1 ≤ ls.length ∧ ls.length ≤ 3 then some { placement := pl, speaker := sp, lines := ls } else none
  | _, _, _ => none

/-! ## Stored records -/

/-- The bytes of a stored record (R172). -/
def Cue.stored (c : Cue) : List Byte :=
  u16 c.number ++ u32 c.startTick ++ u32 c.endTick ++ u8 c.placement.code ++ speakerByte c.speaker ++ u8 c.lines.length
    ++ c.lines.flatMap Line.bytes

/-- Σ(2 + line length) of a list of lines. -/
def linesSize (ls : List Line) : Nat := (ls.map fun l => 2 + l.text.length).sum

/-- The stored size of a record: 13 bytes and its lines (section 1.5). -/
def Cue.storedSize (c : Cue) : Nat := 13 + linesSize c.lines

/-- A page's 1024 data bytes: every byte after the last one written reads 0xFF (R172). -/
def paddedPage (bs : List Byte) : List Byte := bs ++ List.replicate (Config.pageBytes - bs.length) 0xFF#8

/-- `n` stored lines from the front of the bytes. -/
def storedLines : Nat → List Byte → List Line × List Byte
  | n + 1, em :: len :: rest =>
    let r := storedLines n (rest.drop len.toNat)
    ({ emphasis := if em.toNat = 0 then .plain else .italic, text := rest.take len.toNat } :: r.1, r.2)
  | _, bs => ([], bs)

/-- Stored records from the front of the bytes, until fewer than 13 bytes remain or a start tick reads 0xFFFFFFFF (R172).
The first argument bounds their number. -/
def storedRecords : Nat → List Byte → List Cue
  | fuel + 1, n1 :: n0 :: s3 :: s2 :: s1 :: s0 :: e3 :: e2 :: e1 :: e0 :: pl :: sp :: cnt :: rest =>
    if be [s3, s2, s1, s0] = 0xFFFFFFFF then []
    else
      let r := storedLines cnt.toNat rest
      { number := be [n1, n0], startTick := be [s3, s2, s1, s0], endTick := be [e3, e2, e1, e0]
        placement := if pl.toNat = 0 then .bottom else .top
        speaker := if sp.toNat = 0 then none else some sp.toNat
        lines := r.1 } :: storedRecords fuel r.2
  | _, _ => []

/-- The most records a page can hold: 1024 div 13, rounded up. -/
def maxPageRecords : Nat := 79

/-- The cues of a data page. -/
def pageCues (bs : List Byte) : List Cue := storedRecords maxPageRecords (paddedPage bs)

/-- The data bytes of a list of cues, back to back. -/
def cuesBytes (cs : List Cue) : List Byte := cs.flatMap Cue.stored

/-! ## Index pages -/

/-- Entries of a full index page (R15). -/
def indexPerPage : Nat := 128

/-- The bytes of an index entry (R172). -/
def IndexEntry.bytes (e : IndexEntry) : List Byte := u16 e.logical ++ u16 e.firstCue ++ u32 e.firstStart

/-- `n` index entries from the front of the bytes (R172). -/
def indexEntries : Nat → List Byte → List IndexEntry
  | n + 1, l1 :: l0 :: c1 :: c0 :: s3 :: s2 :: s1 :: s0 :: rest =>
    { logical := be [l1, l0], firstCue := be [c1, c0], firstStart := be [s3, s2, s1, s0] } :: indexEntries n rest
  | _, _ => []

/-- The number of index pages a track's entries fill (R14, R15). -/
def indexPages (entries : Nat) : Nat := (entries + 127) / 128

/-- The number of entries on index page `ordinal` of a track with `entries` of them (R172). -/
def entriesOnPage (entries ordinal : Nat) : Nat := min indexPerPage (entries - indexPerPage * ordinal)

/-- The last entry whose first cue number does not exceed `cue` (R19, R36, R94). -/
def lastEntryFor (idx : List IndexEntry) (cue : Nat) : Option IndexEntry :=
  (idx.filter fun e => decide (e.firstCue ≤ cue)).getLast?

end Sys2Proof.Machine
end

