-- ==== Sys2Proof/Machine/Ops.lean ====
section
/-! DEFINITION. The named operations over the state: the blocks of an auditorium, notices and the attention line, the reply buffer and
the refusal slot, the taking of a command, the flash, the block records and the directory. -/

namespace Sys2Proof.Machine

/-! ## Small arithmetic -/

/-- A count that stops at its limit. -/
def satAdd (limit a b : Nat) : Nat := min limit (a + b)

/-- A count of 16 bits that wraps to 0. -/
def wrap16 (n : Nat) : Nat := n % 65536

/-- A count of 8 bits that wraps to 0. -/
def wrap8 (n : Nat) : Nat := n % 256

/-! ## The blocks of an auditorium -/

def State.aud (s : State) (n : Aud) : Auditorium := s.auds.get n

def State.setAud (s : State) (n : Aud) (a : Auditorium) : State := { s with auds := s.auds.set n.val a n.isLt }

def State.modAud (s : State) (n : Aud) (f : Auditorium → Auditorium) : State := s.setAud n (f (s.aud n))

def State.modInput (s : State) (n : Aud) (f : InputUnit → InputUnit) : State :=
  s.modAud n fun a => { a with input := f a.input }

def State.modCtx (s : State) (n : Aud) (f : ShowCtx → ShowCtx) : State :=
  s.modAud n fun a => { a with ctx := f a.ctx }

def State.modAir (s : State) (n : Aud) (f : AirSched → AirSched) : State :=
  s.modAud n fun a => { a with air := f a.air }

def State.modEmit (s : State) (n : Aud) (f : Emitter → Emitter) : State :=
  s.modAud n fun a => { a with emit := f a.emit }

def State.eng (s : State) (n : Aud) (t : TextTrack) : TrackEngine := (s.aud n).text.get t

def State.modEng (s : State) (n : Aud) (t : TextTrack) (f : TrackEngine → TrackEngine) : State :=
  s.modAud n fun a => { a with text := a.text.set t.val (f (a.text.get t)) t.isLt }

def State.play (s : State) (n : Aud) (t : SoundTrack) : Playout := (s.aud n).sound.get t

def State.modPlay (s : State) (n : Aud) (t : SoundTrack) (f : Playout → Playout) : State :=
  s.modAud n fun a => { a with sound := a.sound.set t.val (f (a.sound.get t)) t.isLt }

/-- All auditoriums, in ascending order. -/
def allAuds : List Aud := [0, 1, 2, 3, 4, 5, 6, 7, 8, 9, 10, 11, 12, 13, 14, 15]

/-- All text tracks, in ascending order. -/
def allText : List TextTrack := [0, 1, 2, 3]

/-- All sound tracks, in ascending order. -/
def allSound : List SoundTrack := [0, 1]

/-- Whether a text track of an auditorium is enabled in its show context. -/
def State.textOn (s : State) (n : Aud) (t : TextTrack) : Bool := ((s.aud n).ctx.text.get t).enabled

/-! ## Notices (R166 to R168) -/

/-- The ordinal of a kind (section 9.6). -/
def NoticeKind.ordinal : NoticeKind → Nat
  | .showHeld => 1 | .storeFail => 2 | .storeUncorrectable => 3 | .emitterLatched => 4 | .rateMismatch => 5
  | .pulseLost => 6 | .lockGained => 7 | .jumped => 8 | .earlyPulse => 9 | .cueMissed => 10 | .soundSkip => 11
  | .frameDropped => 12 | .emitterFault => 13 | .storeDone => 14 | .storeWorn => 15 | .bindDone => 16
  | .showFinished => 17 | .startDone => 18

/-- Whether a kind is of level ALERT (section 9.6): the first five are. -/
def NoticeKind.isAlert (k : NoticeKind) : Bool := decide (k.ordinal ≤ 5)

/-- The code of a level: ALERT 0, INFO 1 (R170). -/
def NoticeKind.level (k : NoticeKind) : Nat := if k.isAlert then 0 else 1

/-- The code of a source (R170). -/
def Source.code : Source → Nat
  | .aud n => n.val | .store => 16 | .part => 17

/-- The place of a pair of source and kind in the taking order: level, source, ordinal (R167). -/
def noticeRank (src : Source) (k : NoticeKind) : Nat := k.level * 10000 + src.code * 100 + k.ordinal

def Notice.rank (x : Notice) : Nat := noticeRank x.source x.kind

/-- The set with one more occurrence of a pair: the entry's count rises, to 255 at most, and its detail is replaced, or an
entry is made at its place (R166). -/
def addNotice (src : Source) (k : NoticeKind) (detail : List Byte) : List Notice → List Notice
  | [] => [{ source := src, kind := k, count := 1, detail := detail }]
  | x :: xs =>
    if noticeRank src k = x.rank then { x with count := satAdd 255 x.count 1, detail := detail } :: xs
    else if noticeRank src k < x.rank then { source := src, kind := k, count := 1, detail := detail } :: x :: xs
    else x :: addNotice src k detail xs

/-- Whether an entry meets the attention threshold (R168). -/
def Threshold.meets (th : Threshold) (x : Notice) : Bool :=
  match th with
  | .alert => x.kind.isAlert
  | .all => true

/-- The level of the attention line for a set and a threshold (R168). -/
def attentionLevel (th : Threshold) (ns : List Notice) : Bool := ns.any th.meets

/-- The set and the attention line that follows from it. -/
def State.withNotices (s : State) (ns : List Notice) : State :=
  { s with notices := ns, attn := attentionLevel s.threshold ns }

/-- A block raises a notice (R166). -/
def State.raise (s : State) (src : Source) (k : NoticeKind) (detail : List Byte) : State :=
  s.withNotices (addNotice src k detail s.notices)

/-- A notice entry in the reply of TAKE_NOTICES (R170). -/
def Notice.bytes (x : Notice) : List Byte :=
  u8 x.source.code ++ u8 x.kind.ordinal ++ u8 x.kind.level ++ u8 x.count ++ textBytes x.detail

/-! ## Replies (R160 to R163) -/

/-- The bytes of a reply frame (R171). -/
def Reply.frame (r : Reply) : List Byte := linkFrame r.kind r.tag (BitVec.ofNat 8 r.code.code :: r.vals)

/-- A reply kind is the command's kind plus 0x80, in one byte (R171). -/
def replyKind (kind : Byte) : Byte := kind + 0x80#8

/-- On the UART an idle transmitter begins a reply that is ready (R161). -/
def State.startTx (s : State) (src : TxSource) : State :=
  match s.linkSel, s.uartTx with
  | .uart, none => { s with uartTx := some src }
  | _, _ => s

/-- A reply becomes READY in the reply buffer (R163). -/
def State.ready (s : State) (r : Reply) : State := { s with replyBuf := .ready r }.startTx .buffer

/-- A refusal goes into the refusal slot, unless the one there is being transmitted on the UART (R162). -/
def State.refuse (s : State) (r : Reply) : State :=
  match s.linkSel, s.uartTx with
  | .uart, some .slot => s
  | _, _ => { s with refusal := some r }.startTx .slot

/-- The FRAME_ERROR reply: kind 0xFF, tag 0 (R171). -/
def frameErrorReply : Reply := { kind := 0xFF#8, tag := 0#8, code := .frameError, vals := [] }

/-- A frame in reception ends as a frame error and the framer returns to HUNTING (R161, R162 a). -/
def State.frameError (s : State) : State := { s with framer := .hunting }.refuse frameErrorReply

/-- Whether a reply is owed (R162 b). -/
def ReplyBuf.owed : ReplyBuf → Bool
  | .empty => false
  | .withheld _ _ => true
  | .ready _ => true

/-- What an owner answers to a command: a result code and the values of the reply. -/
structure Answer where
  code : Code
  vals : List Byte
  deriving DecidableEq, Repr

/-- A refusal of an owner carries the result code alone (R171). -/
def refusal (c : Code) : Answer := { code := c, vals := [] }

/-- What an owner's action gives: the state and the answer, or no answer yet (an accepted CUE_READ, R163). -/
abbrev Done := State × Option Answer

/-- An action that answers at once. -/
def done (s : State) (code : Code) (vals : List Byte) : Done := (s, some { code := code, vals := vals })

/-- An action that refuses and changes nothing. -/
def refused (s : State) (code : Code) : Done := (s, some (refusal code))

/-- The reply of an action goes into the reply buffer, or stays owed (R163). -/
def State.answer (kind tag : Byte) (d : Done) : State :=
  match d.2 with
  | some a => d.1.ready { kind := replyKind kind, tag := tag, code := a.code, vals := a.vals }
  | none => { d.1 with replyBuf := .withheld kind tag }

/-- The tests of R162 b and d to f on a complete frame of a kind in the catalogue. `action` is the owner's action on
the body, `none` where the body's length is not one the kind allows. -/
def State.take (s : State) (kind tag : Byte) (inStarting : Bool) (action : Option (State → Done)) : State :=
  let s := { s with framer := .hunting }
  if s.replyBuf.owed then
    s.refuse { kind := replyKind kind, tag := tag, code := .linkBusy, vals := [] }
  else if s.phase = .starting ∧ inStarting = false then
    State.answer kind tag (refused s .starting)
  else
    match action with
    | some act => State.answer kind tag (act s)
    | none => State.answer kind tag (refused s .range)

/-! ## The flash (section 2.1) -/

/-- The number of a page: 64 · block + page. -/
def pageAddr (block page : Nat) : Nat := Config.pagesPerBlock * block + page

/-- The pages of the flash: 128 blocks of 64. -/
def flashPages : Nat := 8192

/-- A page of the flash: `none` is erased. -/
def flashGet (fl : List (Nat × PageCell)) (a : Nat) : Option PageCell :=
  match fl with
  | [] => none
  | (b, c) :: rest => if a = b then some c else flashGet rest a

/-- A content at its place in rising page number. -/
def flashInsert (a : Nat) (c : PageCell) : List (Nat × PageCell) → List (Nat × PageCell)
  | [] => [(a, c)]
  | (b, d) :: rest =>
    if a = b then (a, c) :: rest
    else if a < b then (a, c) :: (b, d) :: rest
    else (b, d) :: flashInsert a c rest

/-- Page `a` takes a content; a number that is no page of the flash takes none. -/
def flashPut (a : Nat) (c : PageCell) (fl : List (Nat × PageCell)) : List (Nat × PageCell) :=
  if a < flashPages then flashInsert a c fl else fl

/-- Every page of a block becomes erased (R25). -/
def flashErase (block : Nat) (fl : List (Nat × PageCell)) : List (Nat × PageCell) :=
  fl.filter fun p => decide (p.1 / Config.pagesPerBlock ≠ block)

/-- The canonical form of the flash: page numbers strictly rise and lie in the flash; no erased page is listed. -/
def flashWf (fl : List (Nat × PageCell)) : Bool :=
  match fl with
  | [] => true
  | (a, _) :: rest =>
    decide (a < flashPages) && (match rest with | [] => true | (b, _) :: _ => decide (a < b)) && flashWf rest

/-- Every page of a block is left torn, each with a free value of its own (R30, R39). -/
def flashTear (block : Nat) (k : Nat) (fl : List (Nat × PageCell)) : List (Nat × PageCell) :=
  (List.range Config.pagesPerBlock).foldl (fun fl i => flashPut (pageAddr block i) (.torn (k + i)) fl) (flashErase block fl)

/-- Roles by number, for the free value of a torn tag. -/
def roleOf (n : Nat) : Role :=
  if n = 0 then .data else if n = 1 then .index else if n = 2 then .seal else if n = 3 then .amend else .retire

/-- What reading the tag of torn page `k` gives: a free value within the fields of R26 (log entry 5). -/
def tornTag (k : Nat) : TagRead :=
  if Config.tornErased k then .erased
  else if Config.tornReadable k then
    let v := (Config.tornTagBits k).toNat
    .readable { role := roleOf (v % 8), pkg := v / 8 % 64, serial := v / 512 % 65536, logical := v / 33554432 % 65536
                track := v / 2199023255552 % 4, generation := v / 8796093022208 % 256 }
  else .unreadable

/-- What reading the tag of a page gives; `damaged` says that the check value of a programmed tag does not match (R26, R44). The tag of
a failed RETIRE program is never readable and never erased, so that the scan leaves its block unknown (R40). -/
def readTag (fl : List (Nat × PageCell)) (a : Nat) (damaged : Bool) : TagRead :=
  match flashGet fl a with
  | none => .erased
  | some (.programmed tag _) => if damaged then .unreadable else .readable tag
  | some (.torn k) => if damaged then .unreadable else tornTag k
  | some (.unrecognised _) => .unreadable

/-- The data bytes a read of a page delivers. -/
def readBytes (fl : List (Nat × PageCell)) (a : Nat) : List Byte :=
  match flashGet fl a with
  | some (.programmed _ (.bytes bs)) => bs
  | some (.torn k) => (Config.tornData k).take Config.pageBytes
  | some (.unrecognised k) => (Config.tornData k).take Config.pageBytes
  | _ => []

/-- The content of a seal page, where the page holds one (R15). -/
def readSealed (fl : List (Nat × PageCell)) (a : Nat) : Option (PkgInfo × Vector Nat 4) :=
  match flashGet fl a with
  | some (.programmed _ (.sealed info counts)) => some (info, counts)
  | _ => none

/-! ## Block records (R25, R27, R28) -/

/-- The record of a block, and the record of no block for a number above 127. -/
def State.block (s : State) (b : Nat) : BlockRec := s.blocks[b]?.getD .reset

def State.modBlock (s : State) (b : Nat) (f : BlockRec → BlockRec) : State :=
  { s with blocks := s.blocks.setIfInBounds b (f (s.block b)) }

/-- The free pool: the blank blocks, in ascending order (R28). -/
def State.pool (s : State) : List Nat :=
  (List.range Config.storeBlocks).filter fun b => decide ((s.block b).cls = .blank)

/-- The lowest-numbered blank block (R28). -/
def State.lowestBlank (s : State) : Option Nat := s.pool.head?

/-- The pages of a block in use for a test of room: a marked block counts as full (R27). -/
def State.pagesUsed (s : State) (b : Nat) : Nat :=
  if (s.block b).marked then Config.pagesPerBlock else (s.block b).nextPage

/-- A blank block takes the class and owner of its new use (R28). -/
def State.claim (s : State) (b : Nat) (cls : BlockClass) (owner : Nat) : State :=
  s.modBlock b fun r => { r with cls := cls, owner := some owner }

/-- A block takes a class without an owner; the mark is cleared when it becomes blank, retired or unknown (R27). -/
def State.release (s : State) (b : Nat) (cls : BlockClass) : State :=
  s.modBlock b fun r => { r with cls := cls, owner := none, marked := false }

/-- What a failed program leaves in its page: torn, or unrecognised where a RETIRE tag was being programmed (R39, R40, log entry 5). -/
def failedCell (img : Option PageImage) (k : Nat) : PageCell :=
  if img.any fun i => decide (i.tag.role = .retire) then .unrecognised k else .torn k

/-- A program of page `page` of block `b` completes: the page holds the page register's content, or is left as a failure leaves it; the
next-page number rises, and a failure marks the block (R25, R39). -/
def State.programmed (s : State) (b page : Nat) (ok : Bool) : State :=
  let s := s.modBlock b fun r => { r with nextPage := page + 1, marked := r.marked || !ok }
  match ok, s.pageReg with
  | true, some img => { s with flash := flashPut (pageAddr b page) (.programmed img.tag img.body) s.flash }
  | _, img => { s with flash := flashPut (pageAddr b page) (failedCell img s.free) s.flash, free := s.free + 1 }

/-- An erase of a block completes: its pages are erased, or left torn; its next-page number is 0 (R25). -/
def State.erased (s : State) (b : Nat) (ok : Bool) : State :=
  let s := s.modBlock b fun r => { r with nextPage := 0 }
  if ok then { s with flash := flashErase b s.flash }
  else { s with flash := flashTear b s.free s.flash, free := s.free + Config.pagesPerBlock }

/-! ## The directory (R1, R2) -/

/-- The entry of a package id. -/
def State.package (s : State) (id : Nat) : Option Package := s.packages.find? fun p => p.id = id

/-- A change of one entry. -/
def State.modPackage (s : State) (id : Nat) (f : Package → Package) : State :=
  { s with packages := s.packages.map fun p => if p.id = id then f p else p }

/-- A new entry at its place in ascending id order. -/
def insertPackage (p : Package) : List Package → List Package
  | [] => [p]
  | q :: qs => if p.id < q.id then p :: q :: qs else q :: insertPackage p qs

/-- The entry of an id is removed. -/
def State.dropPackage (s : State) (id : Nat) : State :=
  { s with packages := s.packages.filter fun p => decide (p.id ≠ id) }

/-- The number of text tracks of an entry: none in an entry found ABANDONED. -/
def Package.textCount (p : Package) : Nat := (p.info.map fun i => i.text.length).getD 0

/-- The number of sound tracks of an entry. -/
def Package.soundCount (p : Package) : Nat := (p.info.map fun i => i.sound.length).getD 0

/-- A track's cue count. -/
def Package.cues (p : Package) (t : TextTrack) : Nat := (p.info.map fun i => i.cueCounts.get t).getD 0

/-- The position of a page along the block list: page (p mod 64) of list entry (p div 64) (R29). -/
def Package.positionAddr (p : Package) (position : Nat) : Option Nat :=
  (p.blocks[position / Config.pagesPerBlock]?).map fun b => pageAddr b (position % Config.pagesPerBlock)

/-- The page map entry of a logical page (R35). -/
def Package.mapEntry (p : Package) (logical : Nat) : Option MapEntry := p.map.find? fun e => e.logical = logical

/-- The page that holds a logical page: the amend page its map entry names, or its own position (R29). -/
def Package.logicalAddr (p : Package) (logical : Nat) : Option Nat :=
  match p.mapEntry logical, p.amend with
  | some e, some b => some (pageAddr b e.page)
  | _, _ => p.positionAddr logical

/-- The generation of the copy of a logical page: 0 where it has no map entry (R35). -/
def Package.generation (p : Package) (logical : Nat) : Nat := ((p.mapEntry logical).map (·.generation)).getD 0

/-- A map entry is created or replaced, in ascending logical page order (R35, R37). -/
def mapPut (e : MapEntry) : List MapEntry → List MapEntry
  | [] => [e]
  | f :: fs =>
    if e.logical = f.logical then e :: fs
    else if e.logical < f.logical then e :: f :: fs
    else f :: mapPut e fs

/-- The lowest-numbered free package id (R6). -/
def State.freeId (s : State) : Option Nat :=
  (List.range Config.packageIds).find? fun id => (s.package id).isNone

/-! ## The store engine (R30 to R32) -/

/-- The rank class of a requester (R31). -/
def Requester.rank : Requester → Nat
  | .engine _ _ => 1 | .bind _ => 2 | .host => 3 | .scan => 4

/-- Whether a request goes before another: by rank, and among track engine reads by need, auditorium and track; equal
otherwise, so that the one that joined first goes first (R31). -/
def Request.before (a b : Request) : Bool :=
  match a.who, b.who with
  | .engine n t, .engine m u =>
    decide (a.need < b.need ∨ (a.need = b.need ∧ (n.val < m.val ∨ (n.val = m.val ∧ t.val < u.val))))
  | x, y => decide (x.rank < y.rank)

/-- The highest-ranked waiting request. -/
def bestRequest : List Request → Option Request
  | [] => none
  | r :: rs =>
    match bestRequest rs with
    | some b => if b.before r then some b else some r
    | none => some r

/-- A page number outside the flash: what an operation on a page that does not exist is resolved to. It reads as erased. -/
def noPage : Nat := flashPages

/-- The page or block an operation is resolved to as it starts (R29). -/
def State.resolve (s : State) : StoreOp → Nat
  | .readLogical pkg logical => ((s.package pkg).bind fun p => p.logicalAddr logical).getD noPage
  | .readPosition pkg position => ((s.package pkg).bind fun p => p.positionAddr position).getD noPage
  | .readTag block page => pageAddr block page
  | .readSeal block page => pageAddr block page
  | .program block page => pageAddr block page
  | .erase block => block

/-- The engine starts a request; a track engine's outstanding read is now in flight (R30, R89). -/
def State.start (s : State) (r : Request) : State :=
  let s := { s with flight := some { req := r, addr := s.resolve r.op } }
  match r.who with
  | .engine n t => s.modEng n t fun e => { e with out := some { kind := r.kind, inFlight := true } }
  | _ => s

/-- The waiting request of a requester leaves the queue (R32). -/
def State.withdraw (s : State) (who : Requester) : State :=
  { s with queue := s.queue.filter fun r => decide (r.who ≠ who) }

/-- A request joins the queue, replacing a waiting one of the same requester, and starts at once on an idle engine (R31, R32). -/
def State.request (s : State) (r : Request) : State :=
  let s := s.withdraw r.who
  match s.flight with
  | none => s.start r
  | some _ => { s with queue := s.queue ++ [r] }

/-- The highest-ranked waiting request starts, or the engine becomes idle (R31). -/
def State.startNext (s : State) : State :=
  let s := { s with flight := none }
  match bestRequest s.queue with
  | some r => (s.withdraw r.who).start r
  | none => s

/-- The operation in flight completes: its result is handed to its requester, which may make its next request, and the
highest-ranked waiting request then starts (R31). -/
def State.complete (s : State) (hand : State → State) : State := (hand s).startNext

/-- How a page read ends (R34): the notices of worn and uncorrectable pages are raised by the store. -/
def State.graded (s : State) (f : Flight) (errs : Nat) : State :=
  let block := f.addr / Config.pagesPerBlock
  let page := f.addr % Config.pagesPerBlock
  if errs ≤ 2 then s
  else if errs ≤ 4 then s.raise .store .storeWorn (u8 block ++ u8 page)
  else s.raise .store .storeUncorrectable (u8 block ++ u8 page ++ u8 f.req.who.code)

/-- Whether a read delivers its data (R34). -/
def readable (errs : Nat) : Bool := decide (errs ≤ 4)

/-! ## The host store operation (R5, R41) -/

/-- A host operation's request. -/
def hostRequest (op : StoreOp) : Request :=
  { who := .host, op := op, kind := .fetch, need := 0, bindGen := 0, seekCount := 0 }

/-- The slot takes an operation. -/
def State.setOp (s : State) (op : HostOp) : State := { s with slot := some { op := op, waiting := none } }

/-- The slot is emptied, and with it the page register (R5, R33). -/
def State.endOp (s : State) : State := { s with slot := none, pageReg := none }

/-- A read step of the host operation is requested. -/
def State.hostRead (s : State) (op : StoreOp) : State := s.request (hostRequest op)

/-- A program or erase step of the host operation: requested, or waiting while SWI is active (R41). -/
def State.hostWrite (s : State) (op : StoreOp) : State :=
  if s.swi then { s with slot := s.slot.map fun h => { h with waiting := some op } }
  else s.request (hostRequest op)

/-- The operation in the slot. -/
def State.hostOp (s : State) : Option HostOp := s.slot.map (·.op)

end Sys2Proof.Machine
end

