-- ==== Sys2Proof/Machine/Events.lean ====
section
/-! DEFINITION. The pending event list of an air scheduler: submission, overflow and the restore of text tracks
(R90, R106 to R109, R135, R137). -/

namespace Sys2Proof.Machine

/-- The capacity of a pending event list (R135). -/
def pendingLimit : Nat := 32

/-- Whether the gate withholds events between builds: the last gate read was CLOSED, or no gate was read since the reset (R109). -/
def State.withheld (s : State) (n : Aud) : Bool := decide ((s.aud n).air.lastGate ≠ some .opened)

/-- What a restore of a text track submits, by the engine's state (R106). -/
def TrackEngine.restoreEvents (e : TrackEngine) (t : TextTrack) : List Event :=
  match e.state with
  | .running => .clear t :: e.active.map (Event.cueOn t)
  | .waiting => [.clear t]
  | .ended => [.clear t]
  | .seeking => []
  | .off => []

/-- What a restore of every enabled text track of an auditorium submits, in ascending track order; nothing while the
gate withholds events (R107). -/
def State.restoreEvents (s : State) (n : Aud) : List Event :=
  if s.withheld n then []
  else allText.flatMap fun t => if s.textOn n t then (s.eng n t).restoreEvents t else []

/-- The pending list overflows: it is emptied, the overflow count rises, the enabled tracks are restored, and an
ENDING announcement's ANNOUNCE_END follows (R108, R137). -/
def State.overflow (s : State) (n : Aud) : State :=
  let evs := s.restoreEvents n
  s.modAir n fun a =>
    { a with pend := evs ++ (if a.ann = .ending then [.announceEnd] else []), overflows := satAdd 255 a.overflows 1 }

/-- An event is submitted (R135); on a full list the overflow takes its place (R137). -/
def State.submit (s : State) (n : Aud) (ev : Event) : State :=
  if (s.aud n).air.pend.length < pendingLimit then s.modAir n fun a => { a with pend := a.pend ++ [ev] }
  else s.overflow n

/-- The events of a restore are submitted in order; an overflow abandons the rest, since its own restore covers every
track (R108). -/
def State.submitRestore (s : State) (n : Aud) : List Event → State
  | [] => s
  | ev :: evs =>
    if (s.aud n).air.pend.length < pendingLimit then
      State.submitRestore (s.modAir n fun a => { a with pend := a.pend ++ [ev] }) n evs
    else s.overflow n

/-- The restore of every enabled text track is asked for (R107). -/
def State.restoreAll (s : State) (n : Aud) : State := s.submitRestore n (s.restoreEvents n)

/-- The restore of one text track, at the completion of its seek (R104, R106). -/
def State.restoreTrack (s : State) (n : Aud) (t : TextTrack) : State :=
  if s.withheld n then s else s.submitRestore n ((s.eng n t).restoreEvents t)

/-- An announcement ends: the slot becomes ENDING and ANNOUNCE_END is submitted (R141). -/
def State.endAnnouncement (s : State) (n : Aud) : State :=
  (s.modAir n fun a => { a with ann := .ending }).submit n .announceEnd

end Sys2Proof.Machine
end

