-- ==== Sys2Proof/Machine/Playout.lean ====
section
/-! DEFINITION. Described-audio playout: the queue, the slot grid and the signals of the show timeline (chapter 6). Slot service
stands with the frame build. -/

namespace Sys2Proof.Machine

/-- Ticks of a slot (section 6.1). -/
def slotTicks : Nat := 24

/-- The capacity of a playout queue (R115). -/
def playoutLimit : Nat := 64

/-- The target slot for a position: 24 · ((p + Ls) div 24) (R113). -/
def Playout.target (e : Playout) (p : Nat) : Nat := slotTicks * ((p + e.lead) / slotTicks)

/-- The blocks that do not meet `keep` leave the queue and are counted as discarded (R115). -/
def Playout.discard (e : Playout) (keep : Nat → Bool) : Playout :=
  { e with queue := e.queue.filter fun b => keep b.stamp
           discarded := satAdd 65535 e.discarded (e.queue.filter fun b => !keep b.stamp).length }

/-- z moves to a slot and every block whose stamp is z or less is discarded (R119, R120, R122 a). -/
def Playout.passTo (e : Playout) (z : Int) : Playout :=
  { e.discard fun stamp => decide (z < (stamp : Int)) with z := some z }

/-- The blocks below a target slot are discarded and z becomes the target slot less 24 (R121 b, R122 b). -/
def Playout.moveTo (e : Playout) (target : Nat) : Playout :=
  { e.discard fun stamp => decide (target ≤ stamp) with z := some ((target : Int) - slotTicks) }

/-- A block joins the queue at the place its stamp gives it (R115). -/
def insertBlock (b : SoundBlk) : List SoundBlk → List SoundBlk
  | [] => [b]
  | c :: cs => if b.stamp < c.stamp then b :: c :: cs else c :: insertBlock b cs

/-! ## Signals of the show timeline (R121 to R124) -/

/-- Bound (R121 a). -/
def Playout.onBound (e : Playout) (set : TrackSetting) : Playout :=
  { e with enabled := set.enabled, lead := set.lead, served := 0, gaps := 0, discarded := 0, skips := 0
           state := if set.enabled then .idle else .off
           z := if set.enabled then none else e.z
           queue := if set.enabled then [] else e.queue }

/-- Start, at the start position (R121 b). -/
def Playout.onStart (p : Nat) (e : Playout) : Playout :=
  if e.state = .off then e else { e.moveTo (e.target p) with state := .priming }

/-- Lock, at P (R122 a). -/
def Playout.onLock (p : Nat) (e : Playout) : Playout :=
  if e.state = .priming ∨ e.state = .frozen then
    { e.passTo ((e.target p : Int) - slotTicks) with state := .serving }
  else e

/-- Jump, to the new P (R122 b). -/
def Playout.onJump (p : Nat) (e : Playout) : Playout :=
  if e.state = .serving then e.moveTo (e.target p) else e

/-- Hold (R123 a). -/
def Playout.onHold (e : Playout) : Playout :=
  if e.state = .serving then { e with state := .frozen } else e

/-- Finish (R123 b). -/
def Playout.onFinish (e : Playout) : Playout :=
  if e.state = .serving ∨ e.state = .priming ∨ e.state = .frozen then { e with state := .stopped, queue := [] } else e

/-- Unbind (R123 c). -/
def Playout.onUnbind (e : Playout) : Playout := { e with state := .off, queue := [], z := none }

/-- The playout state of a track enabled in a show state (R124 b). -/
def ShowState.playState : ShowState → PlayState
  | .vacant => .off
  | .binding => .off
  | .standby => .idle
  | .acquiring => .priming
  | .held => .frozen
  | .locked => .serving
  | .coasting => .serving
  | .finished => .stopped

/-- Sound-track: the new enable and lead, in a show state and at P as it stands (R124). -/
def Playout.onTrack (st : ShowState) (p : Nat) (set : TrackSetting) (e : Playout) : Playout :=
  if e.enabled ∧ set.enabled = false then
    { e with enabled := false, lead := set.lead, state := .off, queue := [], z := none }
  else if e.enabled = false ∧ set.enabled then
    let e := { e with enabled := true, lead := set.lead, state := st.playState, queue := [] }
    match st with
    | .vacant => e
    | .binding => e
    | .standby => { e with z := none }
    | _ => { e with z := some ((e.target p : Int) - slotTicks) }
  else { e with enabled := set.enabled, lead := set.lead }

/-- A signal reaches each sound track of an auditorium, in ascending order (R86). -/
def State.soundSignal (s : State) (n : Aud) (f : Playout → Playout) : State :=
  allSound.foldl (fun s t => s.modPlay n t f) s

/-- The values of every SOUND_BLOCK reply but those of case a: z and the number of blocks queued (R116). -/
def Playout.replyVals (e : Playout) : List Byte := optS32 e.z ++ u8 e.queue.length

/-- SOUND_BLOCK (R116). -/
def soundBlockAction (aud track : Byte) (stamp : Nat) (payload : List Byte) (s : State) : Done :=
  match audOf aud, soundOf track with
  | some n, some t =>
    if payload.length = 0 ∨ 200 < payload.length ∨ Config.maxPosition < stamp then refused s .range
    else
      let ctx := (s.aud n).ctx
      let e := s.play n t
      let no := fun c => done s c e.replyVals
      if ctx.st = .vacant ∨ ctx.st = .binding ∨ ctx.st = .standby ∨ ctx.st = .finished then no .state
      else if ctx.soundCount ≤ t.val then no .range
      else if (ctx.sound.get t).enabled = false then no .state
      else if stamp % slotTicks ≠ 0 then no .range
      else if (match e.z with | some z => decide ((stamp : Int) ≤ z) | none => false) then no .late
      else if e.queue.any fun b => decide (b.stamp = stamp) then no .duplicate
      else if playoutLimit ≤ e.queue.length then no .full
      else
        let s := s.modPlay n t fun e => { e with queue := insertBlock { stamp := stamp, payload := payload } e.queue }
        done s .ok (s.play n t).replyVals
  | _, _ => refused s .range

/-- SOUND_FLUSH (R117). -/
def soundFlushAction (aud track : Byte) (s : State) : Done :=
  match audOf aud, soundOf track with
  | some n, some t =>
    let ctx := (s.aud n).ctx
    let e := s.play n t
    if ctx.st = .vacant then refused s .state
    else if ctx.soundCount ≤ t.val then refused s .range
    else done (s.modPlay n t fun e => { e with queue := [] }) .ok (u8 e.queue.length ++ optS32 e.z)
  | _, _ => refused s .range

/-- SOUND_BLOCK. -/
def execSoundBlock (tag : Byte) (body : List Byte) (s : State) : Host.Outcome State Fault Refusal :=
  .next <| s.take 0x40 tag false <|
    match body with
    | a :: t :: s3 :: s2 :: s1 :: s0 :: payload => some (soundBlockAction a t (be [s3, s2, s1, s0]) payload)
    | _ => none

/-- SOUND_FLUSH. -/
def execSoundFlush (tag : Byte) (body : List Byte) (s : State) : Host.Outcome State Fault Refusal :=
  .next <| s.take 0x41 tag false <|
    match body with
    | [a, t] => some (soundFlushAction a t)
    | _ => none

end Sys2Proof.Machine
end

