-- ==== Sys2Proof/Machine/Release.lean ====
section
/-! DEFINITION. Cue release: fetch, seek, the release check and the signals of the show timeline (chapter 5). -/

namespace Sys2Proof.Machine

/-- The capacities of the lookahead queue and the active set (R95, R100). -/
def lookLimit : Nat := 8
def activeLimit : Nat := 4

/-! ## The cursor and the engine's request (R93, R94) -/

/-- The index of the last element that meets `p`. -/
def lastIndexWhere (p : α → Bool) : List α → Option Nat
  | [] => none
  | x :: xs =>
    match lastIndexWhere p xs with
    | some i => some (i + 1)
    | none => if p x then some 0 else none

/-- The index of the page index entry whose page holds a cue (R94). -/
def TrackEngine.entryOf (e : TrackEngine) (cue : Nat) : Option Nat :=
  lastIndexWhere (fun en => decide (en.firstCue ≤ cue)) e.index

/-- The first cue number after the page of index entry `i`: the next entry's, or the cue count (R97, R103). -/
def TrackEngine.pageEnd (e : TrackEngine) (i : Nat) : Nat := ((e.index[i + 1]?).map (·.firstCue)).getD e.cueCount

/-- The cursor moves to the first cue of index entry `i`, or past the last cue (R93). -/
def TrackEngine.cursorTo (e : TrackEngine) (i : Nat) : TrackEngine :=
  match e.index[i]? with
  | some en => { e with cursor := en.firstCue, cursorStart := some en.firstStart }
  | none => { e with cursor := e.cueCount, cursorStart := none }

/-- Whether the cursor has passed the last cue (R93). -/
def TrackEngine.exhausted (e : TrackEngine) : Bool := decide (e.cueCount ≤ e.cursor)

/-- A track engine requests a read of a logical page of the bound package, with the bind generation and its seek count (R94, R102). -/
def State.engineRead (s : State) (n : Aud) (t : TextTrack) (kind : ReadKind) (logical need : Nat) : State :=
  let ctx := (s.aud n).ctx
  let r : Request :=
    { who := .engine n t, op := .readLogical (ctx.pkg.getD Config.packageIds) logical, kind := kind, need := need
      bindGen := ctx.bindGen, seekCount := (s.eng n t).seekCount }
  (s.modEng n t fun e => { e with out := some { kind := kind, inFlight := false } }).request r

/-- The fetch test: a RUNNING engine with no outstanding read, 4 cues queued or fewer and cues left asks for the page of the
cursor's cue, with the cursor start as its need (R93, R94). -/
def State.fetchTest (s : State) (n : Aud) (t : TextTrack) : State :=
  let e := s.eng n t
  if e.state = .running ∧ e.out = none ∧ e.look.length ≤ 4 ∧ e.exhausted = false then
    match (e.entryOf e.cursor).bind fun i => e.index[i]? with
    | some en => s.engineRead n t .fetch en.logical (e.cursorStart.getD 0)
    | none => s
  else s

/-- A waiting request of the engine is removed from the store's queue (R32). -/
def State.dropWaiting (s : State) (n : Aud) (t : TextTrack) : State :=
  match (s.eng n t).out with
  | some { kind := _, inFlight := false } => (s.withdraw (.engine n t)).modEng n t fun e => { e with out := none }
  | _ => s

/-- Whether a read of the engine is in flight (R102). -/
def State.engineInFlight (s : State) (n : Aud) (t : TextTrack) : Bool :=
  match s.flight with
  | some f => decide (f.req.who = .engine n t)
  | none => false

/-! ## Missed cues -/

/-- CUE_MISSED is raised and the missed count rises (R97, R100, R103). `reason` is LOST_PAGE 0 or EXPIRED 1 (R170). The detail has the order of R97
and R100, track, first cue, count and reason, for a lost seek page too, where R103 names the reason first (log entry 23). -/
def State.missCues (s : State) (n : Aud) (t : TextTrack) (first count reason : Nat) : State :=
  (s.modEng n t fun e => { e with missed := satAdd 65535 e.missed count }).raise (.aud n) .cueMissed
    (u8 t.val ++ u16 first ++ u8 count ++ u8 reason)

/-! ## Sets of cues -/

/-- Order by start tick, then cue number (R89). -/
def Cue.earlier (a b : Cue) : Bool :=
  decide (a.startTick < b.startTick ∨ (a.startTick = b.startTick ∧ a.number < b.number))

/-- A cue joins a set at its place (R100, R104). -/
def insertCue (c : Cue) : List Cue → List Cue
  | [] => [c]
  | d :: ds => if c.earlier d then c :: d :: ds else d :: insertCue c ds

/-- A cue joins the overlap collection; of 5, the earliest started is dropped (R103 b). -/
def addOverlap (c : Cue) (ov : List Cue) : List Cue :=
  let ov := insertCue c ov
  if activeLimit < ov.length then ov.tail else ov

/-! ## Seek (R102 to R105) -/

/-- A seek completes (R104). -/
def State.completeSeek (s : State) (n : Aud) (t : TextTrack) : State :=
  let s := s.modEng n t fun e =>
    let e := { e with active := (e.seek.map SeekColl.overlap).getD [], look := (e.seek.map SeekColl.future).getD [],
                         seek := none, out := none }
    { e with state := if e.look = [] ∧ e.active = [] ∧ e.exhausted then .ended else .running }
  (s.restoreTrack n t).fetchTest n t

/-- The seek read of the seek's present index entry is requested, with the seek position as its need (R102). -/
def State.seekRead (s : State) (n : Aud) (t : TextTrack) : State :=
  let e := s.eng n t
  match (e.seek.map (·.entry)).bind fun i => e.index[i]? with
  | some en => s.engineRead n t .seek en.logical e.seekPos
  | none => s

/-- The starting entry of a seek: the last whose first start tick does not exceed Q − 36,000, else the first (R102). -/
def TrackEngine.seekEntry (e : TrackEngine) (q : Nat) : Nat :=
  (lastIndexWhere (fun en => decide (en.firstStart + Config.maxCueTicks ≤ q)) e.index).getD 0

/-- A seek starts from Q (R102); one started in SEEKING replaces the one before (R105). -/
def State.startSeek (s : State) (n : Aud) (t : TextTrack) (q : Nat) : State :=
  let s := s.modEng n t fun e =>
    { e with seekCount := wrap8 (e.seekCount + 1), look := [], active := [], seekPos := q, state := .seeking
             seek := some { overlap := [], future := [], entry := e.seekEntry q } }
  let e := s.eng n t
  if e.index = [] then
    ((s.dropWaiting n t).modEng n t fun e => { e with cursor := e.cueCount, cursorStart := none }).completeSeek n t
  else if s.engineInFlight n t then s
  else s.seekRead n t

/-- The cues of a page sorted by a seek (R103): the collections, and the cues left unexamined once 8 future cues are held. -/
def seekPage (pos : Nat) (ov fu : List Cue) : List Cue → List Cue × List Cue × List Cue
  | [] => (ov, fu, [])
  | c :: cs =>
    if c.endTick ≤ pos then seekPage pos ov fu cs
    else if c.startTick ≤ pos then seekPage pos (addOverlap c ov) fu cs
    else
      let fu' := fu ++ [c]
      if lookLimit ≤ fu'.length then (ov, fu', cs) else seekPage pos ov fu' cs

/-- A seek goes on with the next index entry, or completes past the last cue (R103). -/
def State.seekOn (s : State) (n : Aud) (t : TextTrack) : State :=
  let s := s.modEng n t fun e => { e with out := none, seek := e.seek.map fun k => { k with entry := k.entry + 1 } }
  let e := s.eng n t
  match (e.seek.map (·.entry)).bind fun i => e.index[i]? with
  | some _ => s.seekRead n t
  | none => (s.modEng n t fun e => { e with cursor := e.cueCount, cursorStart := none }).completeSeek n t

/-- A matching seek read delivers a page (R103). -/
def State.takeSeekPage (s : State) (n : Aud) (t : TextTrack) (cues : List Cue) : State :=
  let e := s.eng n t
  match e.seek with
  | none => s
  | some k =>
    let r := seekPage e.seekPos k.overlap k.future cues
    let s := s.modEng n t fun e => { e with seek := some { k with overlap := r.1, future := r.2.1 } }
    if lookLimit ≤ r.2.1.length then
      match r.2.2 with
      | c :: _ => (s.modEng n t fun e => { e with cursor := c.number, cursorStart := some c.startTick }).completeSeek n t
      | [] => (s.modEng n t fun e => e.cursorTo (k.entry + 1)).completeSeek n t
    else s.seekOn n t

/-- A matching seek read finds its page lost (R103). -/
def State.loseSeekPage (s : State) (n : Aud) (t : TextTrack) : State :=
  let e := s.eng n t
  match e.seek with
  | none => s
  | some k =>
    let first := ((e.index[k.entry]?).map (·.firstCue)).getD 0
    (s.missCues n t first (e.pageEnd k.entry - first) 0).seekOn n t

/-! ## Fetch (R95 to R97) -/

/-- A matching fetch delivers a page (R95). -/
def State.takeFetchPage (s : State) (n : Aud) (t : TextTrack) (cues : List Cue) : State :=
  let e := s.eng n t
  let here := cues.dropWhile fun c => decide (c.number ≠ e.cursor)
  let room := lookLimit - e.look.length
  let taken := here.take room
  let s := s.modEng n t fun e =>
    let i := (e.entryOf e.cursor).getD 0
    let e := { e with look := e.look ++ taken, out := none, starved := false }
    match here.drop room with
    | c :: _ => { e with cursor := e.cursor + taken.length, cursorStart := some c.startTick }
    | [] => e.cursorTo (i + 1)
  s.fetchTest n t

/-- A matching fetch finds its page lost (R97). It leaves the starved flag as it stands (log entry 35). -/
def State.loseFetchPage (s : State) (n : Aud) (t : TextTrack) : State :=
  let e := s.eng n t
  let i := (e.entryOf e.cursor).getD 0
  let s := s.missCues n t e.cursor (e.pageEnd i - e.cursor) 0
  (s.modEng n t fun e => { e.cursorTo (i + 1) with out := none }).fetchTest n t

/-- Whether a completion matches the engine: its bind generation, its seek count and the state that made it (R96). -/
def State.engineMatches (s : State) (n : Aud) (t : TextTrack) (r : Request) : Bool :=
  decide (r.bindGen = (s.aud n).ctx.bindGen ∧ r.seekCount = (s.eng n t).seekCount
    ∧ (s.eng n t).state = (match r.kind with | .fetch => TrackState.running | .seek => TrackState.seeking))

/-- A completion that does not match is discarded; a seek read that waited on it is requested, or the fetch test is made (R96). -/
def State.discardRead (s : State) (n : Aud) (t : TextTrack) : State :=
  let s := s.modEng n t fun e => { e with out := none }
  match (s.eng n t).state with
  | .seeking => s.seekRead n t
  | .running => s.fetchTest n t
  | _ => s

/-- A track engine's read completes (R95 to R97, R103). -/
def State.engineReadDone (s : State) (f : Flight) (n : Aud) (t : TextTrack) (errs : Nat) : State :=
  let s := s.graded f errs
  if s.engineMatches n t f.req then
    match f.req.kind, readable errs with
    | .fetch, true => s.takeFetchPage n t (pageCues (readBytes s.flash f.addr))
    | .fetch, false => s.loseFetchPage n t
    | .seek, true => s.takeSeekPage n t (pageCues (readBytes s.flash f.addr))
    | .seek, false => s.loseSeekPage n t
  else s.discardRead n t

/-- The completion of a track engine's read of a kind, where one is in flight. -/
def State.trackReadDone (s : State) (kind : ReadKind) (errs : Nat) : State :=
  match s.flight with
  | some f =>
    match f.req.who with
    | .engine n t => if f.req.kind = kind then s.complete fun s => s.engineReadDone f n t errs else s
    | _ => s
  | none => s

/-! ## The release check (R98 to R101) -/

/-- A full active set makes room: the cue that started earliest is cut and CUE_OFF is submitted for it (R100 c). -/
def State.cutOldest (s : State) (n : Aud) (t : TextTrack) (withhold : Bool) : State :=
  match (s.eng n t).active with
  | c :: rest =>
    if activeLimit ≤ (c :: rest).length then
      let s := s.modEng n t fun e => { e with active := rest }
      if withhold then s else s.submit n (.cueOff t c.number)
    else s
  | [] => s

/-- The entries of a release check (R100). The first argument bounds the number of cues examined. -/
def State.releaseDue (n : Aud) (t : TextTrack) (q : Nat) (withhold : Bool) : Nat → State → State
  | 0, s => s
  | fuel + 1, s =>
    match (s.eng n t).look with
    | [] => s
    | c :: rest =>
      if q < c.startTick then s
      else if c.endTick ≤ q then
        State.releaseDue n t q withhold fuel ((s.modEng n t fun e => { e with look := rest }).missCues n t c.number 1 1)
      else
        let s := s.cutOldest n t withhold
        let s := s.modEng n t fun e => { e with look := rest, active := insertCue c e.active }
        let s := if withhold then s else s.submit n (.cueOn t c)
        State.releaseDue n t q withhold fuel s

/-- The starvation and exhaustion tests (R101). -/
def TrackEngine.tests (q : Nat) (e : TrackEngine) : TrackEngine :=
  let due : Bool := match e.cursorStart with | some st => decide (st ≤ q) | none => false
  let e :=
    if e.look = [] ∧ e.out ≠ none ∧ due ∧ e.starved = false then
      { e with starved := true, starveCount := satAdd 255 e.starveCount 1 }
    else e
  if e.look = [] ∧ e.active = [] ∧ e.out = none ∧ e.exhausted then { e with state := .ended } else e

/-- The release check of an engine in RUNNING at the sampled position (R98); an engine in another state does nothing. -/
def State.releaseCheck (s : State) (n : Aud) (p : Nat) (withhold : Bool) (t : TextTrack) : State :=
  if (s.eng n t).state = .running then
    let q := p + ((s.aud n).ctx.text.get t).lead
    let s := s.modEng n t fun e => { e with active := e.active.filter fun c => decide (q < c.endTick) }
    let s := State.releaseDue n t q withhold (s.eng n t).look.length s
    (s.modEng n t fun e => e.tests q).fetchTest n t
  else s

/-! ## Signals of the show timeline (R92) -/

/-- Bound (R92 a, R111): the counts return to 0, and an enabled track takes up its cue count and index. -/
def State.textBound (s : State) (n : Aud) (t : TextTrack) : State :=
  let ctx := (s.aud n).ctx
  s.modEng n t fun e =>
    let e := { e with starveCount := 0, missed := 0 }
    if (ctx.text.get t).enabled then
      { e with state := .waiting, cueCount := ctx.cueCounts.get t, index := ctx.index.get t, cursor := 0, cursorStart := none
               look := [], active := [] }
    else e

/-- Start and hold: CLEAR, an empty active set, WAITING; the lookahead queue and the cursor are kept (R92 b, e). -/
def State.textWait (s : State) (n : Aud) (t : TextTrack) : State :=
  ((s.dropWaiting n t).modEng n t fun e => { e with active := [], seek := none, state := .waiting }).submit n (.clear t)

/-- Finish: CLEAR, empty collections, ENDED (R92 f). -/
def State.textFinish (s : State) (n : Aud) (t : TextTrack) : State :=
  ((s.dropWaiting n t).modEng n t fun e => { e with look := [], active := [], seek := none, state := .ended }).submit n (.clear t)

/-- CLEAR, empty collections, OFF (R92 g, h). -/
def State.textOff (s : State) (n : Aud) (t : TextTrack) : State :=
  let s := ((s.dropWaiting n t).modEng n t fun e => { e with look := [], active := [], seek := none }).submit n (.clear t)
  s.modEng n t fun e => { e with state := .off }

/-- Unbind (R92 g). -/
def State.textUnbind (s : State) (n : Aud) (t : TextTrack) : State :=
  (s.textOff n t).modEng n t fun e => { e with cursor := 0, cursorStart := none, cueCount := 0, index := [] }

/-- Lock and jump: a seek from Q = P + L (R92 c, d). -/
def State.textSeek (p : Nat) (s : State) (n : Aud) (t : TextTrack) : State :=
  s.startSeek n t (p + ((s.aud n).ctx.text.get t).lead)

/-- Track-on at P, by the show state (R92 i). -/
def State.textOnSignal (p : Nat) (s : State) (n : Aud) (t : TextTrack) : State :=
  let ctx := (s.aud n).ctx
  let s := s.modEng n t fun e => { e with cueCount := ctx.cueCounts.get t, index := ctx.index.get t }
  match ctx.st with
  | .locked => State.textSeek p s n t
  | .coasting => State.textSeek p s n t
  | .standby => s.modEng n t fun e => { e with look := [], active := [], seek := none, state := .waiting }
  | .acquiring => s.modEng n t fun e => { e with look := [], active := [], seek := none, state := .waiting }
  | .held => s.modEng n t fun e => { e with look := [], active := [], seek := none, state := .waiting }
  | .finished => s.modEng n t fun e => { e with look := [], active := [], seek := none, state := .ended }
  | .binding => s
  | .vacant => s

/-- A signal reaches each enabled text track of an auditorium, in ascending order (R86). -/
def State.textSignal (s : State) (n : Aud) (f : State → Aud → TextTrack → State) : State :=
  allText.foldl (fun s t => if s.textOn n t then f s n t else s) s

/-! ## Amendment commits (R110) -/

/-- The copies of an amended cue are replaced in a list. -/
def replaceCue (c : Cue) (l : List Cue) : List Cue := l.map fun d => if d.number = c.number then c else d

/-- An engine is told of a commit: its copies are replaced, and an active cue is sent again unless the gate withholds events. -/
def State.textAmended (c : Cue) (s : State) (n : Aud) (t : TextTrack) : State :=
  let wasActive := (s.eng n t).active.any fun d => decide (d.number = c.number)
  let s := s.modEng n t fun e =>
    { e with look := replaceCue c e.look, active := replaceCue c e.active
             seek := e.seek.map fun k => { k with overlap := replaceCue c k.overlap, future := replaceCue c k.future } }
  if wasActive ∧ s.withheld n = false then s.submit n (.cueOn t c) else s

/-- FETCH_READ_DONE. -/
def execFetchReadDone (errs : Nat) (s : State) : Host.Outcome State Fault Refusal := .next (s.trackReadDone .fetch errs)

/-- SEEK_READ_DONE. -/
def execSeekReadDone (errs : Nat) (s : State) : Host.Outcome State Fault Refusal := .next (s.trackReadDone .seek errs)

end Sys2Proof.Machine
end

