-- ==== Sys2Proof/Machine/Input.lean ====
section
/-! DEFINITION. The auditorium input unit by itself: the frame reference, the gate and the contacts (chapter 3). Pulses and deadlines,
which concern the show timeline too, stand in Machine/Pulse.lean. -/

namespace Sys2Proof.Machine

/-- The elapsed count stops here (R49). -/
def maxElapsed : Nat := 1048575

/-- The steady count at which a debouncer takes its line (R57). -/
def debounceCounts : Nat := 12000

/-- The reference becomes ABSENT (R49). -/
def InputUnit.clearRef (u : InputUnit) : InputUnit := { u with ref := .absent, e := 0 }

/-- A restart request of the show timeline (R49). -/
def InputUnit.restart (u : InputUnit) : InputUnit :=
  match u.ref with
  | .absent => { u with e := 0 }
  | .set => { u with ref := .restarted, e := 0 }
  | .restarted => { u with ref := .restarted, e := 0 }

/-- A bind is accepted, or SHOW_START is taken (R56 a, b). -/
def InputUnit.onStart (rate : Option RateClass) (u : InputUnit) : InputUnit :=
  { u.clearRef with pm := (rate.map (·.nominal)).getD 0, mismatchRun := 0, armed := true, lastInterval := 0 }

/-- A return to VACANT (R56 d). -/
def InputUnit.onVacant (u : InputUnit) : InputUnit := { u.clearRef with pm := 0, mismatchRun := 0, armed := true }

/-- The holdoff, Pm div 2 (R50). -/
def InputUnit.holdoff (u : InputUnit) : Nat := u.pm / 2

/-- The missing-pulse deadline, (3 · Pm) div 2 (R54). -/
def InputUnit.deadline (u : InputUnit) : Nat := 3 * u.pm / 2

/-! ## The gate (R57 to R60) -/

/-- A taken level as an input of the gate table: ACTIVE 1, INACTIVE 0 (R59). -/
def Taken.bit : Taken → Option Nat
  | .active => some 1
  | .inactive => some 0
  | .unsettled => none

/-- The gate value: CLOSED while an input is UNSETTLED, else the entry at 4 · SHOLD + 2 · AUXnB + AUXnA (R59). -/
def gateValue (table : Vector Gate 8) (shold auxB auxA : Taken) : Gate :=
  match shold.bit, auxB.bit, auxA.bit with
  | some h, some b, some a => (table[4 * h + 2 * b + a]?).getD .closed
  | _, _, _ => .closed

/-- The gate value of an auditorium is recomputed (R59). -/
def State.regate (s : State) (n : Aud) : State :=
  s.modInput n fun u => { u with gate := gateValue u.gateTable s.shold.taken u.auxB.taken u.auxA.taken }

/-- A change of the line's level restarts the steady count (R57). -/
def Debouncer.change (level : Bool) (d : Debouncer) : Debouncer :=
  if d.level = level then d else { d with level := level, steady := 0 }

/-- The steady count reaches 12,000 and the line's level is taken (R57). -/
def Debouncer.settle (d : Debouncer) : Debouncer :=
  { d with steady := debounceCounts, taken := if d.level then .active else .inactive }

/-- A change of one line's debouncer. -/
def State.modLine (s : State) (line : ContactLine) (f : Debouncer → Debouncer) : State :=
  match line with
  | .auxA n => s.modInput n fun u => { u with auxA := f u.auxA }
  | .auxB n => s.modInput n fun u => { u with auxB := f u.auxB }
  | .shold => { s with shold := f s.shold }

/-- The gate values that a line bears on are recomputed (R58, R59). -/
def State.regateLine (s : State) (line : ContactLine) : State :=
  match line with
  | .auxA n => s.regate n
  | .auxB n => s.regate n
  | .shold => allAuds.foldl (fun s n => s.regate n) s

/-- A line's level is taken after 12,000 steady counts (R57). -/
def State.settle (s : State) (line : ContactLine) : State := (s.modLine line .settle).regateLine line

/-- CONTACT_LEVEL_CHANGE. -/
def execContactLevelChange (line : ContactLine) (active : Bool) (s : State) : Host.Outcome State Fault Refusal :=
  .next (s.modLine line (.change active))

/-- DEBOUNCE_SETTLED. -/
def execDebounceSettled (line : ContactLine) (s : State) : Host.Outcome State Fault Refusal := .next (s.settle line)

/-- GATE_SET (R60). -/
def gateSetAction (aud : Byte) (entries : List Byte) (s : State) : Done :=
  match audOf aud, entries.mapM Gate.ofByte with
  | some n, some [g0, g1, g2, g3, g4, g5, g6, g7] =>
    let s := (s.modInput n fun u => { u with gateTable := #v[g0, g1, g2, g3, g4, g5, g6, g7] }).regate n
    done s .ok (u8 (s.aud n).input.gate.code)
  | _, _ => refused s .range

/-- GATE_SET. -/
def execGateSet (tag : Byte) (body : List Byte) (s : State) : Host.Outcome State Fault Refusal :=
  .next <| s.take 0x30 tag false <|
    match body with
    | [a, e0, e1, e2, e3, e4, e5, e6, e7] => some (gateSetAction a [e0, e1, e2, e3, e4, e5, e6, e7])
    | _ => none

end Sys2Proof.Machine
end

