-- ==== Sys2Proof/Machine/Timeline.lean ====
section
/-! DEFINITION. The show timeline: the show position, the finish test, the signals, and the commands that bind, start, position and
set a show (chapter 4). -/

namespace Sys2Proof.Machine

/-! ## Position and advance (R68, R69) -/

/-- T of the bound package's rate class. -/
def ShowCtx.ticks (x : ShowCtx) : Nat := (x.rate.map (·.ticks)).getD 0

/-- s of the bound package's rate class. -/
def ShowCtx.slewStep (x : ShowCtx) : Nat := (x.rate.map (·.step)).getD 0

/-- Whether the show runs: LOCKED or COASTING. -/
def ShowState.running : ShowState → Bool
  | .locked => true
  | .coasting => true
  | _ => false

/-- Whether a show frame is built in a show state (R129). -/
def ShowState.framed : ShowState → Bool
  | .acquiring => true
  | .locked => true
  | .coasting => true
  | .held => true
  | _ => false

/-- The show position P for an elapsed count and a period estimate (R64, R69). -/
def ShowCtx.position (x : ShowCtx) (e pm : Nat) : Nat :=
  match x.st with
  | .vacant => 0
  | .acquiring => min (x.c + min (x.adv - 1) (e * x.adv / pm)) x.duration
  | .locked => min (x.c + min (x.adv - 1) (e * x.adv / pm)) x.duration
  | .coasting => min (x.c + min (x.adv - 1) (e * x.adv / pm)) x.duration
  | _ => x.c

/-- The show position of an auditorium as it stands. -/
def State.position (s : State) (n : Aud) : Nat := (s.aud n).ctx.position (s.aud n).input.e (s.aud n).input.pm

/-- A frame begins: its advance is fixed from the slew remainder (R68). -/
def ShowCtx.newFrame (x : ShowCtx) : ShowCtx :=
  if x.k = 0 then { x with adv := x.ticks }
  else if 0 < x.k then
    let d := min x.k.toNat x.slewStep
    { x with adv := x.ticks + d, k := x.k - d }
  else
    let d := min (-x.k).toNat x.slewStep
    { x with adv := x.ticks - d, k := x.k + d }

/-- The counted position grows by a frame, to D at most (R70, R72, R74). -/
def ShowCtx.countFrame (x : ShowCtx) : ShowCtx := { x with c := min (x.c + x.adv) x.duration }

/-! ## Finishing (R82) -/

/-- The show finishes (R82). -/
def State.finish (s : State) (n : Aud) : State :=
  let s := s.modCtx n fun x => { x with c := x.duration, adv := x.ticks, k := 0, coast := 0, st := .finished }
  let s := s.raise (.aud n) .showFinished (u32 (s.aud n).ctx.duration)
  (s.textSignal n State.textFinish).soundSignal n Playout.onFinish

/-- The finish test: in LOCKED or COASTING, a position equal to D finishes the show (R82). -/
def State.finishTest (s : State) (n : Aud) : State :=
  if (s.aud n).ctx.st.running ∧ s.position n = (s.aud n).ctx.duration then s.finish n else s

/-- P is computed, with the finish test that a computation makes (R69). -/
def State.sample (s : State) (n : Aud) : State × Nat := (s.finishTest n, s.position n)

/-! ## Signals of a show's course (R71, R75, R81) -/

/-- The third in-window interval in a row: the show gains lock, or finishes (R71). -/
def State.gainLock (s : State) (n : Aud) : State :=
  if (s.aud n).ctx.c = (s.aud n).ctx.duration then s.finish n
  else
    let s := s.modCtx n fun x => { x with st := .locked, coast := 0, acquire := 0 }
    let s := s.raise (.aud n) .lockGained (u32 (s.aud n).ctx.c ++ u16 (s.aud n).input.pm)
    let p := s.position n
    (s.textSignal n (State.textSeek p)).soundSignal n (Playout.onLock p)

/-- A deadline at the coast limit holds the show, or finishes it where the position it holds is D (R69, R75). -/
def State.hold (s : State) (n : Aud) : State :=
  let p := s.position n
  if p = (s.aud n).ctx.duration then (s.finish n).modInput n InputUnit.clearRef
  else
    let s := s.modCtx n fun x => { x with c := p, st := .held, adv := x.ticks, k := 0, coast := 0, acquire := 0 }
    let s := s.modInput n InputUnit.clearRef
    let s := s.raise (.aud n) .showHeld (u32 p ++ u8 (s.aud n).ctx.coastLimit)
    (s.textSignal n State.textWait).soundSignal n Playout.onHold

/-! ## Binding (R65 to R67) -/

/-- The index pages a bind reads: every text track's, in track and ordinal order (R66). -/
def Package.bindReads (p : Package) : List BindRead :=
  allText.flatMap fun t =>
    match p.indexLoc.get t with
    | some loc => (List.range loc.count).map fun o =>
        { track := t, position := loc.first + o, entries := entriesOnPage (p.pageCounts.get t) o }
    | none => []

/-- A bind count falls by one (R21). -/
def State.unbindCount (s : State) (id : Nat) : State := s.modPackage id fun p => { p with binds := p.binds - 1 }

/-- The package, position fields and page indexes are dropped; the enables, leads, bind generation and timing settings are kept (R67). -/
def ShowCtx.vacate (x : ShowCtx) : ShowCtx :=
  { x with st := .vacant, pkg := none, rate := none, duration := 0, textCount := 0, soundCount := 0
           cueCounts := Vector.replicate 4 0, c := 0, adv := 0, k := 0, index := Vector.replicate 4 []
           bindTodo := [], bindAsked := false }

/-- The next index page of a bind is requested (R66). -/
def State.bindRead (s : State) (n : Aud) : State :=
  let x := (s.aud n).ctx
  match x.bindTodo with
  | r :: _ =>
    (s.modCtx n fun x => { x with bindAsked := true }).request
      { who := .bind n, op := .readPosition (x.pkg.getD Config.packageIds) r.position, kind := .fetch, need := 0
        bindGen := x.bindGen, seekCount := 0 }
  | [] => s

/-- The last index page is in hand: STANDBY, BIND_DONE with BOUND, the bound signal (R66, R86). -/
def State.bound (s : State) (n : Aud) : State :=
  let s := s.modCtx n fun x => { x with st := .standby }
  let x := (s.aud n).ctx
  let s := s.raise (.aud n) .bindDone (u8 (x.pkg.getD 0) ++ u8 x.bindGen ++ u8 0)
  let s := allText.foldl (fun s t => s.textBound n t) s
  allSound.foldl (fun s t => s.modPlay n t fun e => e.onBound (x.sound.get t)) s

/-- A lost index page: the bind fails and the show returns to VACANT (R66). -/
def State.bindFail (s : State) (n : Aud) : State :=
  let x := (s.aud n).ctx
  let id := x.pkg.getD 0
  let s := s.modCtx n ShowCtx.vacate
  let s := (s.unbindCount id).modInput n InputUnit.onVacant
  s.raise (.aud n) .bindDone (u8 id ++ u8 x.bindGen ++ u8 1)

/-- A bind's read completes (R66). A read of an earlier bind whose generation of 8 bits equals the present one, 256 binds later, is taken as
the first page (log entry 40). -/
def State.bindReadDone (s : State) (f : Flight) (n : Aud) (errs : Nat) : State :=
  let s := s.graded f errs
  let x := (s.aud n).ctx
  if x.st = .binding ∧ f.req.bindGen = x.bindGen then
    if readable errs then
      match x.bindTodo with
      | r :: rest =>
        let es := indexEntries r.entries (readBytes s.flash f.addr)
        let s := s.modCtx n fun x =>
          { x with index := x.index.set r.track.val (x.index.get r.track ++ es) r.track.isLt, bindTodo := rest }
        if rest = [] then s.bound n else s.bindRead n
      | [] => s
    else s.bindFail n
  else if x.st = .binding ∧ x.bindAsked = false then s.bindRead n
  else s

/-- BIND_INDEX_READ_DONE. -/
def execBindIndexReadDone (errs : Nat) (s : State) : Host.Outcome State Fault Refusal :=
  .next <|
    match s.flight with
    | some f =>
      match f.req.who with
      | .bind n => s.complete fun s => s.bindReadDone f n errs
      | _ => s
    | none => s

/-- Whether a read of an earlier bind of this context is in flight (R66). -/
def State.bindInFlight (s : State) (n : Aud) : Bool :=
  match s.flight with
  | some f => decide (f.req.who = .bind n)
  | none => false

/-- A setting as given, or the setting of a track the package lacks: disabled, with lead 24 (R65). -/
def trackOrLacking (have_ : Bool) (t : TrackSetting) : TrackSetting := if have_ then t else .reset

/-- SHOW_BIND (R65). -/
def showBindAction (aud pkg : Byte) (text sound : List (Option TrackSetting)) (s : State) : Done :=
  match audOf aud, text, sound with
  | some n, [some t0, some t1, some t2, some t3], [some d0, some d1] =>
    if (s.aud n).ctx.st ≠ .vacant then refused s .state
    else
      match s.package pkg.toNat with
      | none => refused s .noSuch
      | some p =>
        match p.state, p.info with
        | .ready, some info =>
          let nt := info.text.length
          let ns := info.sound.length
          if (t0.enabled ∧ nt ≤ 0) ∨ (t1.enabled ∧ nt ≤ 1) ∨ (t2.enabled ∧ nt ≤ 2) ∨ (t3.enabled ∧ nt ≤ 3)
              ∨ (d0.enabled ∧ ns ≤ 0) ∨ (d1.enabled ∧ ns ≤ 1) then refused s .range
          else
            let gen := wrap8 ((s.aud n).ctx.bindGen + 1)
            let s := s.modPackage p.id fun p => { p with binds := p.binds + 1 }
            let s := s.modCtx n fun x =>
              { x with st := .binding, pkg := some p.id, rate := some info.rate, duration := info.duration
                       textCount := nt, soundCount := ns, cueCounts := info.cueCounts
                       c := 0, adv := info.rate.ticks, k := 0, coast := 0, acquire := 0, bindGen := gen
                       text := #v[trackOrLacking (decide (0 < nt)) t0, trackOrLacking (decide (1 < nt)) t1,
                                  trackOrLacking (decide (2 < nt)) t2, trackOrLacking (decide (3 < nt)) t3]
                       sound := #v[trackOrLacking (decide (0 < ns)) d0, trackOrLacking (decide (1 < ns)) d1]
                       index := Vector.replicate 4 [], bindTodo := p.bindReads, bindAsked := false }
            let s := s.modInput n (InputUnit.onStart (some info.rate))
            let s :=
              if p.bindReads = [] then s.bound n
              else if s.bindInFlight n then s
              else s.bindRead n
            done s .accepted (u8 gen)
        | _, _ => refused s .state
  | _, _, _ => refused s .range

/-- SHOW_BIND. -/
def execShowBind (tag : Byte) (body : List Byte) (s : State) : Host.Outcome State Fault Refusal :=
  .next <| s.take 0x32 tag false <|
    match body with
    | [a, p, e0, l0, e1, l1, e2, l2, e3, l3, f0, m0, f1, m1] =>
      some (showBindAction a p [settingOf e0 l0, settingOf e1 l1, settingOf e2 l2, settingOf e3 l3]
        [settingOf f0 m0, settingOf f1 m1])
    | _ => none

/-- A show is unbound (R67). -/
def State.unbind (s : State) (n : Aud) : State :=
  let x := (s.aud n).ctx
  let s := s.modCtx n ShowCtx.vacate
  let s :=
    if x.st = .binding then s.withdraw (.bind n)
    else (s.textSignal n State.textUnbind).soundSignal n Playout.onUnbind
  (s.unbindCount (x.pkg.getD Config.packageIds)).modInput n InputUnit.onVacant

/-- SHOW_UNBIND (R67). -/
def showUnbindAction (aud : Byte) (s : State) : Done :=
  match audOf aud with
  | some n => if (s.aud n).ctx.st = .vacant then refused s .state else done (s.unbind n) .ok []
  | none => refused s .range

/-- SHOW_UNBIND. -/
def execShowUnbind (tag : Byte) (body : List Byte) (s : State) : Host.Outcome State Fault Refusal :=
  .next <| s.take 0x33 tag false <|
    match body with
    | [a] => some (showUnbindAction a)
    | _ => none

/-! ## Starting and positioning (R78 to R81) -/

/-- SHOW_START takes effect (R81). -/
def State.startShow (s : State) (n : Aud) (at_ : Nat) : State :=
  let s := s.modCtx n fun x =>
    { x with c := min at_ x.duration, k := 0, adv := x.ticks, coast := 0, acquire := 0, st := .acquiring }
  let s := s.modInput n (InputUnit.onStart (s.aud n).ctx.rate)
  (s.textSignal n State.textWait).soundSignal n (Playout.onStart (s.aud n).ctx.c)

/-- SHOW_START (R81). -/
def showStartAction (aud : Byte) (at_ : Nat) (s : State) : Done :=
  match audOf aud with
  | some n =>
    if Config.maxPosition < at_ then refused s .range
    else if (s.aud n).ctx.st = .vacant ∨ (s.aud n).ctx.st = .binding then refused s .state
    else done (s.startShow n at_) .ok []
  | none => refused s .range

/-- SHOW_START. -/
def execShowStart (tag : Byte) (body : List Byte) (s : State) : Host.Outcome State Fault Refusal :=
  .next <| s.take 0x34 tag false <|
    match body with
    | [a, p3, p2, p1, p0] => some (showStartAction a (be [p3, p2, p1, p0]))
    | _ => none

/-- The action of a position report, coded in the order of R78's list. -/
inductive ReportAction where
  | ignored | slew | jump | set
  deriving DecidableEq, Repr

def ReportAction.code : ReportAction → Nat
  | .ignored => 0 | .slew => 1 | .jump => 2 | .set => 3

/-- A jump to `r` from `p` (R79 c). -/
def State.jump (s : State) (n : Aud) (r p : Nat) : State :=
  let s := (s.modCtx n fun x => { x with c := r }).modInput n InputUnit.restart
  let s := s.modCtx n fun x => { x with k := 0, adv := x.ticks }
  let s := s.raise (.aud n) .jumped (u32 r ++ u32 p ++ s32 ((r : Int) - p))
  if s.position n = (s.aud n).ctx.duration then s.finish n
  else
    let q := s.position n
    (s.textSignal n (State.textSeek q)).soundSignal n (Playout.onJump q)

/-- A report of `r` is applied against P (R79, R80). -/
def State.report (s : State) (n : Aud) (r p : Nat) : State × ReportAction :=
  let x := (s.aud n).ctx
  let delta : Int := (r : Int) - p
  if x.st.running then
    if delta.natAbs ≤ x.ticks then (s, .ignored)
    else if delta.natAbs ≤ x.slewWindow * x.ticks then (s.modCtx n fun x => { x with k := delta }, .slew)
    else (s.jump n r p, .jump)
  else ((s.modCtx n fun x => { x with c := r, k := 0 }).modInput n InputUnit.restart, .set)

/-- POSITION_REPORT (R78). -/
def positionReportAction (aud : Byte) (r : Nat) (s : State) : Done :=
  match audOf aud with
  | some n =>
    let x := (s.aud n).ctx
    if Config.maxPosition < r then refused s .range
    else if x.st = .vacant ∨ x.st = .binding ∨ x.st = .standby ∨ x.st = .finished then refused s .state
    else
      let sp := s.sample n
      let s := sp.1
      let p := sp.2
      if (s.aud n).ctx.st = .finished then refused s .state
      else
        let clamped := decide (x.duration < r)
        let r := min r x.duration
        let res := s.report n r p
        done res.1 .ok (s32 ((r : Int) - p) ++ u8 res.2.code ++ flag clamped ++ s32 (res.1.aud n).ctx.k)
  | none => refused s .range

/-- POSITION_REPORT. -/
def execPositionReport (tag : Byte) (body : List Byte) (s : State) : Host.Outcome State Fault Refusal :=
  .next <| s.take 0x35 tag false <|
    match body with
    | [a, p3, p2, p1, p0] => some (positionReportAction a (be [p3, p2, p1, p0]))
    | _ => none

/-! ## Settings (R84, R85) -/

/-- The staged filter length, coast limit and slew window become current together (R48, R84). -/
def State.adopt (s : State) (n : Aud) : State :=
  s.modAud n fun a =>
    { a with input := { a.input with wCurrent := a.input.wStaged }
             ctx := { a.ctx with coastLimit := a.ctx.coastLimitStaged, slewWindow := a.ctx.slewWindowStaged } }

/-- TIMING_SET (R84). -/
def timingSetAction (aud w coast slew : Byte) (s : State) : Done :=
  match audOf aud with
  | some n =>
    if 48 < coast.toNat ∨ slew.toNat = 0 ∨ 48 < slew.toNat then refused s .range
    else
      let s := s.modAud n fun a =>
        { a with input := { a.input with wStaged := w.toNat }
                 ctx := { a.ctx with coastLimitStaged := coast.toNat, slewWindowStaged := slew.toNat } }
      done (if (s.aud n).input.ref = .absent then s.adopt n else s) .ok []
  | none => refused s .range

/-- TIMING_SET. -/
def execTimingSet (tag : Byte) (body : List Byte) (s : State) : Host.Outcome State Fault Refusal :=
  .next <| s.take 0x31 tag false <|
    match body with
    | [a, w, c, sw] => some (timingSetAction a w c sw)
    | _ => none

/-- A text track's enable and lead are recorded and the track-on or track-off signal is given (R85). -/
def State.setText (s : State) (n : Aud) (t : TextTrack) (set : TrackSetting) : State :=
  let old := ((s.aud n).ctx.text.get t).enabled
  let s := s.modCtx n fun x => { x with text := x.text.set t.val set t.isLt }
  if old ∧ set.enabled = false then s.textOff n t
  else if old = false ∧ set.enabled ∧ (s.aud n).ctx.st ≠ .binding then
    let sp := s.sample n
    State.textOnSignal sp.2 sp.1 n t
  else s

/-- A sound track's enable and lead are recorded and the sound-track signal is given (R85, R124). -/
def State.setSound (s : State) (n : Aud) (t : SoundTrack) (set : TrackSetting) : State :=
  let old := ((s.aud n).ctx.sound.get t).enabled
  let s := s.modCtx n fun x => { x with sound := x.sound.set t.val set t.isLt }
  let sp := if old = false ∧ set.enabled then s.sample n else (s, s.position n)
  sp.1.modPlay n t (Playout.onTrack (sp.1.aud n).ctx.st sp.2 set)

/-- TRACK_SET (R85). -/
def trackSetAction (aud kind track enable lead : Byte) (s : State) : Done :=
  match audOf aud, settingOf enable lead with
  | some n, some set =>
    let x := (s.aud n).ctx
    if kind.toNat = 0 then
      match textOf track with
      | some t =>
        if x.st = .vacant then refused s .state
        else if x.textCount ≤ t.val then refused s .range
        else done (s.setText n t set) .ok []
      | none => refused s .range
    else if kind.toNat = 1 then
      match soundOf track with
      | some t =>
        if x.st = .vacant then refused s .state
        else if x.soundCount ≤ t.val then refused s .range
        else done (s.setSound n t set) .ok []
      | none => refused s .range
    else refused s .range
  | _, _ => refused s .range

/-- TRACK_SET. -/
def execTrackSet (tag : Byte) (body : List Byte) (s : State) : Host.Outcome State Fault Refusal :=
  .next <| s.take 0x36 tag false <|
    match body with
    | [a, k, t, e, l] => some (trackSetAction a k t e l)
    | _ => none

end Sys2Proof.Machine
end

