-- ==== Sys2Proof/Machine/Pulse.lean ====
section
/-! DEFINITION. Frame pulses and missed deadlines: the filter, the holdoff, the measurement and the period estimate of the input unit,
and what the show timeline does with an accepted pulse or a deadline (R47 to R55, R70 to R77). -/

namespace Sys2Proof.Machine

/-! ## What the timeline does with a pulse (R70 to R73, R77) -/

/-- A pulse in ACQUIRING (R70). `p` is P at the pulse's date by the reference before it. -/
def State.acquirePulse (s : State) (n : Aud) (measured inWindow : Bool) (p : Nat) : State :=
  if measured = false then s.modCtx n fun x => { x with c := p, acquire := 0 }.newFrame
  else if inWindow = false then s.modCtx n fun x => { x.countFrame with acquire := 0 }.newFrame
  else
    let s := s.modCtx n fun x => { x.countFrame with acquire := x.acquire + 1 }.newFrame
    if 3 ≤ (s.aud n).ctx.acquire then s.gainLock n else s

/-- A pulse in LOCKED or COASTING (R72, R73). -/
def State.runningPulse (s : State) (n : Aud) (measured : Bool) (p : Nat) : State :=
  let s := s.modCtx n fun x =>
    let x := if measured then x.countFrame else { x with c := p }
    { x.newFrame with st := .locked, coast := 0 }
  s.finishTest n

/-- A pulse in HELD (R77). -/
def State.heldPulse (s : State) (n : Aud) : State :=
  s.modCtx n fun x => { x with st := .acquiring, acquire := 0, adv := x.ticks }

/-- An accepted pulse is handed to the timeline in the show states that count pulses (R56). -/
def State.handPulse (s : State) (n : Aud) (measured inWindow : Bool) (p : Nat) : State :=
  match (s.aud n).ctx.st with
  | .acquiring => s.acquirePulse n measured inWindow p
  | .locked => s.runningPulse n measured p
  | .coasting => s.runningPulse n measured p
  | .held => s.heldPulse n
  | _ => s

/-! ## The accepted pulse in the input unit (R50 to R53) -/

/-- The interval clamped to the rate window (R52). -/
def clampInterval (r : RateClass) (m : Nat) : Nat := if m < r.lo then r.lo else if r.hi < m then r.hi else m

/-- The period estimate after a measured pulse (R52). -/
def newEstimate (r : RateClass) (pm m : Nat) : Nat := (7 * pm + clampInterval r m + 4) / 8

/-- Whether an interval is in the rate window (R51). -/
def inWindow (r : RateClass) (m : Nat) : Bool := decide (r.lo ≤ m ∧ m ≤ r.hi)

/-- A measured pulse updates the estimate and the last interval, and advances the rate supervision (R51 to R53). -/
def State.measure (s : State) (n : Aud) (r : RateClass) (m : Nat) : State :=
  let s := s.modInput n fun u => { u with pm := newEstimate r u.pm m, lastInterval := m }
  let u := (s.aud n).input
  if inWindow r m then s.modInput n fun u => { u with mismatchRun := 0, armed := true }
  else
    let run := satAdd 8 u.mismatchRun 1
    if u.mismatchRun < 8 ∧ run = 8 ∧ u.armed then
      (s.modInput n fun u => { u with mismatchRun := run, armed := false }).raise (.aud n) .rateMismatch
        (u32 m ++ u16 u.pm ++ u8 r.code)
    else s.modInput n fun u => { u with mismatchRun := run }

/-- An accepted pulse (R51). -/
def State.acceptPulse (s : State) (n : Aud) : State :=
  let u := (s.aud n).input
  let measured := decide (u.ref = .set)
  let p := s.position n
  let rate := (s.aud n).ctx.rate
  let inw := (rate.map fun r => inWindow r u.e).getD false
  let s := match measured, rate with
    | true, some r => s.measure n r u.e
    | _, _ => s
  let s := s.modInput n fun u => { u with ref := .set, e := 0 }
  (s.handPulse n measured inw p).adopt n

/-- A candidate pulse is counted, and tested against the holdoff unless the show is VACANT (R47, R50). -/
def State.candidate (s : State) (n : Aud) : State :=
  let s := s.modInput n fun u => { u with candidates := wrap16 (u.candidates + 1) }
  let u := (s.aud n).input
  if (s.aud n).ctx.st = .vacant then s
  else if u.ref = .set ∧ u.e < u.holdoff then s.raise (.aud n) .earlyPulse (u32 u.e ++ u16 u.holdoff)
  else s.acceptPulse n

/-! ## The missing-pulse deadline (R54, R74 to R76) -/

/-- A synthetic pulse (R74 a). -/
def State.syntheticPulse (s : State) (n : Aud) : State :=
  let wasLocked := decide ((s.aud n).ctx.st = .locked)
  let s := s.modCtx n fun x => { x.countFrame.newFrame with coast := x.coast + 1, st := .coasting }
  let s := s.modInput n fun u => { u with ref := .set, e := u.e - u.pm }
  let s := if wasLocked then s.raise (.aud n) .pulseLost (u32 (s.aud n).ctx.c) else s
  s.finishTest n

/-- The deadline is answered by the timeline, or clears the reference, by the show state (R54, R74 to R76). -/
def State.answerDeadline (s : State) (n : Aud) : State :=
  let x := (s.aud n).ctx
  match x.st with
  | .acquiring =>
    let p := s.position n
    (s.modCtx n fun x => { x with c := p, acquire := 0 }).modInput n InputUnit.restart
  | .locked => if x.coast < x.coastLimit then s.syntheticPulse n else s.hold n
  | .coasting => if x.coast < x.coastLimit then s.syntheticPulse n else s.hold n
  | _ => s.modInput n InputUnit.clearRef

/-- The elapsed count reaches the deadline (R54). -/
def State.missDeadline (s : State) (n : Aud) : State :=
  if (s.aud n).input.ref = .absent then s
  else ((s.modInput n fun u => { u with e := u.deadline }).answerDeadline n).adopt n

/-- MISSING_PULSE_DEADLINE. -/
def execMissingPulseDeadline (n : Aud) (s : State) : Host.Outcome State Fault Refusal := .next (s.missDeadline n)

/-! ## The frame-pulse filter (R47) -/

/-- A rising edge on FPn. -/
def State.risingEdge (s : State) (n : Aud) : State :=
  let s := s.modInput n fun u => { u with fp := true }
  let u := (s.aud n).input
  if u.filter = .low then
    if u.wCurrent = 0 then (s.modInput n fun u => { u with filter := .high }).candidate n
    else s.modInput n fun u => { u with filter := .qualifying, qualCount := 0, qualLength := u.wCurrent }
  else s

/-- The qualifying count reaches the filter length in force at the rising edge. -/
def State.qualify (s : State) (n : Aud) : State :=
  if (s.aud n).input.filter = .qualifying then
    (s.modInput n fun u => { u with filter := .high, qualCount := u.qualLength }).candidate n
  else s

/-- FRAME_PULSE_RISING_EDGE. -/
def execFramePulseRisingEdge (n : Aud) (s : State) : Host.Outcome State Fault Refusal := .next (s.risingEdge n)

/-- FRAME_PULSE_FALLING_EDGE: the filter returns to LOW. -/
def execFramePulseFallingEdge (n : Aud) (s : State) : Host.Outcome State Fault Refusal :=
  .next (s.modInput n fun u => { u with fp := false, filter := .low })

/-- QUALIFYING_COUNT_REACHED. -/
def execQualifyingCountReached (n : Aud) (s : State) : Host.Outcome State Fault Refusal := .next (s.qualify n)

end Sys2Proof.Machine
end

