-- ==== Sys2Proof/Machine/Flags.lean ====
section
/-! DEFINITION. The flag bytes the part forms: the flags and the track mask of an air frame's header (R145, R173) and the status byte of
the SPI link (R160, R170). -/

namespace Sys2Proof.Machine

/-- NO_SHOW is set in VACANT, BINDING, STANDBY and FINISHED (R145). -/
def ShowState.noShow : ShowState → Bool
  | .vacant => true
  | .binding => true
  | .standby => true
  | .finished => true
  | _ => false

/-- HELD is set in HELD and FINISHED (R145). -/
def ShowState.stands : ShowState → Bool
  | .held => true
  | .finished => true
  | _ => false

/-- A weight where a condition holds. -/
def weight (b : Bool) (w : Nat) : Nat := if b then w else 0

/-- Whether a house message is current (R145). -/
def AnnSlot.isActive : AnnSlot → Bool
  | .active _ _ _ _ _ => true
  | _ => false

/-- The flags of a header: NO_SHOW 0x01, HELD 0x02, GATE_CLOSED 0x04, COASTING 0x08, ANNOUNCING 0x10 (R145, R173). -/
def headerFlags (st : ShowState) (gate : Gate) (ann : AnnSlot) : Byte :=
  BitVec.ofNat 8 (weight st.noShow 1 + weight st.stands 2 + weight (decide (gate = .closed)) 4
    + weight (decide (st = .coasting)) 8 + weight ann.isActive 16)

/-- The track mask of a header: text tracks at weights 1 to 8, sound tracks at 16 and 32, 0 in VACANT (R173). -/
def trackMask (x : ShowCtx) : Byte :=
  if x.st = .vacant then 0#8
  else
    BitVec.ofNat 8 (weight (x.text.get 0).enabled 1 + weight (x.text.get 1).enabled 2 + weight (x.text.get 2).enabled 4
      + weight (x.text.get 3).enabled 8 + weight (x.sound.get 0).enabled 16 + weight (x.sound.get 1).enabled 32)

/-- Whether the reply buffer holds a reply that can be collected (R160). -/
def ReplyBuf.isReady : ReplyBuf → Bool
  | .ready _ => true
  | _ => false

/-- The status byte: reply ready 1, attention 2, starting 4 (R160 c, R170). -/
def State.statusByte (s : State) : Byte :=
  BitVec.ofNat 8 (weight (s.refusal.isSome || s.replyBuf.isReady) 1 + weight s.attn 2 + weight (decide (s.phase = .starting)) 4)

end Sys2Proof.Machine
end

