-- ==== Sys2Proof/Machine/Emitter.lean ====
section
/-! DEFINITION. Air items and frames as bytes (R132, R173), the emitter lines (R150, R151), and the emitter unit: hand-over, fault,
cooling and EMITTER_SET (chapter 8). -/

namespace Sys2Proof.Machine

/-! ## Items and frames (R132, R173) -/

/-- The budget B of a bit rate: what it carries in 19 ms (R131). -/
def BitRate.budget : BitRate → Nat
  | .r250 => 593 | .r500 => 1187 | .r1000 => 2375

/-- The bit time in reference counts (section 8.3). -/
def BitRate.bitTime : BitRate → Nat
  | .r250 => 48 | .r500 => 24 | .r1000 => 12

/-- The largest subcarrier period: 12,000,000 divided by twice the bit rate (R147 b, R157 b). -/
def BitRate.maxPeriod : BitRate → Nat
  | .r250 => 24 | .r500 => 12 | .r1000 => 6

/-- The size of an item (R132). -/
def Item.size : Item → Nat
  | .cueOn _ c => 12 + linesSize c.lines
  | .repeated _ c => 12 + linesSize c.lines
  | .cueOff _ _ => 6
  | .clear _ => 4
  | .sound _ _ payload => 8 + payload.length
  | .gap _ _ => 8
  | .announce _ _ text => 8 + text.length
  | .announceEnd => 4

/-- The kind byte of an item (R173). -/
def Item.kind : Item → Nat
  | .cueOn _ _ => 1 | .repeated _ _ => 2 | .cueOff _ _ => 3 | .clear _ => 4 | .sound _ _ _ => 5 | .gap _ _ => 6
  | .announce _ _ _ => 7 | .announceEnd => 8

/-- The track byte of a cue item: track, placement at weight 4, speaker tag from weight 8 on (R173). -/
def cueTrackByte (t : TextTrack) (c : Cue) : Nat := t.val + 4 * c.placement.code + 8 * c.speaker.getD 0

/-- The track byte of an item (R173). -/
def Item.trackByte : Item → Nat
  | .cueOn t c => cueTrackByte t c
  | .repeated t c => cueTrackByte t c
  | .cueOff t _ => t.val
  | .clear t => t.val
  | .sound t _ _ => t.val
  | .gap t _ => t.val
  | .announce interval _ _ => interval
  | .announceEnd => 0

/-- A cue after the head of its item: number, start tick, duration, lines (R173). -/
def cueTail (c : Cue) : List Byte :=
  u16 c.number ++ u32 c.startTick ++ u16 (c.endTick - c.startTick) ++ c.lines.flatMap Line.bytes

/-- What comes after the head of an item (R173). -/
def Item.tail : Item → List Byte
  | .cueOn _ c => cueTail c
  | .repeated _ c => cueTail c
  | .cueOff _ number => u16 number
  | .clear _ => []
  | .sound _ stamp payload => u32 stamp ++ payload
  | .gap _ stamp => u32 stamp
  | .announce _ number text => u32 number ++ text
  | .announceEnd => []

/-- The bytes of an item: kind, track byte, length, and the rest (R173). -/
def Item.bytes (i : Item) : List Byte := u8 i.kind ++ u8 i.trackByte ++ u16 i.size ++ i.tail

/-- The bytes of a frame that its CRC covers: from offset 2 up to the CRC (R173). -/
def AirFrame.core (f : AirFrame) : List Byte :=
  u16 f.site ++ u8 f.aud ++ u8 f.sequence ++ [f.flags] ++ u8 f.items.length ++ u16 f.length ++ u32 f.position ++ u8 f.bindGen
    ++ [f.mask] ++ f.items.flatMap Item.bytes

/-- The bytes of a frame: the sync 0x5A 0xC3, the header, the items and the CRC (R173). -/
def AirFrame.bytes (f : AirFrame) : List Byte := 0x5A#8 :: 0xC3#8 :: (f.core ++ crcBytes f.core)

/-! ## The lines (R150, R151) -/

/-- What a driver does with its line. -/
inductive Drive where
  | released | high | low
  deriving DecidableEq, Repr

/-- A line's drive by its mode and the signal it is given (R150). -/
def LineMode.drive : LineMode → Bool → Drive
  | .off, _ => .released
  | .pushPull, true => .high
  | .pushPull, false => .low
  | .source, true => .high
  | .source, false => .released
  | .sink, true => .low
  | .sink, false => .released

/-- Bit `i` of a byte, counted from the most significant (R173). -/
def msbBit (b : Byte) (i : Nat) : Bool := b.getLsbD (7 - i)

/-- The logical signal at reference count `k` of a transmission: in a 1 bit the subcarrier, high for w counts of every p from the
bit's start; in a 0 bit low (R151). -/
def signalAt (bytes : List Byte) (rate : BitRate) (p w k : Nat) : Bool :=
  let bit := k / rate.bitTime
  msbBit (bytes[bit / 8]?.getD 0#8) (bit % 8) && decide (k % rate.bitTime % p < w)

/-- The reference counts of a transmission: 8 bit times a byte (R151). -/
def Transmission.counts (t : Transmission) : Nat := 8 * t.frame.length * t.rate.bitTime

/-- The logical signal as it stands in a transmission (R151). -/
def Transmission.signal (t : Transmission) : Bool := signalAt t.frame.bytes t.rate t.lines.p t.lines.w t.progress

/-- The line settings that the lines use: those of the transmission while one runs, else the active ones (R149, R151; log entry 36). -/
def Emitter.inForce (u : Emitter) : LineSettings :=
  match u.tx with
  | some t => t.lines
  | none => u.current

/-- The drive of EMnA: its mode on the frame's signal; released outside a transmission (R150). -/
def Emitter.driveA (u : Emitter) : Drive :=
  match u.tx with
  | some t => t.lines.modeA.drive t.signal
  | none => .released

/-- The drive of EMnB, by the pairing (R150). -/
def Emitter.driveB (u : Emitter) : Drive :=
  match u.tx with
  | some t =>
    match t.lines.pairing with
    | .independent => .released
    | .tracking => t.lines.modeB.drive t.signal
    | .antivalent => t.lines.modeB.drive (!t.signal)
  | none => .released

/-- The level on a line: driven, or held by its rest pull (R150). -/
inductive LineLevel where
  | drivenHigh | drivenLow | pulledLow | pulledHigh | floating
  deriving DecidableEq, Repr

def lineLevel (d : Drive) (pull : RestPull) : LineLevel :=
  match d, pull with
  | .high, _ => .drivenHigh
  | .low, _ => .drivenLow
  | .released, .weakLow => .pulledLow
  | .released, .weakHigh => .pulledHigh
  | .released, .floating => .floating

def Emitter.lineA (u : Emitter) : LineLevel := lineLevel u.driveA u.inForce.pullA
def Emitter.lineB (u : Emitter) : LineLevel := lineLevel u.driveB u.inForce.pullB

/-! ## Faults, hand-over and recovery (R152 to R156) -/

/-- 250 ms of cooling, in measure counts (R153). -/
def coolingCounts : Nat := 300000

/-- FRAME_DROPPED: the emitter state and the frame's sequence (R152 b). -/
def State.noteDropped (s : State) (n : Aud) (sequence : Nat) : State :=
  s.raise (.aud n) .frameDropped (u8 (s.aud n).emit.state.code ++ u8 sequence)

/-- An overcurrent fault cuts the transmission of a frame (R153, R155). -/
def State.cutByFault (s : State) (n : Aud) (seq : Nat) : State :=
  let s := s.modEmit n fun u => { u with tx := none, dropped := satAdd 65535 u.dropped 1, lastFault := some seq }
  let s := s.raise (.aud n) .emitterFault (u8 (s.aud n).emit.retry ++ u8 seq)
  let s := s.noteDropped n seq
  if (s.aud n).emit.retry < 3 then
    s.modEmit n fun u => { u with clean := 0, state := .cooling, cooling := coolingCounts }
  else
    (s.modEmit n fun u => { u with clean := 0, state := .latchedOff }).raise (.aud n) .emitterLatched
      (optU8 (s.aud n).emit.lastFault)

/-- OCn asserted: a fault during a transmission; no effect outside one and in every state but ACTIVE (R153). -/
def State.overcurrent (s : State) (n : Aud) : State :=
  match (s.aud n).emit.state, (s.aud n).emit.tx with
  | .active, some t => s.cutByFault n t.frame.sequence
  | _, _ => s

/-- The frame is dropped (R152). -/
def State.dropFrame (s : State) (n : Aud) (sequence : Nat) (notice : Bool) : State :=
  let s := s.modEmit n fun u => { u with dropped := satAdd 65535 u.dropped 1 }
  if notice then s.noteDropped n sequence else s

/-- The transmission of a frame begins, with the line settings active at its hand-over (R151); OCn already asserted takes the fault at once
(R152 a, R153), after the clean count has risen (log entry 37). -/
def State.sendFrame (s : State) (n : Aud) (f : AirFrame) (rate : BitRate) : State :=
  let s := s.modEmit n fun u =>
    let clean := if u.state = .active then satAdd 500 u.clean 1 else u.clean
    { u with state := .active, clean := clean, retry := if u.state = .active ∧ clean = 500 then 0 else u.retry
             tx := some { frame := f, rate := rate, lines := u.current, progress := 0 } }
  if (s.aud n).emit.oc then s.overcurrent n else s

/-- The unit is told the outcome of a cycle expiry (R152); a departure from ACTIVE ends any transmission (R150). -/
def State.handOver (s : State) (n : Aud) (frame : Option AirFrame) (rate : BitRate) : State :=
  let s := s.modEmit n fun u => { u with demand := frame.isSome }
  let u := (s.aud n).emit
  match frame with
  | some f =>
    match u.state with
    | .sleeping => if u.tx.isSome then s.dropFrame n f.sequence true else s.sendFrame n f rate
    | .active => if u.tx.isSome then s.dropFrame n f.sequence true else s.sendFrame n f rate
    | .disabled => s.dropFrame n f.sequence false
    | .cooling => s.dropFrame n f.sequence true
    | .latchedOff => s.dropFrame n f.sequence true
  | none =>
    if u.state = .active then s.modEmit n fun u => { u with state := .sleeping, clean := 0, tx := none } else s

/-- A recovery asks for the restore of the enabled text tracks, in the show states that send show frames (R156). -/
def State.recover (s : State) (n : Aud) : State := if (s.aud n).ctx.st.framed then s.restoreAll n else s

/-- Cooling ends (R154). -/
def State.endCooling (s : State) (n : Aud) : State :=
  if (s.aud n).emit.state = .cooling then
    let s := s.modEmit n fun u =>
      { u with cooling := 0, retry := u.retry + 1, state := if u.demand then .active else .sleeping }
    if (s.aud n).emit.demand then s.recover n else s
  else s

/-- The last bit of the frame has been sent (R151). -/
def State.endTransmission (s : State) (n : Aud) : State :=
  match (s.aud n).emit.tx with
  | some _ => s.modEmit n fun u => { u with tx := none, sent := wrap16 (u.sent + 1) }
  | none => s

/-- TRANSMISSION_END. -/
def execTransmissionEnd (n : Aud) (s : State) : Host.Outcome State Fault Refusal := .next (s.endTransmission n)

/-- OVERCURRENT_FAULT: OCn is asserted, and is then left at the level `after`. -/
def execOvercurrentFault (n : Aud) (after : Bool) (s : State) : Host.Outcome State Fault Refusal :=
  .next ((s.overcurrent n).modEmit n fun u => { u with oc := after })

/-- COOLING_END. -/
def execCoolingEnd (n : Aud) (s : State) : Host.Outcome State Fault Refusal := .next (s.endCooling n)

/-! ## EMITTER_SET (R157) -/

/-- The enable of an EMITTER_SET acts at once (R157). -/
def State.enableEmitter (s : State) (n : Aud) (enable : Bool) : State :=
  let u := (s.aud n).emit
  if enable then
    if u.state = .disabled ∨ u.state = .latchedOff then
      let s := s.modEmit n fun u => { u with retry := 0, clean := 0, state := if u.demand then .active else .sleeping }
      if u.demand then s.recover n else s
    else s
  else if u.state = .disabled then s
  else
    s.modEmit n fun u =>
      { u with dropped := if u.tx.isSome then satAdd 65535 u.dropped 1 else u.dropped, tx := none, cooling := 0, clean := 0
               state := .disabled }

/-- EMITTER_SET (R157). -/
def emitterSetAction (aud enable : Byte) (modeA pullA modeB pullB pairing : Byte) (p w : Nat) (s : State) : Done :=
  match audOf aud, enableOf enable, LineMode.ofByte modeA, RestPull.ofByte pullA, LineMode.ofByte modeB, RestPull.ofByte pullB,
    Pairing.ofByte pairing with
  | some n, some en, some ma, some pa, some mb, some pb, some pr =>
    if p < 4 ∨ 1023 < p ∨ p < w then refused s .range
    else if (s.aud n).air.staged.rate.maxPeriod < p then refused s .range
    else
      let s := s.modEmit n fun u =>
        { u with staged := { modeA := ma, pullA := pa, modeB := mb, pullB := pb, pairing := pr, p := p, w := w } }
      let s := s.enableEmitter n en
      done s .ok (u8 (s.aud n).emit.state.code)
  | _, _, _, _, _, _, _ => refused s .range

/-- EMITTER_SET. -/
def execEmitterSet (tag : Byte) (body : List Byte) (s : State) : Host.Outcome State Fault Refusal :=
  .next <| s.take 0x60 tag false <|
    match body with
    | [a, en, ma, pa, mb, pb, pr, p1, p0, w1, w0] => some (emitterSetAction a en ma pa mb pb pr (be [p1, p0]) (be [w1, w0]))
    | _ => none

end Sys2Proof.Machine
end

