-- ==== Sys2Proof/Machine/Air.lean ====
section
/-! DEFINITION. The air scheduler: the cycle expiry, the frame build with its byte account, slot service, event packing, the carousel,
announcements and AIR_SET (chapter 7, R118 to R120). -/

namespace Sys2Proof.Machine

/-! ## The byte account (R131) -/

/-- A frame in the building: the byte account, the budget and the items claimed so far, in order. -/
structure Build where
  acct : Nat
  budget : Nat
  items : List Item
  deriving DecidableEq, Repr

/-- The header and the check value: 18 bytes (R130, R173). -/
def frameOverhead : Nat := 18

/-- A claim: granted when the account plus the item's size does not exceed B (R131). -/
def Build.claim (b : Build) (i : Item) : Option Build :=
  if b.acct + i.size ≤ b.budget then some { b with acct := b.acct + i.size, items := b.items ++ [i] } else none

/-! ## The announcement (R133, R140 to R142) -/

/-- The announcement's countdown at a build, and its item when due (R133). -/
def State.claimAnnouncement (s : State) (n : Aud) (b : Build) : State × Build :=
  match (s.aud n).air.ann with
  | .active text interval countdown life number =>
    if countdown = 0 then
      match b.claim (.announce interval number text) with
      | some b' => (s.modAir n fun a => { a with ann := .active text interval (interval - 1) life number }, b')
      | none => (s, b)
    else (s.modAir n fun a => { a with ann := .active text interval (countdown - 1) life number }, b)
  | _ => (s, b)

/-- A finite life falls by one at an expiry; at 0 the announcement ends (R129, R141). -/
def State.ageAnnouncement (s : State) (n : Aud) : State :=
  match (s.aud n).air.ann with
  | .active text interval countdown (some life) number =>
    if life ≤ 1 then s.endAnnouncement n
    else s.modAir n fun a => { a with ann := .active text interval countdown (some (life - 1)) number }
  | _ => s

/-- Whether a mask names an auditorium (R171). -/
def masked (mask : Nat) (n : Aud) : Bool := mask.testBit n.val

/-- An announcement takes a slot (R140): an ENDING slot's ANNOUNCE_END leaves the pending list. -/
def AirSched.announce (text : List Byte) (interval duration number : Nat) (a : AirSched) : AirSched :=
  { a with pend := if a.ann = .ending then a.pend.filter fun e => decide (e ≠ .announceEnd) else a.pend
           ann := .active text interval 0 (if duration = 0 then none else some (duration * 50)) number }

/-- ANNOUNCE (R140, R173). -/
def announceAction (mask interval duration : Nat) (text : List Byte) (s : State) : Done :=
  if mask = 0 ∨ text.length = 0 ∨ 120 < text.length ∨ interval = 0 ∨ 50 < interval ∨ 600 < duration then refused s .range
  else
    let number := (s.announces + 1) % 4294967296
    let s := { s with announces := number }
    done (allAuds.foldl (fun s n => if masked mask n then s.modAir n (AirSched.announce text interval duration number) else s) s)
      .ok []

/-- The ACTIVE announcements that a mask names end (R142); with them, the mask of the auditoriums they ended in. -/
def State.cancel (mask : Nat) (s : State) : List Aud → State × Nat
  | [] => (s, 0)
  | n :: ns =>
    if masked mask n ∧ (s.aud n).air.ann.isActive then
      let r := State.cancel mask (s.endAnnouncement n) ns
      (r.1, r.2 + 2 ^ n.val)
    else State.cancel mask s ns

/-- ANNOUNCE_CANCEL (R142). -/
def announceCancelAction (mask : Nat) (s : State) : Done :=
  let r := State.cancel mask s allAuds
  done r.1 .ok (u16 r.2)

/-- ANNOUNCE. -/
def execAnnounce (tag : Byte) (body : List Byte) (s : State) : Host.Outcome State Fault Refusal :=
  .next <| s.take 0x51 tag false <|
    match body with
    | m1 :: m0 :: i :: d1 :: d0 :: text => some (announceAction (be [m1, m0]) i.toNat (be [d1, d0]) text)
    | _ => none

/-- ANNOUNCE_CANCEL. -/
def execAnnounceCancel (tag : Byte) (body : List Byte) (s : State) : Host.Outcome State Fault Refusal :=
  .next <| s.take 0x52 tag false <|
    match body with
    | [m1, m0] => some (announceCancelAction (be [m1, m0]))
    | _ => none

/-! ## Slot service (R118 to R120, R134) -/

/-- The skip test (R119). Its notice carries z before and after without a presence byte (log entry 23). -/
def State.skipTest (s : State) (n : Aud) (p : Nat) (t : SoundTrack) : State :=
  let e := s.play n t
  match e.state, e.z with
  | .serving, some z =>
    if z + 72 < (e.target p : Int) then
      let z' : Int := (e.target p : Int) - slotTicks
      let gone := (e.queue.filter fun b => decide ((b.stamp : Int) ≤ z')).length
      (s.modPlay n t fun e => { e.passTo z' with skips := satAdd 255 e.skips 1 }).raise (.aud n) .soundSkip
        (u8 t.val ++ s32 z ++ s32 z' ++ u8 gone)
    else s
  | _, _ => s

/-- The slot an engine has due: z + 24, when it is SERVING and the slot does not exceed its target (R118). -/
def Playout.due (e : Playout) (p : Nat) : Option Nat :=
  match e.state, e.z with
  | .serving, some z => if z + slotTicks ≤ (e.target p : Int) then some (z + slotTicks).toNat else none
  | _, _ => none

/-- The item that serves a slot: SOUND with the queued block of that stamp, or GAP (R118). -/
def Playout.slotItem (e : Playout) (t : SoundTrack) (u : Nat) : Item :=
  match e.queue.find? fun b => b.stamp = u with
  | some b => .sound t u b.payload
  | none => .gap t u

/-- A served slot: its block leaves the queue, z becomes the slot, and a count rises (R118). -/
def Playout.served_ (e : Playout) (u : Nat) : Playout :=
  let has_ := e.queue.any fun b => decide (b.stamp = u)
  { e with queue := e.queue.filter fun b => decide (b.stamp ≠ u)
           z := some (u : Int)
           served := if has_ then wrap16 (e.served + 1) else e.served
           gaps := if has_ then e.gaps else wrap16 (e.gaps + 1) }

/-- Slot service over a list of turns (a round is track 0, then track 1); a refused offer ends it (R118). -/
def State.serveTurns (n : Aud) (p : Nat) : List SoundTrack → State → Build → State × Build
  | [], s, b => (s, b)
  | t :: ts, s, b =>
    let e := s.play n t
    match e.due p with
    | none => State.serveTurns n p ts s b
    | some u =>
      match b.claim (e.slotItem t u) with
      | none => (s, b)
      | some b' => State.serveTurns n p ts (s.modPlay n t fun e => e.served_ u) b'

/-- Three rounds of track 0 and track 1 (R118). -/
def serviceTurns : List SoundTrack := [0, 1, 0, 1, 0, 1]

/-- Slot service with the gate read OPEN (R118). -/
def State.slotService (s : State) (n : Aud) (p : Nat) (b : Build) : State × Build :=
  let s := allSound.foldl (fun s t => s.skipTest n p t) s
  State.serveTurns n p serviceTurns s b

/-- With the gate read CLOSED, z moves to the target slot and the passed blocks are discarded (R120). -/
def Playout.passClosed (p : Nat) (e : Playout) : Playout :=
  match e.state, e.z with
  | .serving, some z => if z < (e.target p : Int) then e.passTo (e.target p) else e
  | _, _ => e

/-! ## Events and repeats (R136 to R139) -/

/-- The item of an event (R132). -/
def Event.item : Event → Item
  | .cueOn t c => .cueOn t c
  | .cueOff t k => .cueOff t k
  | .clear t => .clear t
  | .announceEnd => .announceEnd

/-- The purge of a build with the gate read CLOSED keeps the ANNOUNCE_END events (R138). -/
def purge (evs : List Event) : List Event := evs.filter fun e => decide (e = .announceEnd)

/-- Events packed from the head until a claim is refused; what stays, and whether an ANNOUNCE_END was packed (R136, R141). -/
def packEvents : List Event → Build → List Event × Build × Bool
  | [], b => ([], b, false)
  | e :: es, b =>
    match b.claim e.item with
    | none => (e :: es, b, false)
    | some b' =>
      let r := packEvents es b'
      (r.1, r.2.1, r.2.2 || decide (e = .announceEnd))

/-- Stage 7: the purge, then the packing; a packed ANNOUNCE_END empties an ENDING slot (R130, R136, R138, R141). -/
def State.packPending (s : State) (n : Aud) (gate : Gate) (b : Build) : State × Build :=
  let evs := (s.aud n).air.pend
  let evs := if gate = .closed then purge evs else evs
  let r := packEvents evs b
  (s.modAir n fun a => { a with pend := r.1, ann := if r.2.2 ∧ a.ann = .ending then .empty else a.ann }, r.2.1)

/-- The cue at active-set position 4t + k (R139). -/
def Auditorium.activeAt (a : Auditorium) (pos : Fin 16) : Option (TextTrack × Cue) :=
  let t : TextTrack := ⟨pos.val / 4, by omega⟩
  ((a.text.get t).active[pos.val % 4]?).map fun c => (t, c)

/-- The carousel from a position on, over a number of positions; with a refusal, where it stopped (R139). -/
def carousel (a : Auditorium) : Nat → Fin 16 → Build → Build × Option (Fin 16)
  | 0, _, b => (b, none)
  | k + 1, pos, b =>
    match a.activeAt pos with
    | none => carousel a k (pos + 1) b
    | some (t, c) =>
      match b.claim (.repeated t c) with
      | some b' => carousel a k (pos + 1) b'
      | none => (b, some pos)

/-- Stage 8: sixteen positions from the pointer; a refusal moves the pointer there (R139). -/
def State.runCarousel (s : State) (n : Aud) (b : Build) : State × Build :=
  let r := carousel (s.aud n) 16 (s.aud n).air.carousel b
  match r.2 with
  | some pos => (s.modAir n fun a => { a with carousel := pos }, r.1)
  | none => (s, r.1)

/-! ## The frame build (R130) -/

/-- The kinds of frame (R129). -/
inductive FrameKind where
  | shown | announcement | closing | beacon
  deriving DecidableEq, Repr

/-- The choice of frame at an expiry: the first case that applies (R129). -/
def State.chooseFrame (s : State) (n : Aud) : Option FrameKind :=
  let a := (s.aud n).air
  if (s.aud n).ctx.st.framed then some .shown
  else if a.ann.isActive then some .announcement
  else if a.pend ≠ [] then some .closing
  else if a.current.idle ≤ a.beacon + 1 then some .beacon
  else none

/-- Stage 9: the frame takes its header and the frame sequence (R130, R145, R173). -/
def State.closeFrame (s : State) (n : Aud) (gate : Gate) (p : Nat) (b : Build) : State × AirFrame :=
  let a := s.aud n
  let f : AirFrame :=
    { site := a.air.current.site, aud := n.val, sequence := a.air.sequence, flags := headerFlags a.ctx.st gate a.air.ann
      length := b.acct, position := p, bindGen := a.ctx.bindGen, mask := trackMask a.ctx, items := b.items }
  (s.modAir n fun a => { a with sequence := wrap8 (a.sequence + 1), lastSize := b.acct, built := wrap16 (a.built + 1) }, f)

/-- A frame build (R130). Whether the gate withholds a restore that an overflow at stage 1 asks for is decided by the gate value read at the
build before, since this build's is read at stage 2 (R109, log entry 41). -/
def State.buildFrame (s : State) (n : Aud) (kind : FrameKind) : State × AirFrame :=
  -- 1. Sample
  let sp := s.sample n
  let s := sp.1
  let p := sp.2
  -- 2. Gate
  let gate := (s.aud n).input.gate
  let opening := decide (gate = .opened ∧ (s.aud n).air.lastGate ≠ some .opened)
  let s := s.modAir n fun a => { a with lastGate := some gate }
  -- 3. Opening the account
  let b : Build := { acct := frameOverhead, budget := (s.aud n).air.current.rate.budget, items := [] }
  let sb := if kind = .shown ∨ kind = .announcement then s.claimAnnouncement n b else (s, b)
  let s := sb.1
  -- 4. Release
  let running := decide (kind = .shown) && (s.aud n).ctx.st.running
  let withhold := decide (gate = .closed) || opening
  let s := if running then allText.foldl (fun s t => s.releaseCheck n p withhold t) s else s
  -- 5. Restore
  let s := if opening then s.restoreAll n else s
  -- 6. Sound
  let sb :=
    if running then
      if gate = .opened then s.slotService n p sb.2 else (s.soundSignal n (Playout.passClosed p), sb.2)
    else (s, sb.2)
  -- 7. Events
  let sb := if kind = .beacon then
      (sb.1.modAir n fun a => { a with pend := if gate = .closed then purge a.pend else a.pend }, sb.2)
    else sb.1.packPending n gate sb.2
  -- 8. Repeats
  let sb := if kind = .shown ∧ gate = .opened then sb.1.runCarousel n sb.2 else sb
  -- 9. Closing
  sb.1.closeFrame n gate p sb.2

/-! ## The cycle expiry (R128, R129, R151) -/

/-- The reload of a cycle timer (R128). -/
def cycleCounts : Nat := 24000

/-- Staged air settings and staged line settings become current (R129, R147, R151). A transmission that still runs goes on with the settings
it began with (log entry 36). -/
def State.adoptAir (s : State) (n : Aud) : State :=
  s.modAud n fun a =>
    { a with air := { a.air with current := a.air.staged }, emit := { a.emit with current := a.emit.staged } }

/-- A cycle expiry (R129). -/
def State.expire (s : State) (n : Aud) : State :=
  let s := s.modAir n fun a => { a with timer := cycleCounts }
  let s := s.adoptAir n
  let s := s.ageAnnouncement n
  let rate := (s.aud n).air.current.rate
  match s.chooseFrame n with
  | some kind =>
    let r := s.buildFrame n kind
    (r.1.modAir n fun a => { a with beacon := 0 }).handOver n (some r.2) rate
  | none => (s.modAir n fun a => { a with beacon := a.beacon + 1 }).handOver n none rate

/-- CYCLE_EXPIRY. -/
def execCycleExpiry (n : Aud) (s : State) : Host.Outcome State Fault Refusal := .next (s.expire n)

/-! ## AIR_SET (R147) -/

/-- AIR_SET (R147). -/
def airSetAction (aud rate : Byte) (site : Nat) (idle : Byte) (s : State) : Done :=
  match audOf aud, BitRate.ofByte rate with
  | some n, some r =>
    if idle.toNat = 0 ∨ 250 < idle.toNat then refused s .range
    else if r.maxPeriod < (s.aud n).emit.staged.p then refused s .range
    else done (s.modAir n fun a => { a with staged := { rate := r, site := site, idle := idle.toNat } }) .ok []
  | _, _ => refused s .range

/-- AIR_SET. -/
def execAirSet (tag : Byte) (body : List Byte) (s : State) : Host.Outcome State Fault Refusal :=
  .next <| s.take 0x50 tag false <|
    match body with
    | [a, r, c1, c0, i] => some (airSetAction a r (be [c1, c0]) i)
    | _ => none

end Sys2Proof.Machine
end

