-- ==== Sys2Proof/Machine/Store.lean ====
section
/-! DEFINITION. The steps of the host store operations: load page, seal, amendment, cue read, delete, reclaim, and the retire procedure
(R13, R15, R19, R23, R36 to R42). The commands that start them stand in Machine/Directory.lean. -/

namespace Sys2Proof.Machine

/-! ## Notices of the store (R170's codes of operations and causes) -/

def opLoad : Nat := 0
def opSeal : Nat := 1
def opAmend : Nat := 2
def opDelete : Nat := 3
def opReclaim : Nat := 4
def causeProgramFail : Nat := 0
def causeNoRoom : Nat := 1

/-- STORE_FAIL: package id, operation, cause. -/
def State.storeFail (s : State) (id op cause : Nat) : State := s.raise .store .storeFail (u8 id ++ u8 op ++ u8 cause)

/-! ## The host operation's step in flight (R30) -/

/-- The block and page of the host operation's program in flight. -/
def State.hostProgram (s : State) : Option (Nat × Nat) :=
  match s.flight with
  | some f =>
    match f.req.who, f.req.op with
    | .host, .program block page => some (block, page)
    | _, _ => none
  | none => none

/-- The block of the host operation's erase in flight. -/
def State.hostErase (s : State) : Option Nat :=
  match s.flight with
  | some f =>
    match f.req.who, f.req.op with
    | .host, .erase block => some block
    | _, _ => none
  | none => none

/-! ## Load page (R10, R13, R16) -/

/-- The state of an entry changes (R3). -/
def State.setPkgState (s : State) (id : Nat) (st : PkgState) : State := s.modPackage id fun p => { p with state := st }

/-- A load page program completes (R13); of a load closed by a part reset the package becomes ABANDONED (R16). -/
def State.loadProgramDone (s : State) (id block page : Nat) (ok : Bool) : State :=
  let s := (s.programmed block page ok).endOp
  if s.load.any fun l => decide (l.pkg = id) then
    if ok then s else ({ s.setPkgState id .failed with load := none }).storeFail id opLoad causeProgramFail
  else s.setPkgState id .abandoned

/-- LOAD_PAGE_PROGRAM_DONE. -/
def execLoadPageProgramDone (ok : Bool) (s : State) : Host.Outcome State Fault Refusal :=
  .next <|
    match s.hostProgram, s.hostOp with
    | some (block, page), some (.loadPage id) =>
      s.complete fun s => s.loadProgramDone id block page ok
    | _, _ => s

/-! ## Seal (R15) -/

/-- The page the staging buffer makes (R33). -/
def Load.stagedImage (l : Load) (serial : Nat) : PageImage :=
  { tag := { role := .data, pkg := l.pkg, serial := serial, logical := l.handed, track := (l.track.map (·.val)).getD 0, generation := 0 }
    body := .bytes l.staging }

/-- The index pages of a track: its entries in pages of 128 (R15, R172). -/
def Load.indexImages (l : Load) (serial : Nat) (t : TextTrack) : List PageImage :=
  let es := l.index.get t
  (List.range (indexPages es.length)).map fun o =>
    { tag := { role := .index, pkg := l.pkg, serial := serial, logical := o, track := t.val, generation := 0 }
      body := .bytes (((es.drop (indexPerPage * o)).take indexPerPage).flatMap IndexEntry.bytes) }

/-- The seal page, built from the package entry (R15). -/
def Package.sealImage (p : Package) (info : PkgInfo) : PageImage :=
  { tag := { role := .seal, pkg := p.id, serial := p.serial, logical := 0, track := 0, generation := 0 }
    body := .sealed info p.pageCounts }

/-- The pages a seal programs, in order: the staged page if any, the index pages, the seal page (R15). -/
def sealPages (p : Package) (info : PkgInfo) (l : Load) : List PageImage :=
  (if l.staging = [] then [] else [l.stagedImage p.serial]) ++ (allText.flatMap fun t => l.indexImages p.serial t)
    ++ [p.sealImage info]

/-- The next unprogrammed page along a block list (R15). -/
def State.nextAlong (s : State) (blocks : List Nat) : Option (Nat × Nat) :=
  (blocks.find? fun b => decide ((s.block b).nextPage < Config.pagesPerBlock)).map fun b => (b, (s.block b).nextPage)

/-- Where each track's index pages lie: after the data pages, track by track; a track without cues has none (R15, R29). -/
def Load.indexLocs (l : Load) : Vector (Option IndexLoc) 4 :=
  let data := l.handed + (if l.staging = [] then 0 else 1)
  let k := fun (t : TextTrack) => indexPages (l.index.get t).length
  let loc := fun (first count : Nat) => if count = 0 then none else some ({ first := first, count := count } : IndexLoc)
  #v[loc data (k 0), loc (data + k 0) (k 1), loc (data + k 0 + k 1) (k 2), loc (data + k 0 + k 1 + k 2) (k 3)]

/-- A step of a seal: the page is built in the page register from the load that the seal keeps, and its program is requested
(R15, R33, R41). -/
def State.sealStep (s : State) (id step : Nat) (l : Load) : State :=
  match s.package id with
  | some p =>
    match (p.info.bind fun info => (sealPages p info l)[step]?), s.nextAlong p.blocks with
    | some img, some (b, page) => ({ s.setOp (.sealing id step l) with pageReg := some img }).hostWrite (.program b page)
    | _, _ => s
  | none => s

/-- A seal's program completes; with the seal its load ends (R15). -/
def State.sealProgramDone (s : State) (id step : Nat) (l : Load) (block page : Nat) (ok : Bool) : State :=
  let s := s.programmed block page ok
  match s.package id with
  | some p =>
    if ok = false then (s.setPkgState id .failed).endOp.storeFail id opSeal causeProgramFail
    else if step + 1 < ((p.info.map fun info => (sealPages p info l).length).getD 0) then s.sealStep id (step + 1) l
    else
      let s := s.modPackage id fun p => { p with state := .ready, indexLoc := l.indexLocs }
      s.endOp.raise .store .storeDone (u8 id ++ u8 opSeal)
  | none => s.endOp

/-- SEAL_STEP_DONE. -/
def execSealStepDone (ok : Bool) (s : State) : Host.Outcome State Fault Refusal :=
  .next <|
    match s.hostProgram, s.hostOp with
    | some (block, page), some (.sealing id step l) =>
      s.complete fun s => s.sealProgramDone id step l block page ok
    | _, _ => s

/-! ## The search of a track's index pages (R19, R36) -/

/-- The position of index page `ordinal` of a track. -/
def Package.indexPosition (p : Package) (t : TextTrack) (ordinal : Nat) : Nat :=
  ((p.indexLoc.get t).map (·.first)).getD 0 + ordinal

/-- The number of index pages of a track. -/
def Package.indexCount (p : Package) (t : TextTrack) : Nat := ((p.indexLoc.get t).map (·.count)).getD 0

/-- An index page searched for a cue: the last entry so far whose first cue number does not exceed it, and whether the search ends on it: a
later entry on the page lies above the cue, or the track has no further index page. Where the last entry of a page does not exceed
the cue, be it equal to it, the next index page is read first (log entry 39). -/
def searchIndex (p : Package) (t : TextTrack) (cue ordinal : Nat) (best : Option IndexEntry) (bs : List Byte) :
    Option IndexEntry × Bool :=
  let es := indexEntries (entriesOnPage (p.pageCounts.get t) ordinal) bs
  let best := match lastEntryFor es cue with | some e => some e | none => best
  (best, es.any (fun e => decide (cue < e.firstCue)) || decide (p.indexCount t ≤ ordinal + 1))

/-! ## The retire procedure (R40) -/

/-- A RETIRE tag (R26). -/
def retireImage : PageImage :=
  { tag := { role := .retire, pkg := 0, serial := 0, logical := 0, track := 0, generation := 0 }, body := .bytes [] }

/-- A RETIRE tag is to be programmed into page 0 of a block (R40 step 2). -/
def State.retireTag (s : State) (block : Nat) : State :=
  ({ s with pageReg := some retireImage }).hostWrite (.program block 0)

/-- The class a block takes by the outcome of its RETIRE tag program (R40 steps 3 and 4). -/
def retiredClass (ok : Bool) : BlockClass := if ok then .retired else .unknown

/-! ## Delete (R23) -/

/-- A delete goes on with the next block, or ends: the entry is removed and STORE_DONE is raised (R23). -/
def State.deleteNext (s : State) (id : Nat) (rest : List Nat) (retired : Nat) : State :=
  match rest with
  | b :: bs => (s.setOp (.delete id b bs retired)).hostWrite (.erase b)
  | [] => (s.dropPackage id).endOp.raise .store .storeDone (u8 id ++ u8 opDelete ++ u8 retired)

/-- A delete's erase completes: the block returns to the pool, or is retired when the erase failed or it is marked (R23, R39, R40). -/
def State.deleteErased (s : State) (id block : Nat) (rest : List Nat) (retired : Nat) (ok : Bool) : State :=
  let s := s.erased block ok
  if ok ∧ (s.block block).marked = false then (s.release block .blank).deleteNext id rest retired else s.retireTag block

/-- DELETE_ERASE_DONE. -/
def execDeleteEraseDone (ok : Bool) (s : State) : Host.Outcome State Fault Refusal :=
  .next <|
    match s.hostErase, s.hostOp with
    | some block, some (.delete id _ rest retired) =>
      s.complete fun s => s.deleteErased id block rest retired ok
    | _, _ => s

/-! ## Reclaim (R42) -/

/-- A reclaim goes on with the next block, or ends with STORE_DONE (R42). -/
def State.reclaimNext (s : State) (rest : List Nat) (returned retired : Nat) : State :=
  match rest with
  | b :: bs => (s.setOp (.reclaim b bs returned retired)).hostWrite (.erase b)
  | [] => (s.raise .store .storeDone (u8 opReclaim ++ u8 returned ++ u8 retired)).endOp

/-- A reclaim's erase completes (R42). -/
def State.reclaimErased (s : State) (block : Nat) (rest : List Nat) (returned retired : Nat) (ok : Bool) : State :=
  let s := s.erased block ok
  if ok ∧ (s.block block).marked = false then (s.release block .blank).reclaimNext rest (returned + 1) retired
  else s.retireTag block

/-- RECLAIM_ERASE_DONE. -/
def execReclaimEraseDone (ok : Bool) (s : State) : Host.Outcome State Fault Refusal :=
  .next <|
    match s.hostErase, s.hostOp with
    | some block, some (.reclaim _ rest returned retired) =>
      s.complete fun s => s.reclaimErased block rest returned retired ok
    | _, _ => s

/-! ## Amendment (R36 to R38) -/

/-- An amendment ends without commit, with NO_ROOM; a block reserved by it is released (R38 a, c). -/
def State.amendNoRoom (s : State) (id block : Nat) (reserved : Bool) : State :=
  let s := s.storeFail id opAmend causeNoRoom
  (if reserved then s.release block .blank else s).endOp

/-- An amendment's read completes (R36 steps 1 to 3, R38 c). -/
def State.amendRead (s : State) (f : Flight) (errs : Nat) (id : Nat) (t : TextTrack) (cue : Nat) (pl : Placement)
    (sp : Option Nat) (ls : List Line) (block : Nat) (reserved : Bool) (stage : AmendStage) : State :=
  let s := s.graded f errs
  let op := fun st => HostOp.amend id t cue pl sp ls block reserved st
  match s.package id, readable errs, stage with
  | some p, true, .readIndex ordinal best =>
    let r := searchIndex p t cue ordinal best (readBytes s.flash f.addr)
    if r.2 then
      match r.1 with
      | some en => (s.setOp (op (.readPage en))).hostRead (.readLogical id en.logical)
      | none => s.amendNoRoom id block reserved
    else (s.setOp (op (.readIndex (ordinal + 1) r.1))).hostRead (.readPosition id (p.indexPosition t (ordinal + 1)))
  | some p, true, .readPage en =>
    let g := p.generation en.logical
    let cues := pageCues (readBytes s.flash f.addr)
    match cues[cue - en.firstCue]? with
    | some c =>
      let c' := { c with placement := pl, speaker := sp, lines := ls }
      let bs := cuesBytes (cues.set (cue - en.firstCue) c')
      if Config.pageBytes < bs.length ∨ 255 ≤ g then s.amendNoRoom id block reserved
      else
        let img : PageImage :=
          { tag := { role := .amend, pkg := id, serial := p.serial, logical := en.logical, track := t.val, generation := g + 1 }
            body := .bytes bs }
        ({ s.setOp (op (.program en.logical g c')) with pageReg := some img }).hostWrite
          (.program block (s.block block).nextPage)
    | none => s.amendNoRoom id block reserved
  | _, _, _ => s.amendNoRoom id block reserved

/-- AMEND_READ_DONE. -/
def execAmendReadDone (errs : Nat) (s : State) : Host.Outcome State Fault Refusal :=
  .next <|
    match s.flight, s.hostOp with
    | some f, some (.amend id t cue pl sp ls block reserved stage) =>
      match f.req.who, f.req.op with
      | .host, .readPosition _ _ => s.complete fun s => s.amendRead f errs id t cue pl sp ls block reserved stage
      | .host, .readLogical _ _ => s.complete fun s => s.amendRead f errs id t cue pl sp ls block reserved stage
      | _, _ => s
    | _, _ => s

/-- The engines of every show bound to a package, on a track, are told of a commit (R37 step 4, R110). -/
def State.tellCommit (s : State) (id : Nat) (t : TextTrack) (c : Cue) : State :=
  allAuds.foldl (fun s n => if (s.aud n).ctx.pkg = some id ∧ s.textOn n t then State.textAmended c s n t else s) s

/-- An amendment's program completes: the commit, or the failure (R37, R38 b). -/
def State.amendProgrammed (s : State) (id : Nat) (t : TextTrack) (cue : Nat) (pl : Placement) (sp : Option Nat) (ls : List Line)
    (block page : Nat) (reserved : Bool) (logical g : Nat) (c : Cue) (ok : Bool) : State :=
  let s := s.programmed block page ok
  if ok then
    let s := s.modPackage id fun p =>
      { p with amend := if reserved then some block else p.amend
               map := mapPut { logical := logical, page := page, generation := g + 1 } p.map }
    let s := s.raise .store .storeDone (u8 id ++ u8 opAmend ++ u8 t.val ++ u16 cue)
    (s.tellCommit id t c).endOp
  else
    let s := s.storeFail id opAmend causeProgramFail
    if reserved then (s.setOp (.amend id t cue pl sp ls block reserved .retire)).hostWrite (.erase block) else s.endOp

/-- AMEND_PROGRAM_DONE. -/
def execAmendProgramDone (ok : Bool) (s : State) : Host.Outcome State Fault Refusal :=
  .next <|
    match s.hostProgram, s.hostOp with
    | some (block, page), some (.amend id t cue pl sp ls _ reserved (.program logical g c)) =>
      s.complete fun s => s.amendProgrammed id t cue pl sp ls block page reserved logical g c ok
    | _, _ => s

/-- RETIRE_ERASE_DONE: the fresh erase of a block reserved by a failed amendment completes; its outcome changes nothing that
follows (R40 step 1). -/
def execRetireEraseDone (ok : Bool) (s : State) : Host.Outcome State Fault Refusal :=
  .next <|
    match s.hostErase, s.hostOp with
    | some block, some (.amend _ _ _ _ _ _ _ _ .retire) =>
      s.complete fun s => (s.erased block ok).retireTag block
    | _, _ => s

/-- A RETIRE tag program completes and the operation it stood in goes on (R40, R23, R38, R42). -/
def State.retireProgrammed (s : State) (block page : Nat) (op : HostOp) (ok : Bool) : State :=
  let s := (s.programmed block page ok).release block (retiredClass ok)
  let more := if ok then 1 else 0
  match op with
  | .delete id _ rest retired => s.deleteNext id rest (retired + more)
  | .reclaim _ rest returned retired => s.reclaimNext rest returned (retired + more)
  | _ => s.endOp

/-- Whether an operation is one in which a block is retired. -/
def HostOp.retires : HostOp → Bool
  | .delete _ _ _ _ => true
  | .reclaim _ _ _ _ => true
  | .amend _ _ _ _ _ _ _ _ .retire => true
  | _ => false

/-- RETIRE_TAG_PROGRAM_DONE. -/
def execRetireTagProgramDone (ok : Bool) (s : State) : Host.Outcome State Fault Refusal :=
  .next <|
    match s.hostProgram, s.hostOp with
    | some (block, page), some op =>
      if op.retires then s.complete fun s => s.retireProgrammed block page op ok else s
    | _, _ => s

/-! ## Cue read (R19) -/

/-- The withheld reply becomes READY and the slot is emptied (R19, R163). -/
def State.endCueRead (s : State) (code : Code) (vals : List Byte) : State :=
  let s := s.endOp
  match s.replyBuf with
  | .withheld kind tag => s.ready { kind := replyKind kind, tag := tag, code := code, vals := vals }
  | _ => s

/-- The values of a CUE_READ reply: the record's fields in the order of the cue record table, its number and the generation (R19). -/
def cueReadVals (t : TextTrack) (c : Cue) (generation : Nat) : List Byte :=
  u8 t.val ++ u32 c.startTick ++ u32 c.endTick ++ u8 c.placement.code ++ speakerByte c.speaker ++ listBytes Line.bytes c.lines
    ++ u16 c.number ++ u8 generation

/-- A read of a CUE_READ completes (R19). -/
def State.cueReadStep (s : State) (f : Flight) (errs : Nat) (id : Nat) (t : TextTrack) (cue : Nat) (stage : CueReadStage) : State :=
  let s := s.graded f errs
  match s.package id, readable errs, stage with
  | some p, true, .readIndex ordinal best =>
    let r := searchIndex p t cue ordinal best (readBytes s.flash f.addr)
    if r.2 then
      match r.1 with
      | some en => (s.setOp (.cueRead id t cue (.readPage en))).hostRead (.readLogical id en.logical)
      | none => s.endCueRead .noSuch []
    else
      (s.setOp (.cueRead id t cue (.readIndex (ordinal + 1) r.1))).hostRead (.readPosition id (p.indexPosition t (ordinal + 1)))
  | some p, true, .readPage en =>
    match (pageCues (readBytes s.flash f.addr))[cue - en.firstCue]? with
    | some c => s.endCueRead .ok (cueReadVals t c (p.generation en.logical))
    | none => s.endCueRead .noSuch []
  | _, _, _ => s.endCueRead .noSuch []

/-- CUE_READ_STEP_DONE. -/
def execCueReadStepDone (errs : Nat) (s : State) : Host.Outcome State Fault Refusal :=
  .next <|
    match s.flight, s.hostOp with
    | some f, some (.cueRead id t cue stage) =>
      match f.req.who with
      | .host => s.complete fun s => s.cueReadStep f errs id t cue stage
      | _ => s
    | _, _ => s

/-! ## Write inhibit (R41) -/

/-- The slot without the wait. -/
def HostSlot.going (h : HostSlot) : HostSlot := { h with waiting := none }

/-- SWI becomes inactive: a waiting operation requests its step. -/
def State.swiReleased (s : State) : State :=
  let s := { s with swi := false }
  match s.slot.bind (·.waiting) with
  | some op => State.request { s with slot := s.slot.map HostSlot.going } (hostRequest op)
  | none => s

/-- SWI_INACTIVE: the line is then left at the level `after`. -/
def execSwiInactive (after : Bool) (s : State) : Host.Outcome State Fault Refusal :=
  .next ({ s.swiReleased with swi := after } : State)

end Sys2Proof.Machine
end

