-- ==== Sys2Proof/Machine/Directory.lean ====
section
/-! DEFINITION. The commands of the package directory and of the cue store (R6 to R24, R42, R43). -/

namespace Sys2Proof.Machine

/-! ## PACKAGE_OPEN (R6) -/

/-- The body of a PACKAGE_OPEN, its values not yet judged (R171). -/
structure OpenArgs where
  rate : Byte
  duration : Nat
  title : List Byte
  text : List (List Byte × Byte)
  sound : List (List Byte)
  deriving DecidableEq, Repr

/-- `n` text track descriptions from the front of the bytes. -/
def rawTextDescs : Nat → List Byte → Option (List (List Byte × Byte) × List Byte)
  | 0, bs => some ([], bs)
  | n + 1, a :: b :: c :: k :: rest =>
    match rawTextDescs n rest with
    | some (ds, rest') => some (([a, b, c], k) :: ds, rest')
    | none => none
  | _ + 1, _ => none

/-- `n` sound track descriptions from the front of the bytes. -/
def rawSoundDescs : Nat → List Byte → Option (List (List Byte) × List Byte)
  | 0, bs => some ([], bs)
  | n + 1, a :: b :: c :: rest =>
    match rawSoundDescs n rest with
    | some (ds, rest') => some ([a, b, c] :: ds, rest')
    | none => none
  | _ + 1, _ => none

/-- A PACKAGE_OPEN body; `none` where its length is not the one its own fields imply (R171). -/
def openArgs : List Byte → Option OpenArgs
  | r :: d3 :: d2 :: d1 :: d0 :: tl :: rest =>
    if rest.length < tl.toNat then none
    else
      match rest.drop tl.toNat with
      | tc :: rest' =>
        match rawTextDescs tc.toNat rest' with
        | some (ts, sc :: rest'') =>
          match rawSoundDescs sc.toNat rest'' with
          | some (ds, []) =>
            some { rate := r, duration := be [d3, d2, d1, d0], title := rest.take tl.toNat, text := ts, sound := ds }
          | _ => none
        | _ => none
      | [] => none
  | _ => none

/-- The fields of an entry that a PACKAGE_OPEN gives, within the values of R6 a. -/
def OpenArgs.checked (a : OpenArgs) : Option PkgInfo :=
  match RateClass.ofByte a.rate, a.text.mapM fun d => (TextKind.ofByte d.2).map fun k => ({ label := d.1, kind := k } : TextDesc) with
  | some rate, some text =>
    if a.title.length = 0 ∨ 16 < a.title.length ∨ a.duration = 0 ∨ Config.maxPosition < a.duration
        ∨ Config.textTracks < a.text.length ∨ Config.soundTracks < a.sound.length then none
    else some { title := a.title, rate := rate, duration := a.duration, text := text, sound := a.sound, cueCounts := Vector.replicate 4 0 }
  | _, _ => none

/-- PACKAGE_OPEN (R6). -/
def packageOpenAction (a : OpenArgs) (s : State) : Done :=
  match a.checked with
  | none => refused s .range
  | some info =>
    match s.freeId with
    | none => refused s .full
    | some id =>
      if s.packages.any fun p => decide (p.state = .filling) then refused s .busy
      else
        match s.lowestBlank with
        | none => refused s .full
        | some b =>
          let serial := wrap16 (s.serialHigh + 1)
          let p : Package :=
            { id := id, serial := serial, state := .filling, info := some info, pageCounts := Vector.replicate 4 0, blocks := [b]
              indexLoc := Vector.replicate 4 none, amend := none, protection := .unprotected, binds := 0, map := [] }
          let l : Load :=
            { pkg := id, staging := [], track := none, lastStart := 0, index := Vector.replicate 4 [], handed := 0 }
          let s := s.claim b .package id
          done { s with packages := insertPackage p s.packages, serialHigh := serial, load := some l } .ok (u8 id ++ u16 serial)

/-- PACKAGE_OPEN. -/
def execPackageOpen (tag : Byte) (body : List Byte) (s : State) : Host.Outcome State Fault Refusal :=
  .next <| s.take 0x10 tag false <| (openArgs body).map packageOpenAction

/-! ## CUE_APPEND (R7 to R12) -/

/-- Whether a record needs a handover (R10). -/
def Load.needsHandover (l : Load) (track size : Nat) : Bool :=
  decide (l.staging ≠ [] ∧ (l.track.map (·.val) ≠ some track ∨ Config.pageBytes < l.staging.length + size))

/-- The last block of a block list. -/
def Package.lastBlock (p : Package) : Nat := p.blocks.getLast?.getD 0

/-- The refusals of a handover (R12). -/
def State.handoverRefused (s : State) (p : Package) (t : TextTrack) : Option Code :=
  if 512 ≤ p.pageCounts.get t then some .full
  else if s.swi then some .guarded
  else if s.slot.isSome then some .busy
  else if s.pagesUsed p.lastBlock = Config.pagesPerBlock ∧ (64 ≤ p.blocks.length ∨ s.pool = []) then some .full
  else none

/-- A handover: the staged page goes to the page register and its load page program starts, in the next page of the last block or
in page 0 of a fresh block (R10, R33). -/
def State.handover (s : State) (p : Package) (l : Load) : State :=
  let img := l.stagedImage p.serial
  let fresh := if s.pagesUsed p.lastBlock = Config.pagesPerBlock then s.lowestBlank else none
  let s := match fresh with
    | some b => (s.claim b .package p.id).modPackage p.id fun p => { p with blocks := p.blocks ++ [b] }
    | none => s
  let block := fresh.getD p.lastBlock
  let s := { s.setOp (.loadPage p.id) with
    pageReg := some img, load := some { l with staging := [], handed := l.handed + 1 } }
  s.hostWrite (.program block (s.block block).nextPage)

/-- The accepted record joins the staging buffer, opening a page where it is empty (R8, R10, R11). -/
def State.stage (s : State) (id : Nat) (l : Load) (t : TextTrack) (cue : Cue) : State :=
  let opens := decide (l.staging = [])
  let en : IndexEntry := { logical := l.handed, firstCue := cue.number, firstStart := cue.startTick }
  let l' : Load :=
    { l with staging := l.staging ++ cue.stored, track := some t, lastStart := cue.startTick
             index := if opens then l.index.set t.val (l.index.get t ++ [en]) t.isLt else l.index }
  let s := s.modPackage id fun p =>
    { p with info := p.info.map fun i => { i with cueCounts := i.cueCounts.set t.val (i.cueCounts.get t + 1) t.isLt }
             pageCounts := if opens then p.pageCounts.set t.val (p.pageCounts.get t + 1) t.isLt else p.pageCounts }
  { s with load := some l' }

/-- What one record of a batch comes to: accepted, with its cue number and whether it was clamped, or refused. -/
inductive RecordResult where
  | taken (s : State) (number : Nat) (clamped : Bool)
  | refused (code : Code)

/-- One record of a CUE_APPEND is tested, placed and completed (R7, R8, R10, R12). -/
def appendRecord (s : State) (p : Package) (info : PkgInfo) (l : Load) (r : RawRecord) : RecordResult :=
  if h : r.track < info.text.length ∧ r.track < 4 then
    let t : TextTrack := ⟨r.track, h.2⟩
    if (match l.track with | some c => decide (r.track < c.val) | none => false) then .refused .order
    else
      match checkedText r.placement r.speaker r.lines with
      | none => .refused .range
      | some x =>
        if info.duration ≤ r.startTick ∨ Config.maxPosition < r.endTick ∨ r.endTick ≤ r.startTick then .refused .range
        else if l.track = some t ∧ r.startTick < l.lastStart then .refused .order
        else if 65536 ≤ info.cueCounts.get t then .refused .full
        else
          let clamped := decide (r.startTick + Config.maxCueTicks < r.endTick)
          let cue : Cue :=
            { number := info.cueCounts.get t, startTick := r.startTick
              endTick := if clamped then r.startTick + Config.maxCueTicks else r.endTick
              placement := x.placement, speaker := x.speaker, lines := x.lines }
          if l.needsHandover r.track cue.storedSize then
            match s.handoverRefused p t with
            | some c => .refused c
            | none =>
              let s := s.handover p l
              match s.load with
              | some l' => .taken (s.stage p.id l' t cue) cue.number clamped
              | none => .refused .state
          else .taken (s.stage p.id l t cue) cue.number clamped
  else .refused .range

/-- A batch so far: the records accepted, the cue number of the first, and the clamp count (R9). -/
structure Batch where
  accepted : Nat
  first : Option Nat
  clamps : Nat
  deriving DecidableEq, Repr

/-- The records of a batch in order, up to the first refusal (R9). -/
def appendBatch (id : Nat) : List RawRecord → State → Batch → State × Batch × Code
  | [], s, b => (s, b, .ok)
  | r :: rs, s, b =>
    match s.package id, s.load with
    | some p, some l =>
      match p.info with
      | some info =>
        match appendRecord s p info l r with
        | .taken s' number clamped =>
          appendBatch id rs s'
            { accepted := b.accepted + 1, first := some (b.first.getD number), clamps := b.clamps + (if clamped then 1 else 0) }
        | .refused c => (s, b, c)
      | none => (s, b, .state)
    | _, _ => (s, b, .state)

/-- The reply of a CUE_APPEND: records accepted, first cue number, result of the first refusal, clamp count; the first cue number is a
free value where no record was accepted (R9, R171). -/
def appendReply (s : State) (b : Batch) (code : Code) : Done :=
  match b.first with
  | some k => done s code (u8 b.accepted ++ u16 k ++ u8 code.code ++ u8 b.clamps)
  | none =>
    done { s with free := s.free + 1 } code
      (u8 b.accepted ++ u16 (Config.meaninglessCueNumber s.free).toNat ++ u8 code.code ++ u8 b.clamps)

/-- No record accepted. -/
def Batch.none_ : Batch := { accepted := 0, first := none, clamps := 0 }

/-- Whether the load of a package is in progress (R9, R14). -/
def State.loading (s : State) (id : Nat) : Bool := s.load.any fun l => decide (l.pkg = id)

/-- CUE_APPEND (R9). R9 gives the four values for a batch whose records are taken; a refusal of the whole batch carries the result code alone
(R171). -/
def cueAppendAction (id : Nat) (rs : List RawRecord) (s : State) : Done :=
  match s.package id with
  | none => refused s .noSuch
  | some p =>
    if p.state ≠ .filling ∨ s.loading id = false then refused s .state
    else if rs.length = 0 ∨ 16 < rs.length then refused s .range
    else
      let r := appendBatch id rs s .none_
      appendReply r.1 r.2.1 r.2.2

/-- CUE_APPEND. -/
def execCueAppend (tag : Byte) (body : List Byte) (s : State) : Host.Outcome State Fault Refusal :=
  .next <| s.take 0x11 tag false <|
    match body with
    | id :: recs => (rawRecords recs.length recs).map (cueAppendAction id.toNat)
    | [] => none

/-! ## PACKAGE_SEAL (R14) -/

/-- The pages a seal needs (R14). -/
def Load.sealNeeds (l : Load) : Nat :=
  (if l.staging = [] then 0 else 1) + (allText.map fun t => indexPages (l.index.get t).length).sum + 1

/-- The unprogrammed pages left in the last block (R14). -/
def State.pagesLeft (s : State) (p : Package) : Nat := Config.pagesPerBlock - s.pagesUsed p.lastBlock

/-- The room of a seal: the pages left in the last block, and 64 for each blank block that could join (R14). -/
def State.sealRoom (s : State) (p : Package) : Nat := s.pagesLeft p + 64 * min s.pool.length (64 - p.blocks.length)

/-- The blank blocks a seal takes at once, lowest-numbered first (R14). -/
def State.sealBlocks (s : State) (p : Package) (l : Load) : List Nat :=
  s.pool.take ((l.sealNeeds - s.pagesLeft p + 63) / 64)

/-- PACKAGE_SEAL (R14). The seal takes over the load, so that a PACKAGE_OPEN accepted during it begins a load of its own (R6 c, R15). -/
def packageSealAction (id : Nat) (s : State) : Done :=
  match s.package id with
  | none => refused s .noSuch
  | some p =>
    match s.load with
    | some l =>
      if p.state ≠ .filling ∨ l.pkg ≠ id then refused s .state
      else if s.swi then refused s .guarded
      else if s.slot.isSome then refused s .busy
      else if s.sealRoom p < l.sealNeeds then refused s .full
      else
        let bs := s.sealBlocks p l
        let s := bs.foldl (fun s b => s.claim b .package id) s
        let s := s.modPackage id fun p => { p with state := .sealing, blocks := p.blocks ++ bs }
        let s := { s.setOp (.sealing id 0 l) with load := none }
        done (s.sealStep id 0 l) .accepted []
    | none => refused s .state

/-- PACKAGE_SEAL. -/
def execPackageSeal (tag : Byte) (body : List Byte) (s : State) : Host.Outcome State Fault Refusal :=
  .next <| s.take 0x12 tag false <|
    match body with
    | [id] => some (packageSealAction id.toNat)
    | _ => none

/-! ## CUE_AMEND and CUE_READ (R17, R19) -/

/-- Whether no amend page can be had: a full or marked amend block, or none and an empty pool (R17 h). -/
def State.noAmendPage (s : State) (p : Package) : Bool :=
  match p.amend with
  | some b => decide (s.pagesUsed b = Config.pagesPerBlock)
  | none => decide (s.pool = [])

/-- CUE_AMEND (R17, R36). -/
def cueAmendAction (id track : Nat) (cue : Nat) (text : Option CueText) (s : State) : Done :=
  match s.package id with
  | none => refused s .noSuch
  | some p =>
    if p.state ≠ .ready then refused s .state
    else if p.protection ≠ .unprotected then refused s .guarded
    else if h : track < p.textCount ∧ track < 4 then
      match text with
      | none => refused s .range
      | some x =>
        let t : TextTrack := ⟨track, h.2⟩
        if p.cues t ≤ cue then refused s .noSuch
        else if s.swi then refused s .guarded
        else if s.slot.isSome then refused s .busy
        else if s.noAmendPage p then refused s .full
        else
          let block := match p.amend with | some b => b | none => s.lowestBlank.getD 0
          let s := if p.amend.isNone then s.claim block .amend id else s
          let op := HostOp.amend id t cue x.placement x.speaker x.lines block p.amend.isNone (.readIndex 0 none)
          done ((s.setOp op).hostRead (.readPosition id (p.indexPosition t 0))) .accepted []
    else refused s .range

/-- CUE_AMEND. -/
def execCueAmend (tag : Byte) (body : List Byte) (s : State) : Host.Outcome State Fault Refusal :=
  .next <| s.take 0x17 tag false <|
    match body with
    | id :: t :: c1 :: c0 :: pl :: sp :: n :: rest =>
      match rawLines n.toNat rest with
      | some (ls, []) => some (cueAmendAction id.toNat t.toNat (be [c1, c0]) (checkedText pl sp ls))
      | _ => none
    | _ => none

/-- CUE_READ (R19): accepted, its reply is withheld. -/
def cueReadAction (id track cue : Nat) (s : State) : Done :=
  match s.package id with
  | none => refused s .noSuch
  | some p =>
    if p.state ≠ .ready then refused s .state
    else if h : track < p.textCount ∧ track < 4 then
      let t : TextTrack := ⟨track, h.2⟩
      if p.cues t ≤ cue then refused s .noSuch
      else if s.slot.isSome then refused s .busy
      else ((s.setOp (.cueRead id t cue (.readIndex 0 none))).hostRead (.readPosition id (p.indexPosition t 0)), none)
    else refused s .range

/-- CUE_READ. -/
def execCueRead (tag : Byte) (body : List Byte) (s : State) : Host.Outcome State Fault Refusal :=
  .next <| s.take 0x18 tag false <|
    match body with
    | [id, t, c1, c0] => some (cueReadAction id.toNat t.toNat (be [c1, c0]))
    | _ => none

/-! ## PACKAGE_PROTECT and PACKAGE_DELETE (R20, R22) -/

/-- PACKAGE_PROTECT (R20). -/
def packageProtectAction (id : Nat) (level : Byte) (s : State) : Done :=
  match s.package id with
  | none => refused s .noSuch
  | some p =>
    match Protection.ofByte level with
    | none => refused s .range
    | some pr =>
      if p.state ≠ .ready then refused s .state
      else if p.protection = .firm ∧ pr ≠ .firm then refused s .guarded
      else done (s.modPackage id fun p => { p with protection := pr }) .ok []

/-- PACKAGE_PROTECT. -/
def execPackageProtect (tag : Byte) (body : List Byte) (s : State) : Host.Outcome State Fault Refusal :=
  .next <| s.take 0x14 tag false <|
    match body with
    | [id, level] => some (packageProtectAction id.toNat level)
    | _ => none

/-- The blocks a delete erases: the block list, then the amend block (R23). -/
def Package.allBlocks (p : Package) : List Nat := p.blocks ++ p.amend.toList

/-- PACKAGE_DELETE (R22). -/
def packageDeleteAction (id : Nat) (s : State) : Done :=
  match s.package id with
  | none => refused s .noSuch
  | some p =>
    if p.state = .sealing ∨ p.state = .deleting then refused s .state
    else if 0 < p.binds then refused s .bound
    else if p.protection ≠ .unprotected then refused s .guarded
    else if s.swi then refused s .guarded
    else if s.slot.isSome then refused s .busy
    else
      let s := { s.setPkgState id .deleting with load := if s.loading id then none else s.load }
      done (s.deleteNext id p.allBlocks 0) .accepted []

/-- PACKAGE_DELETE. -/
def execPackageDelete (tag : Byte) (body : List Byte) (s : State) : Host.Outcome State Fault Refusal :=
  .next <| s.take 0x13 tag false <|
    match body with
    | [id] => some (packageDeleteAction id.toNat)
    | _ => none

/-! ## STORE_RECLAIM (R42) -/

/-- The blocks of a class, in ascending order. -/
def State.ofClass (s : State) (c : BlockClass) : List Nat :=
  (List.range Config.storeBlocks).filter fun b => decide ((s.block b).cls = c)

/-- STORE_RECLAIM (R42). -/
def storeReclaimAction (s : State) : Done :=
  if s.swi then refused s .guarded
  else if s.slot.isSome then refused s .busy
  else done (s.reclaimNext (s.ofClass .unknown) 0 0) .accepted []

/-- STORE_RECLAIM. -/
def execStoreReclaim (tag : Byte) (body : List Byte) (s : State) : Host.Outcome State Fault Refusal :=
  .next <| s.take 0x21 tag false <|
    match body with
    | [] => some storeReclaimAction
    | _ => none

/-! ## Reports (R24, R43) -/

/-- A text track description: its label and kind, as PACKAGE_OPEN lays them out (R170, R171). -/
def TextDesc.bytes (d : TextDesc) : List Byte := d.label ++ u8 d.kind.code

/-- An index location that may be absent. -/
def indexLocBytes (l : Option IndexLoc) : List Byte := present (u16 0 ++ u8 0) (l.map fun l => u16 l.first ++ u8 l.count)

/-- The text tracks for which an entry reports counts and an index location: all four where its descriptions are absent (log entry 22). -/
def Package.reportTracks (p : Package) : List TextTrack :=
  allText.filter fun t => decide (t.val < (p.info.map fun i => i.text.length).getD 4)

/-- Every field of an entry, in the order R2 lists them (R24). Of an entry found ABANDONED, whose track descriptions are absent (R45), the page counts
are those of all four tracks, and the index location is a list of four absent members (log entry 22). -/
def Package.infoBytes (p : Package) : List Byte :=
  u8 p.id ++ present (u8 0) (p.info.map fun i => textBytes i.title) ++ u16 p.serial
    ++ optU8 (p.info.map fun i => i.rate.code) ++ optU32 (p.info.map fun i => i.duration)
    ++ present (u8 0) (p.info.map fun i => listBytes TextDesc.bytes i.text)
    ++ present (u8 0) (p.info.map fun i => listBytes (fun l => l) i.sound)
    ++ u8 p.state.code
    ++ present (u8 0) (p.info.map fun i => listBytes (fun t => u32 (i.cueCounts.get t)) p.reportTracks)
    ++ listBytes (fun t => u16 (p.pageCounts.get t)) p.reportTracks
    ++ listBytes u8 p.blocks
    ++ listBytes (fun t => indexLocBytes (p.indexLoc.get t)) p.reportTracks
    ++ optU8 p.amend ++ u8 p.protection.code ++ u8 p.binds

/-- The summary of an entry (R24). Of an entry found ABANDONED, whose track descriptions are absent (R45), the numbers of tracks are 0,
without a presence byte (log entry 22). -/
def Package.summary (p : Package) : List Byte :=
  u8 p.id ++ u8 p.state.code ++ u16 p.serial ++ optU8 (p.info.map fun i => i.rate.code) ++ u8 p.protection.code ++ u8 p.binds
    ++ u8 p.textCount ++ u8 p.soundCount

/-- PACKAGE_INFO. -/
def execPackageInfo (tag : Byte) (body : List Byte) (s : State) : Host.Outcome State Fault Refusal :=
  .next <| s.take 0x15 tag false <|
    match body with
    | [id] => some fun s =>
      match s.package id.toNat with
      | some p => done s .ok p.infoBytes
      | none => refused s .noSuch
    | _ => none

/-- PACKAGE_LIST. -/
def execPackageList (tag : Byte) (body : List Byte) (s : State) : Host.Outcome State Fault Refusal :=
  .next <| s.take 0x16 tag false <|
    match body with
    | [] => some fun s => done s .ok (listBytes Package.summary s.packages)
    | _ => none

/-- The values of STORE_INFO (R43). -/
def State.storeInfo (s : State) : List Byte :=
  u8 (s.ofClass .blank).length ++ u8 (s.ofClass .package).length ++ u8 (s.ofClass .amend).length
    ++ u8 (s.ofClass .retired).length ++ u8 (s.ofClass .unknown).length
    ++ u8 ((List.range Config.storeBlocks).filter fun b => (s.block b).marked).length
    ++ flag s.slot.isSome ++ optU8 (s.hostOp.map HostOp.code)
    ++ flag ((s.slot.bind (·.waiting)).isSome) ++ flag s.swi

/-- STORE_INFO. -/
def execStoreInfo (tag : Byte) (body : List Byte) (s : State) : Host.Outcome State Fault Refusal :=
  .next <| s.take 0x20 tag false <|
    match body with
    | [] => some fun s => done s .ok s.storeInfo
    | _ => none

end Sys2Proof.Machine
end

