-- ==== Sys2Proof/Machine/Scan.lean ====
section
/-! DEFINITION. The start-up scan: the tag reads, the classification of blocks, the rebuilding of the directory, the page maps and the
block records, the reads of the seal pages, and the end of STARTING (R44 to R46). -/

namespace Sys2Proof.Machine

/-! ## One block on its own (R44) -/

/-- The tag, where it is readable. -/
def TagRead.tag : TagRead → Option PageTag
  | .readable t => some t
  | .erased => none
  | .unreadable => none

/-- Whether a tag read is an unreadable one. -/
def TagRead.bad : TagRead → Bool
  | .unreadable => true
  | .erased => false
  | .readable _ => false

/-- The family of a role: DATA, INDEX and SEAL form one, AMEND another (R44 d); RETIRE belongs to neither. -/
def Role.family : Role → Nat
  | .data => 0 | .index => 0 | .seal => 0 | .amend => 1 | .retire => 2

/-- Whether two tags agree in package id, serial and role family (R44 d). -/
def PageTag.agrees (a b : PageTag) : Bool :=
  decide (a.pkg = b.pkg ∧ a.serial = b.serial ∧ a.role.family = b.role.family)

/-- An unreadable tag followed, in the same block, by a readable one (R44 c). -/
def brokenOrder : List TagRead → Bool
  | [] => false
  | t :: ts => (t.bad && ts.any fun u => u.tag.isSome) || brokenOrder ts

/-- Whether a tag read ends the visit of its block: an erased tag, the last page, or a RETIRE tag on page 0 (R44). -/
def endsBlock (page : Nat) (t : TagRead) : Bool :=
  match t with
  | .erased => true
  | .readable tag => decide (page + 1 = Config.pagesPerBlock) || (decide (page = 0) && decide (tag.role = .retire))
  | .unreadable => decide (page + 1 = Config.pagesPerBlock)

/-- The classification of a block on its own, cases a to e (R44). A block without a readable tag whose page 0 is unreadable is unknown
(log entry 12). -/
def classOf (tags : List TagRead) : ScanClass :=
  match tags with
  | [] => .blank
  | .erased :: _ => .blank
  | first :: _ =>
    if (first.tag.map (·.role)) = some .retire then .retired
    else if brokenOrder tags then .unknown
    else
      match tags.filterMap TagRead.tag with
      | [] => .unknown
      | t :: ts =>
        if ts.all (t.agrees) then
          match t.role with
          | .amend => .amendCandidate
          | .data => .packageCandidate
          | .index => .packageCandidate
          | .seal => .packageCandidate
          | .retire => .unknown
        else .unknown

/-- The programmed pages among the tags read: all but the erased one that ended the visit. -/
def programmedTags (tags : List TagRead) : List TagRead := tags.filter fun t => decide (t ≠ .erased)

/-- Whether the last programmed page of a block is torn (R44). -/
def lastTorn (tags : List TagRead) : Bool := ((programmedTags tags).getLast?.map TagRead.bad).getD false

/-- What the scan makes of a block on its own (R44, R25). -/
def scannedBlock (block : Nat) (tags : List TagRead) : ScanBlock :=
  let cls := classOf tags
  { block := block, cls := cls
    marked := (decide (cls = .packageCandidate) || decide (cls = .amendCandidate)) && lastTorn tags
    nextPage := (programmedTags tags).length, tags := tags }

/-! ## Groups and entries (R45) -/

/-- The readable tags of a block with their page numbers. -/
def ScanBlock.pages (b : ScanBlock) : List (Nat × PageTag) :=
  (b.tags.zipIdx).filterMap fun p => p.1.tag.map fun t => (p.2, t)

/-- The first readable tag of a block: its package id and serial are the block's (R44 d). -/
def ScanBlock.first (b : ScanBlock) : Option PageTag := (b.tags.filterMap TagRead.tag).head?

/-- Whether a block belongs to a package id and serial. -/
def ScanBlock.belongs (b : ScanBlock) (id serial : Nat) : Bool :=
  match b.first with
  | some t => decide (t.pkg = id ∧ t.serial = serial)
  | none => false

/-- The blocks of a group: the package block candidates of an id and serial, in ascending order. -/
def groupBlocks (found : List ScanBlock) (id serial : Nat) : List ScanBlock :=
  found.filter fun b => decide (b.cls = .packageCandidate) && b.belongs id serial

/-- The serials of the groups of a package id, each once. -/
def groupSerials (found : List ScanBlock) (id : Nat) : List Nat :=
  ((found.filter fun b => decide (b.cls = .packageCandidate)).filterMap fun b =>
    b.first.bind fun t => if t.pkg = id then some t.serial else none).eraseDups

/-- Whether a group holds a readable SEAL tag. -/
def groupSealed (found : List ScanBlock) (id serial : Nat) : Bool :=
  (groupBlocks found id serial).any fun b => b.pages.any fun p => decide (p.2.role = .seal)

/-- The highest of a list of serials. -/
def highestSerial (ss : List Nat) : Option Nat := ss.foldl (fun acc x => some (match acc with | some a => max a x | none => x)) none

/-- The group taken for a package id: the only one with a readable SEAL tag, or the one with the highest serial (R45 item 1). -/
def chosenSerial (found : List ScanBlock) (id : Nat) : Option Nat :=
  let ss := groupSerials found id
  match ss.filter (groupSealed found id) with
  | [s] => some s
  | _ => highestSerial ss

/-- The logical number of a block's first DATA page; above every logical number where it holds none. -/
def ScanBlock.orderKey (b : ScanBlock) : Nat :=
  ((b.pages.find? fun p => decide (p.2.role = .data)).map fun p => p.2.logical).getD 65536

/-- A block at its place by its first DATA page; after the blocks of an equal key. -/
def insertByKey (b : ScanBlock) : List ScanBlock → List ScanBlock
  | [] => [b]
  | c :: cs => if b.orderKey < c.orderKey then b :: c :: cs else c :: insertByKey b cs

/-- The block list of a group (R45 item 2). -/
def orderedGroup (found : List ScanBlock) (id serial : Nat) : List ScanBlock :=
  (groupBlocks found id serial).foldl (fun acc b => insertByKey b acc) []

/-- The pages of a group by position along its block list (R29). -/
def positionedPages (group : List ScanBlock) : List (Nat × PageTag) :=
  (group.zipIdx).flatMap fun g => g.1.pages.map fun p => (pageAddr g.2 p.1, p.2)

/-- The index location of a track: the position of its INDEX page of the lowest ordinal, and how many INDEX pages it has. -/
def scannedIndexLoc (pages : List (Nat × PageTag)) (t : Nat) : Option IndexLoc :=
  let mine := pages.filter fun p => decide (p.2.role = .index ∧ p.2.track = t)
  (mine.foldl (fun (acc : Option (Nat × PageTag)) p =>
      match acc with
      | some q => if p.2.logical < q.2.logical then some p else some q
      | none => some p) none).map
    fun p => { first := p.1, count := mine.length }

/-- The index locations of a package (R45 item 2). -/
def scannedIndexLocs (pages : List (Nat × PageTag)) : Vector (Option IndexLoc) 4 := Vector.ofFn fun t => scannedIndexLoc pages t.val

/-- The page counts of an ABANDONED package: its DATA tags, track by track (R45 item 2). -/
def scannedPageCounts (pages : List (Nat × PageTag)) : Vector Nat 4 :=
  Vector.ofFn fun t => (pages.filter fun p => decide (p.2.role = .data ∧ p.2.track = t.val)).length

/-- The generation on the last readable page of an amend block. -/
def ScanBlock.lastGeneration (b : ScanBlock) : Nat := ((b.tags.filterMap TagRead.tag).getLast?.map (·.generation)).getD 0

/-- The amend block of a package: of the matching candidates the one of the higher last generation, then the lower block
number (R45 item 3). -/
def chosenAmend (found : List ScanBlock) (id serial : Nat) : Option ScanBlock :=
  (found.filter fun b => decide (b.cls = .amendCandidate) && b.belongs id serial).foldl
    (fun (acc : Option ScanBlock) b =>
      match acc with
      | some a => if a.lastGeneration < b.lastGeneration then some b else some a
      | none => some b) none

/-- The page map of an amend block (R46): the highest generation of a logical page, then the higher page number. -/
def scannedMap (b : ScanBlock) : List MapEntry :=
  b.pages.foldl (fun m p =>
    match m.find? fun e => e.logical = p.2.logical with
    | some e =>
      if e.generation ≤ p.2.generation then mapPut { logical := p.2.logical, page := p.1, generation := p.2.generation } m else m
    | none => mapPut { logical := p.2.logical, page := p.1, generation := p.2.generation } m) []

/-- The entry of a group taken, before its seal page is read: ABANDONED (R45 items 2 to 4). -/
def scannedPackage (found : List ScanBlock) (id serial : Nat) : Package :=
  let group := orderedGroup found id serial
  let amend := chosenAmend found id serial
  { id := id, serial := serial, state := .abandoned, info := none, pageCounts := scannedPageCounts (positionedPages group)
    blocks := group.map (·.block), indexLoc := Vector.replicate 4 none, amend := amend.map (·.block), protection := .unprotected
    binds := 0, map := (amend.map scannedMap).getD [] }

/-- The packages of the store, in ascending id. -/
def scannedPackages (found : List ScanBlock) : List Package :=
  (List.range Config.packageIds).filterMap fun id => (chosenSerial found id).map (scannedPackage found id)

/-- The seal pages to be read, in ascending package id: of each package the first readable SEAL page along its block list. -/
def sealsToRead (found : List ScanBlock) (ps : List Package) : List SealRead :=
  ps.filterMap fun p =>
    ((positionedPages (orderedGroup found p.id p.serial)).find? fun x => decide (x.2.role = .seal)).bind fun x =>
      (p.blocks[x.1 / Config.pagesPerBlock]?).map fun b => { pkg := p.id, block := b, page := x.1 % Config.pagesPerBlock }

/-- The record of a block after the scan (R25, R27, R45): the mark stays only where the class keeps it. -/
def scannedRecord (ps : List Package) (b : ScanBlock) : BlockRec :=
  match ps.find? fun p => p.blocks.contains b.block with
  | some p => { cls := .package, owner := some p.id, nextPage := b.nextPage, marked := b.marked }
  | none =>
    match ps.find? fun p => decide (p.amend = some b.block) with
    | some p => { cls := .amend, owner := some p.id, nextPage := b.nextPage, marked := b.marked }
    | none =>
      { cls := match b.cls with
          | .blank => .blank
          | .retired => .retired
          | .unknown => .unknown
          | .packageCandidate => .unknown
          | .amendCandidate => .unknown
        owner := none, nextPage := b.nextPage, marked := false }

/-- The highest serial in a page tag of a package or amend block; 65,535 where there is none (R4). -/
def scannedSerial (ps : List Package) : Nat := (highestSerial (ps.map (·.serial))).getD 65535

/-- The groups are resolved: block records and serial high-water take what was found (R45, R4). The entries wait in the scan (R164). -/
def State.resolved (s : State) (found : List ScanBlock) : State :=
  let ps := scannedPackages found
  { s with serialHigh := scannedSerial ps
           blocks := found.foldl (fun v b => v.setIfInBounds b.block (scannedRecord ps b)) s.blocks }

/-! ## The steps of the scan -/

/-- A request of the scan. -/
def scanRequest (op : StoreOp) : Request :=
  { who := .scan, op := op, kind := .fetch, need := 0, bindGen := 0, seekCount := 0 }

/-- The detail of START_DONE (R46). -/
def State.startDetail (s : State) : List Byte :=
  u8 (s.packages.filter fun p => decide (p.state = .ready)).length
    ++ u8 (s.packages.filter fun p => decide (p.state = .abandoned)).length
    ++ u8 (s.ofClass .blank).length ++ u8 (s.ofClass .retired).length ++ u8 (s.ofClass .unknown).length
    ++ u8 ((List.range Config.storeBlocks).filter fun b => (s.block b).marked).length

/-- The scan goes on with the next seal page, or ends: its entries become the directory, the phase becomes RUNNING and START_DONE is
raised (R46, R164). -/
def State.scanSeals (s : State) (sc : Scan) : State :=
  match sc.seals with
  | r :: _ => { s with scan := some sc }.request (scanRequest (.readSeal r.block r.page))
  | [] =>
    let s := { s with scan := none, phase := .running, packages := sc.dir }
    s.raise .part .startDone s.startDetail

/-- A tag read of the scan completes (R44). -/
def State.scanTag (s : State) (sc : Scan) (block page : Nat) (damaged : Bool) : State :=
  let t := readTag s.flash (pageAddr block page) damaged
  let tags := sc.tags ++ [t]
  if endsBlock page t then
    let found := sc.found ++ [scannedBlock block tags]
    let sc := { sc with visited := sc.visited + 1, tags := [], found := found }
    if block + 1 < Config.storeBlocks then
      { s with scan := some sc }.request (scanRequest (.readTag (block + 1) 0))
    else
      let ps := scannedPackages found
      (s.resolved found).scanSeals { sc with seals := sealsToRead found ps, dir := ps }
  else { s with scan := some { sc with tags := tags } }.request (scanRequest (.readTag block (page + 1)))

/-- SCAN_TAG_READ_DONE. -/
def execScanTagReadDone (damaged : Bool) (s : State) : Host.Outcome State Fault Refusal :=
  .next <|
    match s.flight, s.scan with
    | some f, some sc =>
      match f.req.who, f.req.op with
      | .scan, .readTag block page => s.complete fun s => s.scanTag sc block page damaged
      | _, _ => s
    | _, _ => s

/-- A package whose seal page was read becomes READY with the fields of the page (R45 item 2). -/
def sealedPackage (found : List ScanBlock) (info : PkgInfo) (counts : Vector Nat 4) (p : Package) : Package :=
  { p with state := .ready, info := some info, pageCounts := counts
           indexLoc := scannedIndexLocs (positionedPages (orderedGroup found p.id p.serial)) }

/-- A seal page read of the scan completes; a lost page leaves its package ABANDONED (R34, R45 item 2). -/
def State.scanSeal (s : State) (f : Flight) (sc : Scan) (errs : Nat) : State :=
  let s := s.graded f errs
  match sc.seals with
  | r :: rest =>
    let dir := match readable errs, readSealed s.flash f.addr with
      | true, some (info, counts) => sc.dir.map fun p => if p.id = r.pkg then sealedPackage sc.found info counts p else p
      | _, _ => sc.dir
    s.scanSeals { sc with seals := rest, dir := dir }
  | [] => s.scanSeals sc

/-- SCAN_SEAL_READ_DONE. -/
def execScanSealReadDone (errs : Nat) (s : State) : Host.Outcome State Fault Refusal :=
  .next <|
    match s.flight, s.scan with
    | some f, some sc =>
      match f.req.who, f.req.op with
      | .scan, .readSeal _ _ => s.complete fun s => s.scanSeal f sc errs
      | _, _ => s
    | _, _ => s

end Sys2Proof.Machine
end

