-- ==== Sys2Proof/Machine/Reset.lean ====
section
/-! DEFINITION. The three resets: power-on, RESET line and part reset (R159, R169 and the reset tables of every chapter). -/

namespace Sys2Proof.Machine

/-! ## Power-on reset and line reset (R159, R30) -/

/-- The link selection of a strap: low selects SPI, high the UART (R159). -/
def strapped (linksel : Bool) : LinkSel := if linksel then .uart else .spi

/-- The operation in flight is cut off: the page of a program or the block of an erase is left torn (R30, log entry 5). -/
def State.cutOff (s : State) : State :=
  match s.flight with
  | some f =>
    match f.req.op with
    | .program block page => { s with flash := flashPut (pageAddr block page) (.torn s.free) s.flash, free := s.free + 1 }
    | .erase block => { s with flash := flashTear block s.free s.flash, free := s.free + Config.pagesPerBlock }
    | _ => s
  | none => s

/-- A debouncer after a reset: its line keeps its level (R57). -/
def Debouncer.restarted (d : Debouncer) : Debouncer := { Debouncer.reset with level := d.level }

/-- An input unit after a reset: its lines keep their levels (R62). -/
def InputUnit.restarted (u : InputUnit) : InputUnit :=
  { InputUnit.reset with fp := u.fp, auxA := u.auxA.restarted, auxB := u.auxB.restarted }

/-- An auditorium after a power-on reset or a line reset. -/
def Auditorium.hardReset (n : Nat) (a : Auditorium) : Auditorium :=
  { Auditorium.reset n with input := a.input.restarted, emit := { Emitter.reset with oc := a.emit.oc } }

/-- A power-on reset or a line reset: every field as State.reset has it, but for the flash, which keeps its pages, the input lines,
which keep their levels, LINKSEL, which is sampled, and the model's own counter and queue of commands. -/
def State.hardReset (linksel : Bool) (s : State) : State :=
  let s := s.cutOff
  { State.reset with
    linkSel := strapped linksel, flash := s.flash, swi := s.swi, shold := s.shold.restarted
    auds := Vector.ofFn fun n => (s.aud n).hardReset n.val, free := s.free, pending := s.pending }

/-- POWER_ON_RESET. -/
def execPowerOnReset (linksel : Bool) (s : State) : Host.Outcome State Fault Refusal := .next (s.hardReset linksel)

/-- LINE_RESET. -/
def execLineReset (linksel : Bool) (s : State) : Host.Outcome State Fault Refusal := .next (s.hardReset linksel)

/-! ## Part reset (R169) -/

/-- An air scheduler after a part reset: its settings are kept (R148). -/
def AirSched.partReset (n : Nat) (a : AirSched) : AirSched := { AirSched.reset n with current := a.current, staged := a.staged }

/-- An emitter unit after a part reset: SLEEPING unless DISABLED, its line settings kept (R158). -/
def Emitter.partReset (u : Emitter) : Emitter :=
  { Emitter.reset with
    state := if u.state = .disabled then .disabled else .sleeping, current := u.current, staged := u.staged, oc := u.oc }

/-- An auditorium after a part reset: the bind generation is kept (R88, R112, R126). -/
def Auditorium.partReset (n : Nat) (a : Auditorium) : Auditorium :=
  { input := a.input.restarted, ctx := { ShowCtx.reset with bindGen := a.ctx.bindGen }, text := Vector.replicate 4 .reset
    sound := Vector.replicate 2 .reset, air := a.air.partReset n, emit := a.emit.partReset }

/-- Whether a load page program is in flight. -/
def State.loadInFlight (s : State) : Bool :=
  s.hostProgram.isSome && (match s.hostOp with | some (.loadPage _) => true | _ => false)

/-- The load of a package in FILLING is closed; the package becomes ABANDONED at once unless its load page program is in flight (R16). -/
def State.closeLoad (s : State) : State :=
  match s.load with
  | some l =>
    if (s.package l.pkg).any fun p => decide (p.state = .filling) then
      let s := { s with load := none }
      if s.loadInFlight then s else s.setPkgState l.pkg .abandoned
    else s
  | none => s

/-- The slot is emptied, but for a seal, an amendment, a delete, a reclaim, and a load page program in flight (R5). -/
def State.closeSlot (s : State) : State :=
  match s.hostOp with
  | some (.loadPage _) => if s.loadInFlight then s else s.endOp.withdraw .host
  | some (.cueRead _ _ _ _) => s.endOp.withdraw .host
  | _ => s

/-- Whether a request stays in the queue through a part reset: no request of a track engine or a bind does (R30). -/
def Requester.kept : Requester → Bool
  | .engine _ _ => false
  | .bind _ => false
  | .host => true
  | .scan => true

/-- A part reset lowers SOFT to NONE and keeps FIRM (R20), and leaves every bind count at 0 (R21). -/
def Package.partReset (p : Package) : Package :=
  { p with protection := if p.protection = .soft then .unprotected else p.protection, binds := 0 }

/-- The effect of a part reset (R169). -/
def State.partReset (s : State) : State :=
  let s := s.closeLoad.closeSlot
  { s with
    packages := s.packages.map Package.partReset, queue := s.queue.filter fun r => r.who.kept
    auds := Vector.ofFn fun n => (s.aud n).partReset n.val, shold := s.shold.restarted
    announces := 0, notices := [], attn := false }

/-- PART_RESET: the reply is placed first, and survives (R169). -/
def execPartReset (tag : Byte) (body : List Byte) (s : State) : Host.Outcome State Fault Refusal :=
  .next <| s.take 0x05 tag false <|
    match body with
    | [] => some fun s => done s.partReset .ok []
    | _ => none

end Sys2Proof.Machine
end

