-- ==== Sys2Proof/Machine/Link.lean ====
section
/-! DEFINITION. The control link's own commands and events: PART_INFO, LINK_STATUS, the notices, frame errors and unknown kinds, the
collect transfer of the SPI and the timeout and the transmitter of the UART (R160 to R168). The reception of bytes stands in
Machine/Receive.lean. -/

namespace Sys2Proof.Machine

/-! ## PART_INFO and LINK_STATUS (R165) -/

/-- The values of PART_INFO. -/
def State.partInfo (s : State) : List Byte :=
  u16 Config.partCode ++ [Config.revision] ++ u8 s.linkSel.code ++ u8 s.phase.code ++ optU8 (s.scan.map (·.visited))
    ++ u8 Config.auditoriums ++ u8 Config.textTracks ++ u8 Config.soundTracks ++ u8 Config.packageIds ++ u8 Config.storeBlocks

/-- PART_INFO. -/
def execPartInfo (tag : Byte) (body : List Byte) (s : State) : Host.Outcome State Fault Refusal :=
  .next <| s.take 0x01 tag true <|
    match body with
    | [] => some fun s => done s .ok s.partInfo
    | _ => none

/-- The values of LINK_STATUS. -/
def State.linkStatus (s : State) : List Byte :=
  u8 s.phase.code ++ u8 s.threshold.code ++ flag s.attn ++ u8 (s.notices.filter fun x => x.kind.isAlert).length
    ++ u8 (s.notices.filter fun x => !x.kind.isAlert).length

/-- LINK_STATUS. -/
def execLinkStatus (tag : Byte) (body : List Byte) (s : State) : Host.Outcome State Fault Refusal :=
  .next <| s.take 0x02 tag true <|
    match body with
    | [] => some fun s => done s .ok s.linkStatus
    | _ => none

/-! ## Notices (R167, R168) -/

/-- The most entries of one TAKE_NOTICES. -/
def noticesPerTake : Nat := 16

/-- TAKE_NOTICES (R167): the set is held in taking order. -/
def takeNoticesAction (s : State) : Done :=
  let rest := s.notices.drop noticesPerTake
  done (s.withNotices rest) .ok (listBytes Notice.bytes (s.notices.take noticesPerTake) ++ u8 rest.length)

/-- TAKE_NOTICES. -/
def execTakeNotices (tag : Byte) (body : List Byte) (s : State) : Host.Outcome State Fault Refusal :=
  .next <| s.take 0x03 tag false <|
    match body with
    | [] => some takeNoticesAction
    | _ => none

/-- NOTICE_SET (R168). -/
def noticeSetAction (b : Byte) (s : State) : Done :=
  match Threshold.ofByte b with
  | some th =>
    let s := { s with threshold := th }.withNotices s.notices
    done s .ok (flag s.attn)
  | none => refused s .range

/-- NOTICE_SET. -/
def execNoticeSet (tag : Byte) (body : List Byte) (s : State) : Host.Outcome State Fault Refusal :=
  .next <| s.take 0x04 tag false <|
    match body with
    | [b] => some (noticeSetAction b)
    | _ => none

/-! ## Frames that are not executed (R162 a to c) -/

/-- FRAME_ERROR. -/
def execFrameError (s : State) : Host.Outcome State Fault Refusal := .next s.frameError

/-- UNKNOWN_KIND: an owed reply is met first, by LINK_BUSY (R162 b, c). -/
def execUnknownKind (kind tag : Byte) (s : State) : Host.Outcome State Fault Refusal :=
  let s := { s with framer := .hunting }
  .next (s.refuse { kind := replyKind kind, tag := tag, code := if s.replyBuf.owed then .linkBusy else .unknownKind, vals := [] })

/-! ## SPI transfers (R160) -/

/-- A collect transfer of `n` bytes: the refusal slot before the reply buffer; a reply clocked out to its end is removed (R160 b). For bytes that
the host clocks on after the last CRC byte the model puts none (log entry 6). -/
def State.collect (s : State) (n : Nat) : State :=
  match s.refusal, s.replyBuf with
  | some r, _ => { s with linkOut := r.frame.take n, refusal := if r.frame.length ≤ n then none else some r }
  | none, .ready r => { s with linkOut := r.frame.take n, replyBuf := if r.frame.length ≤ n then .empty else .ready r }
  | none, _ => { s with linkOut := List.replicate n 0#8 }

/-- COLLECT_REPLY: with the UART selected the SPI lines are not sampled (R159). -/
def execCollectReply (n : Nat) (s : State) : Host.Outcome State Fault Refusal :=
  .next (match s.linkSel with | .spi => s.collect n | .uart => s)

/-! ## The UART (R161) -/

/-- UART_FRAME_TIMEOUT: a frame in reception ends as a frame error. -/
def execUartFrameTimeout (s : State) : Host.Outcome State Fault Refusal :=
  .next (match s.linkSel, s.framer with
    | .uart, .receiving _ _ => s.frameError
    | _, _ => s)

/-- The reply in transmission has left the transmitter; the other holder's reply follows, if it has one (R161). -/
def State.replySent (s : State) : State :=
  match s.uartTx with
  | some .slot =>
    let s := { s with refusal := none, uartTx := none }
    match s.replyBuf with
    | .ready _ => s.startTx .buffer
    | _ => s
  | some .buffer =>
    let s := { s with replyBuf := .empty, uartTx := none }
    match s.refusal with
    | some _ => s.startTx .slot
    | none => s
  | none => s

/-- REPLY_SENT. -/
def execReplySent (s : State) : Host.Outcome State Fault Refusal := .next s.replySent

end Sys2Proof.Machine
end

