-- ==== Sys2Proof/Machine/Status.lean ====
section
/-! DEFINITION. SHOW_STATUS: the values that the show context and the blocks of its auditorium supply to the reply (R62, R87, R111, R125,
R148, R158). -/

namespace Sys2Proof.Machine

/-- The values of the show context (R87), for a sampled position and the serial of the bound package. -/
def ShowCtx.statusBytes (x : ShowCtx) (serial : Option Nat) (p : Nat) : List Byte :=
  u8 x.st.code ++ optU8 x.pkg ++ optU16 serial ++ optU8 (x.rate.map RateClass.code)
    ++ optU32 (if x.pkg.isSome then some x.duration else none)
    ++ u32 x.c ++ u32 p ++ u8 x.adv ++ s32 x.k ++ u8 x.coast ++ u8 x.acquire ++ u8 x.bindGen
    ++ u8 x.coastLimit ++ u8 x.slewWindow ++ u8 x.coastLimitStaged ++ u8 x.slewWindowStaged
    ++ x.text.toList.flatMap TrackSetting.bytes ++ x.sound.toList.flatMap TrackSetting.bytes

/-- The values of the input unit (R62), with the taken level of SHOLD. -/
def InputUnit.statusBytes (u : InputUnit) (shold : Taken) : List Byte :=
  u8 u.wCurrent ++ u8 u.wStaged ++ u8 u.filter.code ++ u16 u.candidates ++ u8 u.ref.code ++ u32 u.e ++ u16 u.pm
    ++ u32 u.lastInterval ++ u8 u.mismatchRun ++ flag u.armed ++ u8 u.auxA.taken.code ++ u8 u.auxB.taken.code ++ u8 shold.code
    ++ u.gateTable.toList.flatMap (fun g => u8 g.code) ++ u8 u.gate.code

/-- The values of a track engine (R111). -/
def TrackEngine.statusBytes (e : TrackEngine) : List Byte :=
  u8 e.state.code ++ u32 e.cursor ++ optU32 e.cursorStart ++ listBytes (fun c => u16 c.number) e.look
    ++ listBytes (fun c => u16 c.number) e.active ++ u8 e.seekCount ++ flag e.out.isSome ++ flag e.starved ++ u8 e.starveCount
    ++ u16 e.missed

/-- The values of a playout engine (R125): the queue is held in ascending stamp. -/
def Playout.statusBytes (e : Playout) : List Byte :=
  u8 e.state.code ++ flag e.enabled ++ u8 e.lead ++ optS32 e.z ++ u8 e.queue.length ++ optU32 (e.queue.head?.map (·.stamp))
    ++ optU32 (e.queue.getLast?.map (·.stamp)) ++ u16 e.served ++ u16 e.gaps ++ u16 e.discarded ++ u8 e.skips

/-- The last gate read: OPEN, CLOSED or none (R127). -/
def lastGateCode (g : Option Gate) : Nat := (g.map Gate.code).getD 2

/-- The announcement slot's values: while ACTIVE its interval, countdown and life, an unlimited life as 0 (R148). -/
def AnnSlot.statusBytes (a : AnnSlot) : List Byte :=
  u8 a.code ++ (match a with
    | .active _ interval countdown life _ => optU8 (some interval) ++ optU8 (some countdown) ++ optU16 (some (life.getD 0))
    | .empty => optU8 none ++ optU8 none ++ optU16 none
    | .ending => optU8 none ++ optU8 none ++ optU16 none)

/-- The values of the air scheduler (R148). -/
def AirSched.statusBytes (a : AirSched) : List Byte :=
  a.current.bytes ++ a.staged.bytes ++ u16 a.current.rate.budget ++ u8 a.sequence ++ u16 a.built ++ u16 a.lastSize
    ++ u8 a.pend.length ++ optU8 (a.pend.head?.map Event.code) ++ optU8 (a.pend.head?.bind Event.track) ++ u8 a.carousel.val
    ++ a.ann.statusBytes ++ u8 a.beacon ++ u8 (lastGateCode a.lastGate) ++ u8 a.overflows

/-- The values of the emitter unit (R158). -/
def Emitter.statusBytes (u : Emitter) : List Byte :=
  u8 u.state.code ++ u.current.bytes ++ u.staged.bytes ++ flag u.demand ++ flag u.tx.isSome ++ u8 u.retry ++ u16 u.clean
    ++ u32 u.cooling ++ u16 u.sent ++ u16 u.dropped ++ optU8 u.lastFault ++ flag u.oc

/-- The values of SHOW_STATUS for an auditorium, as they stand (R87). -/
def State.showStatus (s : State) (n : Aud) : List Byte :=
  let a := s.aud n
  a.ctx.statusBytes ((a.ctx.pkg.bind s.package).map (·.serial)) (s.position n) ++ a.input.statusBytes s.shold.taken
    ++ a.text.toList.flatMap TrackEngine.statusBytes ++ a.sound.toList.flatMap Playout.statusBytes ++ a.air.statusBytes
    ++ a.emit.statusBytes

/-- SHOW_STATUS (R87): P is computed first, which may finish the show. -/
def showStatusAction (aud : Byte) (s : State) : Done :=
  match audOf aud with
  | some n =>
    let s := (s.sample n).1
    done s .ok (s.showStatus n)
  | none => refused s .range

/-- SHOW_STATUS. -/
def execShowStatus (tag : Byte) (body : List Byte) (s : State) : Host.Outcome State Fault Refusal :=
  .next <| s.take 0x37 tag false <|
    match body with
    | [a] => some (showStatusAction a)
    | _ => none

end Sys2Proof.Machine
end

