-- ==== Sys2Proof/Machine/Tick.lean ====
section
/-! DEFINITION. The passing of one measure count: what the part does while no command waits (log entry 2). Every counter that runs of
itself advances, and the events whose counts are reached follow, in a fixed order. -/

namespace Sys2Proof.Machine

/-! ## The counters -/

/-- The steady count of a debouncer (R57). -/
def Debouncer.count (d : Debouncer) : Debouncer := { d with steady := satAdd debounceCounts d.steady 1 }

/-- The elapsed count, while a reference is held (R49), the qualifying count (R47) and the steady counts (R57). -/
def InputUnit.count (u : InputUnit) : InputUnit :=
  { u with
    e := if u.ref = .absent then u.e else satAdd maxElapsed u.e 1
    qualCount := if u.filter = .qualifying then satAdd u.qualLength u.qualCount 1 else u.qualCount
    auxA := u.auxA.count, auxB := u.auxB.count }

/-- The reference counts of a measure count (Introduction, section 4). -/
def referencePerMeasure : Nat := 10

/-- The progress of a transmission (R151). -/
def Transmission.count (t : Transmission) : Transmission := { t with progress := t.progress + referencePerMeasure }

/-- The cooling timer and the transmission in progress (R151, R154). -/
def Emitter.count (u : Emitter) : Emitter :=
  { u with cooling := if u.state = .cooling then u.cooling - 1 else u.cooling, tx := u.tx.map Transmission.count }

/-- The counters of an auditorium. -/
def Auditorium.count (a : Auditorium) : Auditorium :=
  { a with input := a.input.count, air := { a.air with timer := a.air.timer - 1 }, emit := a.emit.count }

/-- The gap between bytes of a frame in reception (R161). -/
def Framer.count : Framer → Framer
  | .hunting => .hunting
  | .receiving bytes gap => .receiving bytes (gap + 1)

/-- Every counter of the part. -/
def State.count (s : State) : State :=
  { s with auds := s.auds.map Auditorium.count, shold := s.shold.count, framer := s.framer.count }

/-! ## The events that fall due -/

/-- Whether a debouncer takes its line: 12,000 steady counts, and a taken level that is UNSETTLED or different (R57). -/
def Debouncer.due (d : Debouncer) : Bool :=
  decide (d.steady = debounceCounts) && decide (d.taken ≠ (if d.level then .active else .inactive))

/-- Whether a transmission has sent its last bit (R151). -/
def Emitter.sentAll (u : Emitter) : Bool := u.tx.any fun t => decide (t.counts ≤ t.progress)

/-- Whether the qualifying count has reached the filter length (R47). -/
def InputUnit.qualified (u : InputUnit) : Bool := decide (u.filter = .qualifying ∧ u.qualLength ≤ u.qualCount)

/-- Whether the missing-pulse deadline falls (R54). -/
def InputUnit.missed (u : InputUnit) : Bool := decide (u.ref ≠ .absent ∧ u.e = u.deadline)

/-- An event acts where its condition stands. -/
def State.when_ (s : State) (c : Bool) (f : State → State) : State := if c then f s else s

/-- The events of an auditorium that fall due, each judged by the state that the ones before it left (log entry 2). -/
def State.dueOf (s : State) (n : Aud) : State :=
  let s := s.when_ (s.aud n).emit.sentAll fun s => s.endTransmission n
  let s := s.when_ (s.aud n).input.qualified fun s => s.qualify n
  let s := s.when_ (s.aud n).input.auxA.due fun s => s.settle (.auxA n)
  let s := s.when_ (s.aud n).input.auxB.due fun s => s.settle (.auxB n)
  let s := s.when_ (s.aud n).input.missed fun s => s.missDeadline n
  let s := s.when_ (decide ((s.aud n).emit.state = .cooling ∧ (s.aud n).emit.cooling = 0)) fun s => s.endCooling n
  s.when_ (decide ((s.aud n).air.timer = 0)) fun s => s.expire n

/-- The measure counts without a byte that end a frame in reception: 2 ms (R161). -/
def frameGap : Nat := 2400

/-- Whether the frame in reception has timed out (R161). -/
def State.timedOut (s : State) : Bool :=
  match s.linkSel, s.framer with
  | .uart, .receiving _ gap => decide (frameGap ≤ gap)
  | _, _ => false

/-- One measure count passes. -/
def State.tick (s : State) : State :=
  let s := s.count
  let s := s.when_ s.timedOut State.frameError
  let s := s.when_ s.shold.due fun s => s.settle .shold
  allAuds.foldl (fun s n => s.dueOf n) s

end Sys2Proof.Machine
end

