-- ==== Sys2Proof/Machine/Receive.lean ====
section
/-! DEFINITION. The receive framer: the bytes of the UART, the SPI transfers by their code, and the command that the bytes of a frame
make (R160 to R162). -/

namespace Sys2Proof.Machine

/-! ## The command of a frame -/

/-- The command of a kind runs with a frame's tag and body; a kind outside the catalogue is unknown (R162 c, f, R171). -/
def execKind (kind tag : Byte) (body : List Byte) (s : State) : Host.Outcome State Fault Refusal :=
  match kind.toNat with
  | 0x01 => execPartInfo tag body s
  | 0x02 => execLinkStatus tag body s
  | 0x03 => execTakeNotices tag body s
  | 0x04 => execNoticeSet tag body s
  | 0x05 => execPartReset tag body s
  | 0x10 => execPackageOpen tag body s
  | 0x11 => execCueAppend tag body s
  | 0x12 => execPackageSeal tag body s
  | 0x13 => execPackageDelete tag body s
  | 0x14 => execPackageProtect tag body s
  | 0x15 => execPackageInfo tag body s
  | 0x16 => execPackageList tag body s
  | 0x17 => execCueAmend tag body s
  | 0x18 => execCueRead tag body s
  | 0x20 => execStoreInfo tag body s
  | 0x21 => execStoreReclaim tag body s
  | 0x30 => execGateSet tag body s
  | 0x31 => execTimingSet tag body s
  | 0x32 => execShowBind tag body s
  | 0x33 => execShowUnbind tag body s
  | 0x34 => execShowStart tag body s
  | 0x35 => execPositionReport tag body s
  | 0x36 => execTrackSet tag body s
  | 0x37 => execShowStatus tag body s
  | 0x40 => execSoundBlock tag body s
  | 0x41 => execSoundFlush tag body s
  | 0x50 => execAirSet tag body s
  | 0x51 => execAnnounce tag body s
  | 0x52 => execAnnounceCancel tag body s
  | 0x60 => execEmitterSet tag body s
  | _ => execUnknownKind kind tag s

/-- The bytes of a frame go to the tests of R162: a frame that does not open is a frame error. -/
def execFrame (bytes : List Byte) (s : State) : Host.Outcome State Fault Refusal :=
  match openFrame bytes with
  | some (kind, tag, body) => execKind kind tag body s
  | none => .next s.frameError

/-! ## SPI transfers (R160) -/

/-- The bytes clocked out after the code of an SPI transfer. -/
def State.clockOut (s : State) (out : List Byte) : State := { s with linkOut := out }

/-- An SPI transfer: deliver, collect, status, or a code without effect, by the transfer code; `sent` are the bytes that the host clocks in
after it (R160). -/
def State.transfer (s : State) (code : Byte) (sent : List Byte) : Host.Outcome State Fault Refusal :=
  let zeros := List.replicate sent.length 0#8
  match code.toNat with
  | 0x01 => execFrame sent (s.clockOut zeros)
  | 0x02 => .next (s.collect sent.length)
  | 0x03 => .next (s.clockOut ((s.statusByte :: zeros).take sent.length))
  | _ => .next (s.clockOut zeros)

/-- READ_LINK_STATUS: with the UART selected the SPI lines are not sampled (R159). -/
def execReadLinkStatus (code : Byte) (s : State) (sent : List Byte := []) : Host.Outcome State Fault Refusal :=
  match s.linkSel with
  | .spi => s.transfer code sent
  | .uart => .next s

/-! ## Bytes on the UART (R161) -/

/-- The frame in reception has grown to these bytes: a length field above 1024 is a frame error at once, the last CRC byte completes the
frame, and otherwise it stays in reception. -/
def State.frameByte (s : State) (bytes : List Byte) : Host.Outcome State Fault Refusal :=
  if bytes.length = 3 ∧ maxBody < be (bytes.drop 1) then .next s.frameError
  else if frameComplete bytes then execFrame bytes s
  else .next { s with framer := .receiving bytes 0 }

/-- A byte reaches the receive framer: in HUNTING all but the sync byte are discarded. -/
def State.byteReceived (s : State) (b : Byte) : Host.Outcome State Fault Refusal :=
  match s.framer with
  | .hunting => .next (if b = syncByte then { s with framer := .receiving [b] 0 } else s)
  | .receiving bytes _ => s.frameByte (bytes ++ [b])

/-- UART_SYNC_BYTE_RECEIVED: in SPI operation bytes on the UART receive line are discarded (R159), and in UART operation a byte received
with a stop-bit error is (R161); a discarded byte leaves the gap of a frame in reception as it is (log entry 32). -/
def execUartSyncByteReceived (s : State) (b : Byte := syncByte) (stopOk : Bool := true) : Host.Outcome State Fault Refusal :=
  match s.linkSel, stopOk with
  | .uart, true => s.byteReceived b
  | .uart, false => .next s
  | .spi, _ => .next s

end Sys2Proof.Machine
end

