-- ==== Sys2Proof/Machine/Dispatch.lean ====
section
/-! DEFINITION. The dispatch: one arm for each command and event, each a call of its meaning. -/

namespace Sys2Proof.Machine

def exec (i : Instr) (s : State) : Host.Outcome State Fault Refusal :=
  match i with
  | .powerOnReset linksel => Sys2Proof.Machine.execPowerOnReset linksel s
  | .lineReset linksel => Sys2Proof.Machine.execLineReset linksel s
  | .partReset tag body => Sys2Proof.Machine.execPartReset tag body s
  | .partInfo tag body => Sys2Proof.Machine.execPartInfo tag body s
  | .linkStatus tag body => Sys2Proof.Machine.execLinkStatus tag body s
  | .takeNotices tag body => Sys2Proof.Machine.execTakeNotices tag body s
  | .noticeSet tag body => Sys2Proof.Machine.execNoticeSet tag body s
  | .packageOpen tag body => Sys2Proof.Machine.execPackageOpen tag body s
  | .cueAppend tag body => Sys2Proof.Machine.execCueAppend tag body s
  | .packageSeal tag body => Sys2Proof.Machine.execPackageSeal tag body s
  | .packageDelete tag body => Sys2Proof.Machine.execPackageDelete tag body s
  | .packageProtect tag body => Sys2Proof.Machine.execPackageProtect tag body s
  | .packageInfo tag body => Sys2Proof.Machine.execPackageInfo tag body s
  | .packageList tag body => Sys2Proof.Machine.execPackageList tag body s
  | .cueAmend tag body => Sys2Proof.Machine.execCueAmend tag body s
  | .cueRead tag body => Sys2Proof.Machine.execCueRead tag body s
  | .storeInfo tag body => Sys2Proof.Machine.execStoreInfo tag body s
  | .storeReclaim tag body => Sys2Proof.Machine.execStoreReclaim tag body s
  | .gateSet tag body => Sys2Proof.Machine.execGateSet tag body s
  | .timingSet tag body => Sys2Proof.Machine.execTimingSet tag body s
  | .showBind tag body => Sys2Proof.Machine.execShowBind tag body s
  | .showUnbind tag body => Sys2Proof.Machine.execShowUnbind tag body s
  | .showStart tag body => Sys2Proof.Machine.execShowStart tag body s
  | .positionReport tag body => Sys2Proof.Machine.execPositionReport tag body s
  | .trackSet tag body => Sys2Proof.Machine.execTrackSet tag body s
  | .showStatus tag body => Sys2Proof.Machine.execShowStatus tag body s
  | .soundBlock tag body => Sys2Proof.Machine.execSoundBlock tag body s
  | .soundFlush tag body => Sys2Proof.Machine.execSoundFlush tag body s
  | .airSet tag body => Sys2Proof.Machine.execAirSet tag body s
  | .announce tag body => Sys2Proof.Machine.execAnnounce tag body s
  | .announceCancel tag body => Sys2Proof.Machine.execAnnounceCancel tag body s
  | .emitterSet tag body => Sys2Proof.Machine.execEmitterSet tag body s
  | .frameError => Sys2Proof.Machine.execFrameError s
  | .unknownKind kind tag => Sys2Proof.Machine.execUnknownKind kind tag s
  | .collectReply n => Sys2Proof.Machine.execCollectReply n s
  | .readLinkStatus code sent => Sys2Proof.Machine.execReadLinkStatus code s sent
  | .uartFrameTimeout => Sys2Proof.Machine.execUartFrameTimeout s
  | .replySent => Sys2Proof.Machine.execReplySent s
  | .fetchReadDone errs => Sys2Proof.Machine.execFetchReadDone errs s
  | .seekReadDone errs => Sys2Proof.Machine.execSeekReadDone errs s
  | .bindIndexReadDone errs => Sys2Proof.Machine.execBindIndexReadDone errs s
  | .cueReadStepDone errs => Sys2Proof.Machine.execCueReadStepDone errs s
  | .loadPageProgramDone ok => Sys2Proof.Machine.execLoadPageProgramDone ok s
  | .sealStepDone ok => Sys2Proof.Machine.execSealStepDone ok s
  | .amendReadDone errs => Sys2Proof.Machine.execAmendReadDone errs s
  | .amendProgramDone ok => Sys2Proof.Machine.execAmendProgramDone ok s
  | .deleteEraseDone ok => Sys2Proof.Machine.execDeleteEraseDone ok s
  | .reclaimEraseDone ok => Sys2Proof.Machine.execReclaimEraseDone ok s
  | .retireTagProgramDone ok => Sys2Proof.Machine.execRetireTagProgramDone ok s
  | .scanTagReadDone damaged => Sys2Proof.Machine.execScanTagReadDone damaged s
  | .scanSealReadDone errs => Sys2Proof.Machine.execScanSealReadDone errs s
  | .swiInactive after => Sys2Proof.Machine.execSwiInactive after s
  | .framePulseRisingEdge n => Sys2Proof.Machine.execFramePulseRisingEdge n s
  | .framePulseFallingEdge n => Sys2Proof.Machine.execFramePulseFallingEdge n s
  | .qualifyingCountReached n => Sys2Proof.Machine.execQualifyingCountReached n s
  | .missingPulseDeadline n => Sys2Proof.Machine.execMissingPulseDeadline n s
  | .contactLevelChange line active => Sys2Proof.Machine.execContactLevelChange line active s
  | .debounceSettled line => Sys2Proof.Machine.execDebounceSettled line s
  | .cycleExpiry n => Sys2Proof.Machine.execCycleExpiry n s
  | .transmissionEnd n => Sys2Proof.Machine.execTransmissionEnd n s
  | .overcurrentFault n after => Sys2Proof.Machine.execOvercurrentFault n after s
  | .coolingEnd n => Sys2Proof.Machine.execCoolingEnd n s
  | .retireEraseDone ok => Sys2Proof.Machine.execRetireEraseDone ok s
  | .uartSyncByteReceived b stopOk => Sys2Proof.Machine.execUartSyncByteReceived s b stopOk

end Sys2Proof.Machine
end

