-- ==== Sys2Proof/Machine/Step.lean ====
section
/-! DEFINITION. One step of the part: the command at the front of the queue, or one measure count where none waits. -/

namespace Sys2Proof.Machine

/-- The queue of commands after the front one is taken. -/
def State.withPending (s : State) (cs : List Instr) : State := { s with pending := cs }

/-- A step: the command at the front of the queue is taken (log entry 1); on an empty queue one measure count passes (log entry 2). -/
def step (s : State) : Host.Outcome State Fault Refusal :=
  match s.pending with
  | i :: rest => exec i (s.withPending rest)
  | [] => .next s.tick

/-- The state with the command that a word spells at the front of its queue. No row of the opcode table gives bits, so no word
spells one. -/
def State.withFetchWord (s : State) (nbits w : Nat) : State :=
  match decodeTableWord nbits w with
  | some i => s.withPending (i :: s.pending)
  | none => s

end Sys2Proof.Machine
end

