-- ==== Sys2Proof/Safety.lean ====
section
/-! DEFINITION. What a safe run keeps: the laws of the manual that hold of the part in every state, each as a predicate on the state; and what a
signal of the show timeline does, each as a relation between the states before and after it. -/

namespace Sys2Proof.Machine

/-! ## The control link -/

/-- The notices stand in taking order, one for each pair of source and kind, with counts 1 to 255 (R166, R167), and the attention line
follows from them and the threshold (R168). -/
def State.NoticesOk (s : State) : Prop :=
  s.notices.Pairwise (fun x y => x.rank < y.rank) ∧ (∀ x ∈ s.notices, 1 ≤ x.count ∧ x.count ≤ 255)
    ∧ s.attn = attentionLevel s.threshold s.notices

/-! ## The store -/

/-- The flash has its canonical form: its pages in rising order, none that is erased, none outside the flash. -/
def State.FlashOk (s : State) : Prop := flashWf s.flash = true

/-- Entries in ascending package id, ids 0 to 63 (R1). -/
def InOrder (ps : List Package) : Prop := ps.Pairwise (fun p q => p.id < q.id) ∧ ∀ p ∈ ps, p.id < Config.packageIds

/-- The directory, and the one that a start-up scan is making, are in order (R1, R45). -/
def State.DirectoryOk (s : State) : Prop := InOrder s.packages ∧ ∀ sc, s.scan = some sc → InOrder sc.dir

/-- The phase is STARTING as long as the scan runs; no package entry exists then, no load and no host operation, and no show is bound
(R164, R46). -/
def State.StartingOk (s : State) : Prop :=
  (s.phase = .starting ↔ s.scan.isSome = true)
    ∧ (s.phase = .starting → s.packages = [] ∧ s.load = none ∧ s.slot = none ∧ ∀ n, (s.aud n).ctx.st = .vacant)

/-- Each requester has at most one request waiting (R30), and an idle engine has none (R31). -/
def State.QueueOk (s : State) : Prop :=
  s.queue.Pairwise (fun a b => a.who ≠ b.who) ∧ (s.flight = none → s.queue = [])

/-- The host operation goes on with a program or an erase (R41): with SWI inactive it is requested, and is in flight or waits for the engine; with
SWI active nothing is requested, and the operation waits in the slot with it. -/
def State.GoesOnWith (s t : State) (op : HostOp) (step : StoreOp) (addr : Nat) : Prop :=
  (s.swi = false → t.slot = some { op := op, waiting := none }
      ∧ (t.flight = some { req := hostRequest step, addr := addr } ∨ hostRequest step ∈ t.queue))
    ∧ (s.swi = true → t.slot = some { op := op, waiting := some step }
      ∧ ((∀ r ∈ s.queue, r.who ≠ .host) → (∀ r ∈ t.queue, r.who ≠ .host) ∧ ∀ f, t.flight = some f → f.req.who ≠ .host))

/-- A read of the host operation has been requested: it is in flight or waits for the engine. -/
def State.HostReads (t : State) (step : StoreOp) : Prop :=
  hostRequest step ∈ t.queue ∨ ∃ f, t.flight = some f ∧ f.req = hostRequest step

/-- An amendment has ended without commit, for want of room (R38 a, c): STORE_FAIL with the operation AMEND and the cause NO_ROOM, no package and no
page changed, the slot empty, and a block that the amendment reserved blank again, untouched. -/
def State.EndsWithNoRoom (s t : State) (id block : Nat) (reserved : Bool) : Prop :=
  t.slot = none ∧ t.packages = s.packages ∧ t.flash = s.flash
    ∧ (∃ x ∈ t.notices, x.source = .store ∧ x.kind = .storeFail ∧ x.detail = u8 id ++ [2, 1])
    ∧ (reserved = true → t.block block = { cls := .blank, owner := none, nextPage := (s.block block).nextPage, marked := false })
    ∧ (reserved = false → t.blocks = s.blocks)

/-- STORE_UNCORRECTABLE stands among the notices for a host operation's read of a page (R34, R170). -/
def State.NotesLost (t : State) (addr : Nat) : Prop :=
  ∃ x ∈ t.notices, x.source = .store ∧ x.kind = .storeUncorrectable ∧ x.detail = u8 (addr / 64) ++ u8 (addr % 64) ++ [2]

/-- An index page is searched for a cue (R19, R36): `found` is the last of its entries whose first cue number does not exceed it, or, where each of
them exceeds it, what the pages before gave. -/
def FoundOn (es : List IndexEntry) (cue : Nat) (before found : Option IndexEntry) : Prop :=
  (∀ front en rear, es = front ++ en :: rear → en.firstCue ≤ cue → (∀ x ∈ rear, cue < x.firstCue) → found = some en)
    ∧ ((∀ x ∈ es, cue < x.firstCue) → found = before)

/-! ## The show timeline and the input unit -/

/-- C does not exceed D (R63); the coast count, the limits and the slew window lie within 48, K within 2,400 (R63); a show that is not VACANT has
a rate class (R63), and then the advance lies between T − s and T + s (R68) and the period estimate between Lo and Hi (R52). -/
def Auditorium.ShowOk (a : Auditorium) : Prop :=
  a.ctx.c ≤ a.ctx.duration ∧ a.ctx.coast ≤ 48 ∧ a.ctx.coastLimit ≤ 48 ∧ a.ctx.coastLimitStaged ≤ 48
    ∧ a.ctx.slewWindow ≤ 48 ∧ a.ctx.slewWindowStaged ≤ 48 ∧ a.ctx.k.natAbs ≤ 2400
    ∧ (a.ctx.st ≠ .vacant → a.ctx.rate.isSome = true)
    ∧ ∀ r, a.ctx.rate = some r →
        r.ticks - r.step ≤ a.ctx.adv ∧ a.ctx.adv ≤ r.ticks + r.step ∧ r.lo ≤ a.input.pm ∧ a.input.pm ≤ r.hi

def State.ShowsOk (s : State) : Prop := ∀ n, (s.aud n).ShowOk

/-! ## Release, playout, air -/

/-- No active set and no overlap collection holds more than 4 cues (R100, R103), and no pending list more than 32 events (R135). -/
def Auditorium.EventsOk (a : Auditorium) : Prop :=
  a.air.pend.length ≤ pendingLimit
    ∧ ∀ t, (a.text.get t).active.length ≤ activeLimit
        ∧ ∀ k, (a.text.get t).seek = some k → k.overlap.length ≤ activeLimit

def State.EventsWithin (s : State) : Prop := ∀ n, (s.aud n).EventsOk

/-- A page index in order: first cue numbers rise and lie below the cue count, first start ticks do not fall (R11, R89). -/
def TrackEngine.IndexOk (e : TrackEngine) : Prop :=
  e.index.Pairwise (fun a b => a.firstCue < b.firstCue ∧ a.firstStart ≤ b.firstStart) ∧ ∀ en ∈ e.index, en.firstCue < e.cueCount

/-- The first cue number from index entry `i` on (R93). -/
def TrackEngine.firstFrom (e : TrackEngine) (i : Nat) : Nat := ((e.index[i]?).map (·.firstCue)).getD e.cueCount

/-- The lookahead queue holds at most 8 cues, its numbers strictly rise and each lies above every number of the active set, which holds no number
twice; all of them were taken from below the cursor (R95, R100). The same holds of what a seek has gathered, from below the entry that it
reads next; a future cue gathered says that every later page starts after the seek position (R103). -/
def TrackEngine.CuesOk (e : TrackEngine) : Prop :=
  e.look.length ≤ 8 ∧ e.look.Pairwise (fun a b => a.number < b.number) ∧ e.active.Pairwise (fun a b => a.number ≠ b.number)
    ∧ (∀ a ∈ e.active, ∀ c ∈ e.look, a.number < c.number)
    ∧ (∀ c ∈ e.look ++ e.active, c.number < e.cursor ∧ c.number < e.cueCount)
    ∧ ∀ k, e.seek = some k →
        k.future.length < 8 ∧ k.future.Pairwise (fun a b => a.number < b.number)
          ∧ k.overlap.Pairwise (fun a b => a.number ≠ b.number) ∧ (∀ a ∈ k.overlap, ∀ c ∈ k.future, a.number < c.number)
          ∧ (∀ c ∈ k.overlap ++ k.future, c.number < e.firstFrom k.entry)
          ∧ (k.future ≠ [] → ∀ en, e.index[k.entry]? = some en → e.seekPos < en.firstStart)

/-- The cues of every track engine whose page index is in order are in order; an engine of a disabled track, and every engine of a show in VACANT or
BINDING, is OFF and holds none (R92). -/
def State.EnginesOk (s : State) : Prop :=
  ∀ n t, ((s.eng n t).IndexOk → (s.eng n t).CuesOk)
    ∧ (s.textOn n t = false ∨ (s.aud n).ctx.st = .vacant ∨ (s.aud n).ctx.st = .binding →
        (s.eng n t).state = .off ∧ (s.eng n t).look = [] ∧ (s.eng n t).active = [] ∧ (s.eng n t).seek = none)

/-- Cues are those of the page of index entry `i`: its numbers from the entry's first on, with start ticks that do not fall, from the entry's first
start tick to that of the next entry (R7, R11). -/
def TrackEngine.IsPage (e : TrackEngine) (i : Nat) (cues : List Cue) : Prop :=
  ∃ en, e.index[i]? = some en
    ∧ cues.map (·.number) = (List.range (e.firstFrom (i + 1) - en.firstCue)).map (· + en.firstCue)
    ∧ cues.Pairwise (fun a b => a.startTick ≤ b.startTick) ∧ (∀ c ∈ cues, en.firstStart ≤ c.startTick)
    ∧ ∀ next, e.index[i + 1]? = some next → ∀ c ∈ cues, c.startTick ≤ next.firstStart

/-- The read in flight of a track engine, where its completion matches, was requested for a page of the index, and the page's content is what the
index says: the page of the entry that holds the cursor's cue, or the page of the seek's entry (R94, R102). -/
def State.DeliversItsPage (s : State) : Prop :=
  ∀ f n t, s.flight = some f → f.req.who = .engine n t → s.engineMatches n t f.req = true →
    (f.req.kind = .fetch → ∃ i, (s.eng n t).entryOf (s.eng n t).cursor = some i
      ∧ (s.eng n t).IsPage i (pageCues (readBytes s.flash f.addr)))
    ∧ (f.req.kind = .seek → ∀ k, (s.eng n t).seek = some k → (s.eng n t).IsPage k.entry (pageCues (readBytes s.flash f.addr)))

/-- A playout queue holds at most 64 blocks, their stamps multiples of 24, strictly rising, and above z, which is a multiple of 24 from
−24 on (R113, R115). -/
def Playout.QueueOk (e : Playout) : Prop :=
  e.queue.length ≤ playoutLimit ∧ e.queue.Pairwise (fun b c => b.stamp < c.stamp) ∧ (∀ b ∈ e.queue, b.stamp % slotTicks = 0)
    ∧ ∀ z, e.z = some z → z % slotTicks = 0 ∧ -24 ≤ z ∧ ∀ b ∈ e.queue, z < (b.stamp : Int)

def State.PlayoutsOk (s : State) : Prop := ∀ n t, (s.play n t).QueueOk

/-- A transmission runs in ACTIVE only (R150, R152). -/
def State.EmittersOk (s : State) : Prop := ∀ n, (s.aud n).emit.tx.isSome → (s.aud n).emit.state = .active

/-! ## Signals of the show timeline: the state `t` after the event, from the state `s` before it -/

/-- A CLEAR for each enabled text track is queued, in ascending track order, where the pending list has the room (R92 b, e, f, g). -/
def State.ClearsFrom (s t : State) (n : Aud) : Prop :=
  (s.aud n).air.pend.length ≤ 28 →
    (t.aud n).air.pend = (s.aud n).air.pend ++ ([0, 1, 2, 3].filter fun k => ((s.aud n).ctx.text.get k).enabled).map Event.clear

/-- A disabled text track's engine is left as it is (R86). -/
def State.OthersKept (s t : State) (n : Aud) : Prop := ∀ k, s.textOn n k = false → t.eng n k = s.eng n k

/-- The show finishes (R82, R92 f, R123 b): C at D, SHOW_FINISHED, the enabled text tracks cleared and ENDED without cues, and playout STOPPED with an
empty queue. -/
def State.FinishesTo (s t : State) (n : Aud) : Prop :=
  (t.aud n).ctx.st = .finished ∧ (t.aud n).ctx.c = (s.aud n).ctx.duration ∧ (t.aud n).ctx.k = 0 ∧ (t.aud n).ctx.coast = 0
    ∧ (∀ r, (s.aud n).ctx.rate = some r → (t.aud n).ctx.adv = r.ticks)
    ∧ (∃ x ∈ t.notices, x.source = .aud n ∧ x.kind = .showFinished ∧ x.detail = u32 (s.aud n).ctx.duration)
    ∧ (∀ k, s.textOn n k = true → (t.eng n k).state = .ended ∧ (t.eng n k).look = [] ∧ (t.eng n k).active = []
        ∧ (t.eng n k).seek = none)
    ∧ s.OthersKept t n ∧ s.ClearsFrom t n
    ∧ ∀ k, t.play n k = (if (s.play n k).state = .serving ∨ (s.play n k).state = .priming ∨ (s.play n k).state = .frozen then
        { s.play n k with state := .stopped, queue := [] } else s.play n k)

/-- The text tracks wait (R92 b, e): cleared, without active cues, the lookahead queue and the cursor kept. -/
def State.WaitsTo (s t : State) (n : Aud) : Prop :=
  (∀ k, s.textOn n k = true → (t.eng n k).state = .waiting ∧ (t.eng n k).active = [] ∧ (t.eng n k).seek = none
      ∧ (t.eng n k).look = (s.eng n k).look ∧ (t.eng n k).cursor = (s.eng n k).cursor
      ∧ (t.eng n k).cursorStart = (s.eng n k).cursorStart)
    ∧ s.OthersKept t n ∧ s.ClearsFrom t n

/-- The show holds (R92 e, R123 a): the text tracks wait and a SERVING playout engine is FROZEN, with z and its queue. -/
def State.HoldsTo (s t : State) (n : Aud) : Prop :=
  s.WaitsTo t n
    ∧ ∀ k, t.play n k = if (s.play n k).state = .serving then { s.play n k with state := .frozen } else s.play n k

/-- A track engine has asked for a logical page of its bound package (R94, R102): its read is outstanding, and the request waits or is in flight. -/
def State.AsksFor (t : State) (n : Aud) (k : TextTrack) (kind : ReadKind) (logical need : Nat) : Prop :=
  (t.eng n k).out.isSome = true
    ∧ ∀ id, (t.aud n).ctx.pkg = some id → ∀ r : Request,
        r = { who := .engine n k, op := .readLogical id logical, kind := kind, need := need
              bindGen := (t.aud n).ctx.bindGen, seekCount := (t.eng n k).seekCount } →
        r ∈ t.queue ∨ ∃ f, t.flight = some f ∧ f.req = r

/-- A track engine that had no read outstanding has been through the fetch test (R93, R94): in RUNNING with 4 cues queued or fewer and cues left it has
asked for the page of the cursor's cue, the last whose first cue number does not exceed the cursor, with the cursor start as need; otherwise it has
asked for nothing. -/
def State.FetchesNext (t : State) (n : Aud) (k : TextTrack) : Prop :=
  ((t.eng n k).state = .running → (t.eng n k).look.length ≤ 4 → (t.eng n k).cursor < (t.eng n k).cueCount →
    ∀ (i : Nat) (en : IndexEntry) (need : Nat), (t.eng n k).index[i]? = some en → en.firstCue ≤ (t.eng n k).cursor →
      (∀ (j : Nat) (later : IndexEntry), i < j → (t.eng n k).index[j]? = some later → (t.eng n k).cursor < later.firstCue) →
      (t.eng n k).cursorStart = some need → t.AsksFor n k .fetch en.logical need)
    ∧ ((t.eng n k).state ≠ .running ∨ 4 < (t.eng n k).look.length ∨ (t.eng n k).cueCount ≤ (t.eng n k).cursor → (t.eng n k).out = none)

/-- An engine seeks from `q` (R102): without cues, its seek count raised, the starting entry the last whose first start tick does not exceed q − 36,000
or else the first, its read requested with q as need unless a read of the engine is in flight; without pages, ENDED past the last cue. -/
def State.SeeksTo (s t : State) (n : Aud) (k : TextTrack) (q : Nat) : Prop :=
  (t.eng n k).look = [] ∧ (t.eng n k).active = [] ∧ (t.eng n k).seekCount = ((s.eng n k).seekCount + 1) % 256
    ∧ ((t.eng n k).index = [] → (t.eng n k).state = .ended ∧ (t.eng n k).seek = none
        ∧ (t.eng n k).cursor = (t.eng n k).cueCount ∧ (t.eng n k).cursorStart = none)
    ∧ ((t.eng n k).index ≠ [] → (t.eng n k).state = .seeking ∧ (t.eng n k).seekPos = q
        ∧ ∃ i en, (t.eng n k).seek = some { overlap := [], future := [], entry := i } ∧ (t.eng n k).index[i]? = some en
          ∧ (i = 0 ∨ en.firstStart + 36000 ≤ q)
          ∧ (∀ j later, i < j → (t.eng n k).index[j]? = some later → q < later.firstStart + 36000)
          ∧ (s.engineInFlight n k = false → t.AsksFor n k .seek en.logical q))

/-- Every enabled text track seeks from P plus its lead, with its index and cue count (R92 c, d). -/
def State.AllSeekTo (s t : State) (n : Aud) (p : Nat) : Prop :=
  (∀ k, s.textOn n k = true → s.SeeksTo t n k (p + ((s.aud n).ctx.text.get k).lead) ∧ (t.eng n k).index = (s.eng n k).index
      ∧ (t.eng n k).cueCount = (s.eng n k).cueCount)
    ∧ s.OthersKept t n

/-- Playout is set to a target slot (R121 b, R122): z becomes the target less 24, and the blocks below are discarded and counted. -/
def Playout.repositioned (e : Playout) (target : Nat) (below : Nat → Bool) (state : PlayState) : Playout :=
  { e with
    state := state, z := some ((target : Int) - 24), queue := e.queue.filter fun b => !below b.stamp
    discarded := min 65535 (e.discarded + (e.queue.filter fun b => below b.stamp).length) }

/-- Lock is gained at P (R92 c, R122 a). -/
def State.LocksTo (s t : State) (n : Aud) (p : Nat) : Prop :=
  s.AllSeekTo t n p
    ∧ ∀ k target, target = 24 * ((p + (s.play n k).lead) / 24) →
        t.play n k = if (s.play n k).state = .priming ∨ (s.play n k).state = .frozen then
            (s.play n k).repositioned target (fun stamp => decide ((stamp : Int) ≤ (target : Int) - 24)) .serving
          else s.play n k

/-- The show jumps to P (R92 d, R122 b). -/
def State.JumpsTo (s t : State) (n : Aud) (p : Nat) : Prop :=
  s.AllSeekTo t n p
    ∧ ∀ k target, target = 24 * ((p + (s.play n k).lead) / 24) →
        t.play n k = if (s.play n k).state = .serving then
            (s.play n k).repositioned target (fun stamp => decide (stamp < target)) .serving
          else s.play n k

/-- The bound signal (R92 a, R111, R121 a): BIND_DONE with BOUND; the engine of an enabled track is positioned nowhere with its cue count and index, and
that of another stays; the counts return to 0. -/
def State.BindsTo (s t : State) (n : Aud) : Prop :=
  (t.aud n).ctx.st = .standby
    ∧ (∃ x ∈ t.notices, x.source = .aud n ∧ x.kind = .bindDone
        ∧ ∀ id, (t.aud n).ctx.pkg = some id → x.detail = u8 id ++ u8 (t.aud n).ctx.bindGen ++ [0])
    ∧ (∀ k, ((t.aud n).ctx.text.get k).enabled = true →
        t.eng n k = { s.eng n k with
          state := .waiting, cueCount := (t.aud n).ctx.cueCounts.get k, index := (t.aud n).ctx.index.get k, cursor := 0
          cursorStart := none, look := [], active := [], starveCount := 0, missed := 0 })
    ∧ (∀ k, ((t.aud n).ctx.text.get k).enabled = false → t.eng n k = { s.eng n k with starveCount := 0, missed := 0 })
    ∧ ∀ k, t.play n k =
        (if ((t.aud n).ctx.sound.get k).enabled then
          { state := .idle, enabled := true, lead := ((t.aud n).ctx.sound.get k).lead, z := none, queue := [], served := 0, gaps := 0
            discarded := 0, skips := 0 }
        else { s.play n k with
          state := .off, enabled := false, lead := ((t.aud n).ctx.sound.get k).lead, served := 0, gaps := 0, discarded := 0
          skips := 0 })

/-- A frame begins: its advance is fixed from the slew remainder K (R68). -/
def ShowCtx.NewFrameTo (x y : ShowCtx) (r : RateClass) : Prop :=
  (x.k = 0 → y.adv = r.ticks ∧ y.k = 0)
    ∧ (0 < x.k → ∃ d : Nat, d = min x.k.toNat (r.ticks / 8) ∧ y.adv = r.ticks + d ∧ y.k = x.k - d)
    ∧ (x.k < 0 → ∃ d : Nat, d = min (-x.k).toNat (r.ticks / 8) ∧ y.adv = r.ticks - d ∧ y.k = x.k + d)

/-! ## The events that fall due -/

/-- The events of an auditorium whose counts are reached, in the order in which a measure count answers them, each with its condition and its row:
the last bit of a frame (R151), the qualifying count (R47), the contacts (R57), the missing-pulse deadline (R54), the cooling timer (R154)
and the cycle timer (R128). The order is the model's (log entry 2). -/
def eventsOf (n : Aud) : List ((State → Bool) × Instr) :=
  let settled : Debouncer → Bool := fun d => decide (d.steady = 12000 ∧ d.taken ≠ if d.level then .active else .inactive)
  [(fun s => (s.aud n).emit.tx.any fun x => decide (8 * x.frame.length * x.rate.bitTime ≤ x.progress), .transmissionEnd n),
   (fun s => decide ((s.aud n).input.filter = .qualifying ∧ (s.aud n).input.qualLength ≤ (s.aud n).input.qualCount), .qualifyingCountReached n),
   (fun s => settled (s.aud n).input.auxA, .debounceSettled (.auxA n)),
   (fun s => settled (s.aud n).input.auxB, .debounceSettled (.auxB n)),
   (fun s => decide ((s.aud n).input.ref ≠ .absent ∧ (s.aud n).input.e = 3 * (s.aud n).input.pm / 2), .missingPulseDeadline n),
   (fun s => decide ((s.aud n).emit.state = .cooling ∧ (s.aud n).emit.cooling = 0), .coolingEnd n),
   (fun s => decide ((s.aud n).air.timer = 0), .cycleExpiry n)]

/-- The events of the part, in that order: 2 ms without a byte of a frame (R161), the site hold input (R58), and the auditoriums' own. -/
def partEvents : List ((State → Bool) × Instr) :=
  [(fun s => match s.framer with
      | .receiving _ gap => decide (s.linkSel = .uart ∧ 2400 ≤ gap)
      | .hunting => false, .uartFrameTimeout),
   (fun s => decide (s.shold.steady = 12000 ∧ s.shold.taken ≠ if s.shold.level then .active else .inactive), .debounceSettled .shold)]
    ++ allAuds.flatMap eventsOf

/-- Events in their order, each run as its own row where its condition stands in the state that the ones before it left. -/
def runEvents : List ((State → Bool) × Instr) → State → Host.Outcome State Fault Refusal
  | [], s => .next s
  | (due, i) :: rest, s =>
    if due s then
      match exec i s with
      | .next t => runEvents rest t
      | o => o
    else runEvents rest s

/-! ## Commands -/

/-- A command frame of the catalogue is handed to its owner: the phase is RUNNING and no reply is owed (R162). -/
def State.Accepts (s : State) : Prop := s.phase = .running ∧ s.replyBuf = .empty

/-- The state in which a command's owner meets it: the frame is complete and the framer hunts again (R161, R162). -/
def State.taken (s : State) : State := { s with framer := .hunting }

/-- The reply of a command of a kind, in the reply buffer (R163, R171). -/
def State.replied (s : State) (kind tag : Byte) (code : Code) (vals : List Byte) : State :=
  s.ready { kind := replyKind kind, tag := tag, code := code, vals := vals }

end Sys2Proof.Machine
end

