-- ==== Sys2Proof/WellFormed.lean ====
section
/-! DEFINITION. What a frame of the control link can deliver: the body length of R171 and the kinds of the catalogue. -/

namespace Sys2Proof

/-- The kinds of the catalogue (R171). -/
def catalogue : List Nat :=
  [0x01, 0x02, 0x03, 0x04, 0x05, 0x10, 0x11, 0x12, 0x13, 0x14, 0x15, 0x16, 0x17, 0x18, 0x20, 0x21,
   0x30, 0x31, 0x32, 0x33, 0x34, 0x35, 0x36, 0x37, 0x40, 0x41, 0x50, 0x51, 0x52, 0x60]

/-- The body of a delivered frame is at most 1024 bytes (R171). -/
def Instr.bodyOk (i : Instr) : Bool :=
  match i.frameParts with
  | some (_, _, body) => decide (body.length ≤ maxBody)
  | none => true

/-- UNKNOWN_KIND is the step of a kind outside the catalogue only (R162 c). -/
def Instr.kindOk : Instr → Bool
  | .unknownKind kind _ => !catalogue.contains kind.toNat
  | _ => true

/-- A command or event as the outside can give it. -/
def Instr.wellFormed (i : Instr) : Bool := i.bodyOk && i.kindOk

end Sys2Proof
end

