-- ==== Sys2Proof/Certificates/Slice0/Obligations.lean ====
section
/-! DEFINITION. The statements for the provers, in the order of the chapters: the queue and the resets, the link, the store and the directory,
the inputs, the show timeline, release, playout, the air and the emitter, and what every step keeps. -/

section

open Sys2Proof Sys2Proof.Machine

/-! ## The queue and the passing of time -/

/-- A step with a command at the front of the queue runs that command on the state with the rest of the queue (log entry 1). -/
def Obligations.StepTakesFrontCommand : Prop :=
  ∀ (c : Instr) (rest : List Instr) (s : State), s.pending = c :: rest → step s = exec c (s.withPending rest)

/-- With no command waiting, one measure count passes: every counter that runs of itself advances by one (e while a reference is held, the qualifying
and steady counts, the cycle and cooling timers, the gap of a frame in reception, and ten reference counts of a transmission), and then each
event whose count is reached is a step of its own row, in the order of `partEvents`. Where none is reached only the counters have moved, and
an event that alone is reached acts as its row does. That a step with no command waiting is a measure count, and the order, are the model's
choice (log entry 2). -/
def Obligations.IdleStepCountsOneMeasure : Prop :=
  ∀ s counted : State, s.pending = [] →
    counted = { s with
      auds := s.auds.map fun a => { a with
        input := { a.input with
          e := if a.input.ref = .absent then a.input.e else min 1048575 (a.input.e + 1)
          qualCount := if a.input.filter = .qualifying then min a.input.qualLength (a.input.qualCount + 1) else a.input.qualCount
          auxA := { a.input.auxA with steady := min 12000 (a.input.auxA.steady + 1) }
          auxB := { a.input.auxB with steady := min 12000 (a.input.auxB.steady + 1) } }
        air := { a.air with timer := a.air.timer - 1 }
        emit := { a.emit with
          cooling := if a.emit.state = .cooling then a.emit.cooling - 1 else a.emit.cooling
          tx := a.emit.tx.map fun x => { x with progress := x.progress + 10 } } }
      shold := { s.shold with steady := min 12000 (s.shold.steady + 1) }
      framer := match s.framer with
        | .hunting => .hunting
        | .receiving bytes gap => .receiving bytes (gap + 1) } →
    step s = runEvents partEvents counted
      ∧ ((∀ e ∈ partEvents, e.1 counted = false) → step s = .next counted)
      ∧ ∀ (before after : List ((State → Bool) × Instr)) (due : State → Bool) (i : Instr) (t : State),
          partEvents = before ++ (due, i) :: after → (∀ e ∈ before, e.1 counted = false) → due counted = true →
          exec i counted = .next t → (∀ e ∈ after, e.1 t = false) → step s = .next t

/-! ## Resets -/

/-- What POWER_ON_RESET and LINE_RESET leave (R159 and the reset tables of the chapters; the lines' levels by log entry 7), and that they keep every
page of the flash but those of an operation they cut off (R30, log entry 5). The announcement count is 0 (R173) and the scan reads the tag of page 0
of block 0 (R44). The block records and the serial high-water until the scan has ended are log entry 8's (DESIGN CHOICE), the filter length in force
at a rising edge, 24 before there has been one, log entry 42's (DESIGN CHOICE), and the link's bytes clocked out, which are the model's own field,
log entry 6's (DESIGN CHOICE). -/
def Obligations.HardResetLeaves : Prop :=
  (∀ (i : Instr) (strap : Bool) (s : State), i = .powerOnReset strap ∨ i = .lineReset strap →
      ∃ t, exec i s = .next t
        ∧ t.linkSel = (if strap then .uart else .spi) ∧ t.phase = .starting ∧ t.framer = .hunting ∧ t.replyBuf = .empty
        ∧ t.refusal = none ∧ t.uartTx = none ∧ t.linkOut = [] ∧ t.notices = [] ∧ t.threshold = .alert ∧ t.attn = false ∧ t.announces = 0
        ∧ t.serialHigh = 65535 ∧ (∀ b, b < 128 → t.block b = { cls := .unknown, owner := none, nextPage := 0, marked := false })
        ∧ t.flight = some { req := scanRequest (.readTag 0 0), addr := 0 }
        ∧ t.packages = [] ∧ t.load = none ∧ t.slot = none ∧ t.pageReg = none ∧ t.queue = []
        ∧ t.scan = some { visited := 0, tags := [], found := [], seals := [], dir := [] }
        ∧ t.shold = { level := s.shold.level, taken := .unsettled, steady := 0 }
        ∧ ∀ n : Aud,
            (t.aud n).ctx = .reset ∧ (∀ x, t.eng n x = .reset) ∧ (∀ x, t.play n x = .reset)
            ∧ (t.aud n).air = .reset n.val ∧ (t.aud n).emit = { Emitter.reset with oc := (s.aud n).emit.oc }
            ∧ (t.aud n).input =
                { InputUnit.reset with
                  fp := (s.aud n).input.fp
                  auxA := { level := (s.aud n).input.auxA.level, taken := .unsettled, steady := 0 }
                  auxB := { level := (s.aud n).input.auxB.level, taken := .unsettled, steady := 0 } })
    ∧ ∀ (i : Instr) (strap : Bool) (s t : State), i = .powerOnReset strap ∨ i = .lineReset strap → exec i s = .next t →
      ∀ a, (∀ f block page, s.flight = some f → f.req.op = .program block page → a ≠ pageAddr block page) →
        (∀ f block, s.flight = some f → f.req.op = .erase block → a / 64 ≠ block) →
        flashGet t.flash a = flashGet s.flash a

/-- PART_RESET: its own OK is ready, the shows, engines, queues and air stand idle, the settings of the installation are kept (R169). SOFT falls to
NONE and FIRM is kept (R20), every bind count is 0 (R21); a seal, an amendment, a delete or a reclaim stays in the slot, and a CUE_READ leaves
it (R5), the seal with the load that it keeps (R16). The announcement count is 0 (R173). The input units and the emitter units stand as R62 and R158
say, the levels of their lines by log entry 7 (DESIGN CHOICE), and the filter length in force at a rising edge, 24 before there has been one, by log
entry 42 (DESIGN CHOICE). It closes the load of a FILLING package: ABANDONED at once, or, with its load page program in flight, FILLING
until that program completes and ABANDONED then, whether it succeeded or failed, without a notice (R16). -/
def Obligations.PartResetLeaves : Prop :=
  (∀ (tag : Byte) (s : State), s.Accepts →
      ∃ t, exec (.partReset tag []) s = .next t
        ∧ t.replyBuf = .ready { kind := 0x85, tag := tag, code := .ok, vals := [] }
        ∧ t.notices = [] ∧ t.attn = false ∧ t.announces = 0 ∧ t.threshold = s.threshold ∧ t.linkSel = s.linkSel ∧ t.phase = s.phase
        ∧ t.refusal = s.refusal ∧ t.flash = s.flash ∧ t.blocks = s.blocks ∧ t.serialHigh = s.serialHigh ∧ t.flight = s.flight
        ∧ (∀ r ∈ t.queue, (∀ n x, r.who ≠ .engine n x) ∧ ∀ n, r.who ≠ .bind n)
        ∧ (t.packages.map fun p => (p.id, p.serial, p.info, p.pageCounts, p.blocks, p.indexLoc, p.amend, p.map))
            = s.packages.map (fun p => (p.id, p.serial, p.info, p.pageCounts, p.blocks, p.indexLoc, p.amend, p.map))
        ∧ (t.packages.map fun p => (p.binds, p.protection))
            = s.packages.map (fun p => (0, if p.protection = .soft then Protection.unprotected else p.protection))
        ∧ (∀ h, s.slot = some h → (∀ id, h.op ≠ .loadPage id) → (∀ id tr cue step, h.op ≠ .cueRead id tr cue step) →
            t.slot = some h ∧ t.pageReg = s.pageReg ∧ ∀ r ∈ s.queue, r.who = .host → r ∈ t.queue)
        ∧ (∀ h id tr cue step, s.slot = some h → h.op = .cueRead id tr cue step → t.slot = none ∧ ∀ r ∈ t.queue, r.who ≠ .host)
        ∧ ∀ n : Aud,
            (t.aud n).ctx = { ShowCtx.reset with bindGen := (s.aud n).ctx.bindGen }
            ∧ (∀ x, t.eng n x = .reset) ∧ (∀ x, t.play n x = .reset)
            ∧ (t.aud n).air = { AirSched.reset n.val with current := (s.aud n).air.current, staged := (s.aud n).air.staged }
            ∧ (t.aud n).emit =
                { state := if (s.aud n).emit.state = .disabled then .disabled else .sleeping, current := (s.aud n).emit.current
                  staged := (s.aud n).emit.staged, demand := false, tx := none, retry := 0, clean := 0, cooling := 0, sent := 0
                  dropped := 0, lastFault := none, oc := (s.aud n).emit.oc }
            ∧ (t.aud n).input =
                { fp := (s.aud n).input.fp, filter := .high, qualCount := 0, qualLength := 24, wCurrent := 24, wStaged := 24
                  candidates := 0, ref := .absent, e := 0, pm := 0, lastInterval := 0, mismatchRun := 0, armed := true
                  auxA := { level := (s.aud n).input.auxA.level, taken := .unsettled, steady := 0 }
                  auxB := { level := (s.aud n).input.auxB.level, taken := .unsettled, steady := 0 }
                  gateTable := #v[.opened, .opened, .opened, .opened, .closed, .closed, .closed, .closed], gate := .closed })
    ∧ ∀ (tag : Byte) (ok : Bool) (s t : State) (l : Load) (p : Package), s.Accepts → s.load = some l →
      s.package l.pkg = some p → p.state = .filling → exec (.partReset tag []) s = .next t →
      t.load = none
        ∧ (s.loadInFlight = false → ∃ q, t.package l.pkg = some q ∧ q.state = .abandoned)
        ∧ (s.loadInFlight = true → s.hostOp = some (.loadPage l.pkg) →
            (∃ q, t.package l.pkg = some q ∧ q.state = .filling)
              ∧ ∃ u, exec (.loadPageProgramDone ok) t = .next u
                  ∧ (∃ q, u.package l.pkg = some q ∧ q.state = .abandoned) ∧ u.slot = none ∧ u.notices = [])

/-! ## Taking a command, and the link -/

/-- The tests that a complete frame meets before its owner (R162 b, d, e, R164). A frame of any kind that meets an owed reply is refused LINK_BUSY
through the refusal slot and is not executed; a refusal whose transmission on the UART has begun keeps the slot. In STARTING every command of the
catalogue but PART_INFO and LINK_STATUS is answered STARTING, and a command whose body has not the length of its kind, or the length that its own
fields imply, RANGE, both through the reply buffer, with nothing else changed. For a kind above 0x7F the reply kind wraps in its byte, by log entry
26 (DEDUCED). -/
def Obligations.TestsBeforeTheOwner : Prop :=
  (∀ (i : Instr) (kind tag : Byte) (body : List Byte) (s : State), i.frameParts = some (kind, tag, body) →
      s.replyBuf.owed = true →
      exec i s = .next (s.taken.refuse { kind := kind + 0x80, tag := tag, code := .linkBusy, vals := [] })
        ∧ ∀ r, (s.linkSel = .uart ∧ s.uartTx = some .slot → s.taken.refuse r = s.taken)
            ∧ (¬(s.linkSel = .uart ∧ s.uartTx = some .slot) →
                s.taken.refuse r =
                  { s.taken with
                    refusal := some r
                    uartTx := if s.linkSel = .uart ∧ s.uartTx = none then some .slot else s.uartTx }))
    ∧ (∀ (i : Instr) (kind tag : Byte) (body : List Byte) (s : State), i.frameParts = some (kind, tag, body) →
      i ≠ .unknownKind kind tag → kind ≠ 0x01 → kind ≠ 0x02 → s.phase = .starting → s.replyBuf = .empty →
      exec i s = .next (s.taken.replied kind tag .starting []))
    ∧ ∀ (i : Instr) (kind tag : Byte) (body : List Byte) (s : State) (len : Nat), i.frameParts = some (kind, tag, body) →
      i ≠ .unknownKind kind tag →
      (kind.toNat, len) ∈ [(0x01, 0), (0x02, 0), (0x03, 0), (0x04, 1), (0x05, 0), (0x12, 1), (0x13, 1), (0x14, 2), (0x15, 1), (0x16, 0),
        (0x18, 4), (0x20, 0), (0x21, 0), (0x30, 9), (0x31, 4), (0x32, 14), (0x33, 1), (0x34, 5), (0x35, 5), (0x36, 5), (0x37, 1),
        (0x41, 2), (0x50, 5), (0x52, 2), (0x60, 11)] →
      body.length ≠ len → s.Accepts → exec i s = .next (s.taken.replied kind tag .range [])
    ∧ ∀ (i : Instr) (kind tag : Byte) (body : List Byte) (s : State), i.frameParts = some (kind, tag, body) →
      i ≠ .unknownKind kind tag → s.Accepts →
      (kind = 0x10 ∧ ∀ (head title : List Byte) (ts ds : List (List Byte)), head.length = 5 → title.length < 256 → ts.length < 256 →
          ds.length < 256 → (∀ x ∈ ts, x.length = 4) → (∀ x ∈ ds, x.length = 3) →
          body ≠ head ++ u8 title.length ++ title ++ u8 ts.length ++ ts.flatten ++ u8 ds.length ++ ds.flatten)
        ∨ (kind = 0x11 ∧ ∀ id recs, body = id :: recs → rawRecords recs.length recs = none)
        ∨ (kind = 0x17 ∧ ∀ id tr c1 c0 pl sp n rest raw, body = id :: tr :: c1 :: c0 :: pl :: sp :: n :: rest →
          rawLines n.toNat rest ≠ some (raw, []))
        ∨ (kind = 0x40 ∧ body.length < 6) ∨ (kind = 0x51 ∧ body.length < 5) →
      exec i s = .next (s.taken.replied kind tag .range [])

/-- The receive framer and the refusals of the link (R161, R162 a, c). A damaged frame and 2 ms of silence within a frame end the frame in reception
with FRAME_ERROR, and an unknown kind is refused UNKNOWN_KIND, each in the refusal slot. On the UART a byte other than the sync byte is discarded in
HUNTING and the sync byte begins a frame; every byte of a frame, whatever its value, joins it; a length field above 1024 is a frame error at once;
the byte that completes the frame runs the step that the frame's bytes make. A byte received with a stop-bit error is discarded, and with SPI
selected every byte of the UART is (R159). The reply kind of a kind above 0x7F is log entry 26's (DEDUCED), the timeout without a frame in
reception log entry 11's (DEDUCED), and the byte and its stop bit as the row's operands, and that a discarded byte leaves the gap as it is, log
entry 32's (DESIGN CHOICE). -/
def Obligations.FramerTakesBytes : Prop :=
  (∀ s : State, exec .frameError s = .next (s.taken.refuse { kind := 0xFF, tag := 0, code := .frameError, vals := [] }))
    ∧ (∀ s bytes gap, s.linkSel = .uart → s.framer = .receiving bytes gap →
        exec .uartFrameTimeout s = .next (s.taken.refuse { kind := 0xFF, tag := 0, code := .frameError, vals := [] }))
    ∧ (∀ s, s.linkSel = .spi ∨ s.framer = .hunting → exec .uartFrameTimeout s = .next s)
    ∧ (∀ (kind tag : Byte) (s : State), s.replyBuf = .empty →
        exec (.unknownKind kind tag) s
          = .next (s.taken.refuse { kind := kind + 0x80, tag := tag, code := .unknownKind, vals := [] }))
    ∧ ∀ (b : Byte) (s : State),
        (∀ stopOk, s.linkSel = .spi ∨ stopOk = false → exec (.uartSyncByteReceived b stopOk) s = .next s)
        ∧ (s.linkSel = .uart →
          (s.framer = .hunting → b ≠ 0xA7 → exec (.uartSyncByteReceived b true) s = .next s)
          ∧ (s.framer = .hunting → b = 0xA7 → exec (.uartSyncByteReceived b true) s = .next { s with framer := .receiving [0xA7] 0 })
          ∧ ∀ bytes gap whole len, s.framer = .receiving bytes gap → whole = bytes ++ [b] → len = be ((whole.drop 1).take 2) →
              (whole.length < 3 → exec (.uartSyncByteReceived b true) s = .next { s with framer := .receiving whole 0 })
              ∧ (whole.length = 3 → 1024 < len →
                  exec (.uartSyncByteReceived b true) s
                    = .next (s.taken.refuse { kind := 0xFF, tag := 0, code := .frameError, vals := [] }))
              ∧ (3 ≤ whole.length → len ≤ 1024 → whole.length < 7 + len →
                  exec (.uartSyncByteReceived b true) s = .next { s with framer := .receiving whole 0 })
              ∧ (len ≤ 1024 → whole.length = 7 + len → exec (.uartSyncByteReceived b true) s = exec (decodeFrame whole) s))

/-- SPI transfers by their code (R160), and the UART transmitter (R161). A collect gives the refusal slot's reply before the buffer's, and removes
it when it is clocked out to its end. The code 0x01 delivers a frame: the step that its bytes make, while zeros are clocked out; 0x02 collects; 0x03
gives the status byte and changes nothing of the part; any other code clocks out zeros and has no effect. With the UART selected no transfer has an
effect (R159), and the reply whose last byte has left is removed and the other holder's follows. The bytes clocked out are kept in a field of the
model's own, which holds none for what the host clocks on after a reply's last byte (log entry 6, DESIGN CHOICE), the code and the bytes sent are
the operands of READ_LINK_STATUS (log entry 32, DESIGN CHOICE), and REPLY_SENT with nothing in transmission is log entry 11's (DEDUCED). -/
def Obligations.RepliesLeaveTheLink : Prop :=
  (∀ (n : Nat) (s : State), s.linkSel = .spi →
    (∀ r, s.refusal = some r →
      exec (.collectReply n) s
        = .next { s with linkOut := r.frame.take n, refusal := if r.frame.length ≤ n then none else some r })
    ∧ (∀ r, s.refusal = none → s.replyBuf = .ready r →
      exec (.collectReply n) s
        = .next { s with linkOut := r.frame.take n, replyBuf := if r.frame.length ≤ n then .empty else .ready r })
    ∧ (s.refusal = none → (∀ r, s.replyBuf ≠ .ready r) →
      exec (.collectReply n) s = .next { s with linkOut := List.replicate n 0 }))
  ∧ (∀ (code : Byte) (sent : List Byte) (s : State) (zeros : List Byte), s.linkSel = .spi → zeros = List.replicate sent.length 0 →
    (code = 0x01 → exec (.readLinkStatus code sent) s = exec (decodeFrame sent) { s with linkOut := zeros })
    ∧ (code = 0x02 → exec (.readLinkStatus code sent) s = exec (.collectReply sent.length) s)
    ∧ (code = 0x03 →
      ∃ b : Byte, exec (.readLinkStatus code sent) s = .next { s with linkOut := (b :: zeros).take sent.length }
        ∧ b.getLsbD 0 = (s.refusal.isSome || s.replyBuf.isReady) ∧ b.getLsbD 1 = s.attn
        ∧ b.getLsbD 2 = decide (s.phase = .starting) ∧ b.toNat < 8)
    ∧ (code ≠ 0x01 → code ≠ 0x02 → code ≠ 0x03 → exec (.readLinkStatus code sent) s = .next { s with linkOut := zeros }))
  ∧ ∀ s : State, s.linkSel = .uart →
    (∀ n code sent, exec (.collectReply n) s = .next s ∧ exec (.readLinkStatus code sent) s = .next s)
    ∧ (∀ r, s.uartTx = some .slot → s.replyBuf = .ready r →
      exec .replySent s = .next { s with refusal := none, uartTx := some .buffer })
    ∧ (s.uartTx = some .slot → (∀ r, s.replyBuf ≠ .ready r) → exec .replySent s = .next { s with refusal := none, uartTx := none })
    ∧ (s.uartTx = some .buffer →
      exec .replySent s = .next { s with replyBuf := .empty, uartTx := if s.refusal = none then none else some .slot })
    ∧ (s.uartTx = none → exec .replySent s = .next s)

/-- PART_INFO and LINK_STATUS are answered OK in both phases, with the values of R165, and change nothing else (the revision is a free value, log
entry 3). Raising a notice (R166 a, b) makes an entry of its source and kind with count 1, or raises the count to 255 at most, and leaves the
new detail; every other entry is kept, and the attention line follows the new set (R168). TAKE_NOTICES takes the first sixteen entries in taking
order and says how many are left (R167); NOTICE_SET sets the threshold; both recompute the attention line (R168). -/
def Obligations.LinkReportsAndNotices : Prop :=
  (∀ (tag : Byte) (s : State), s.replyBuf = .empty →
      exec (.partInfo tag []) s
          = .next (s.taken.replied 0x01 tag .ok
              ([0x5A, 0x16, Config.revision, if s.linkSel = .uart then 1 else 0, if s.phase = .running then 1 else 0]
                ++ optU8 (s.scan.map (·.visited)) ++ [16, 4, 2, 64, 128]))
        ∧ exec (.linkStatus tag []) s
          = .next (s.taken.replied 0x02 tag .ok
              ([if s.phase = .running then 1 else 0, if s.threshold = .all then 1 else 0, if s.attn then 1 else 0]
                ++ u8 (s.notices.filter fun x => x.kind.isAlert).length ++ u8 (s.notices.filter fun x => !x.kind.isAlert).length)))
  ∧ (∀ (src : Source) (k : NoticeKind) (detail : List Byte) (s : State), s.NoticesOk →
      ((∀ x ∈ s.notices, ¬(x.source = src ∧ x.kind = k)) →
        ({ source := src, kind := k, count := 1, detail := detail } : Notice) ∈ (s.raise src k detail).notices)
      ∧ (∀ x ∈ s.notices, x.source = src → x.kind = k →
        ({ source := src, kind := k, count := min 255 (x.count + 1), detail := detail } : Notice) ∈ (s.raise src k detail).notices)
      ∧ (∀ x, ¬(x.source = src ∧ x.kind = k) → (x ∈ (s.raise src k detail).notices ↔ x ∈ s.notices))
      ∧ (s.raise src k detail).attn = attentionLevel s.threshold (s.raise src k detail).notices)
  ∧ (∀ (tag : Byte) (s : State), s.Accepts →
      exec (.takeNotices tag []) s
          = .next ({ s.taken with
              notices := s.notices.drop 16
              attn := attentionLevel s.threshold (s.notices.drop 16) }.replied 0x03 tag .ok
                (listBytes Notice.bytes (s.notices.take 16) ++ u8 (s.notices.drop 16).length))
        ∧ ∀ (b : Byte),
            (b = 0 ∨ b = 1 → ∀ th, th = (if b = 0 then Threshold.alert else .all) →
              exec (.noticeSet tag [b]) s
                = .next ({ s.taken with threshold := th, attn := attentionLevel th s.notices }.replied 0x04 tag .ok
                    [if attentionLevel th s.notices then 1 else 0]))
            ∧ (b ≠ 0 → b ≠ 1 → exec (.noticeSet tag [b]) s = .next (s.taken.replied 0x04 tag .range [])))

/-! ## The store engine and the flash -/

/-- Requests (R30 to R32): one that meets an idle engine starts at once; one that meets a busy engine joins the queue in place of its requester's own.
A request goes before another by its requester (track engine, bind, host operation, scan), and among track engine reads by need, then auditorium, then
track. Of the waiting requests the engine takes one that none goes before, and of equals the one that joined first; the completion of the operation in
flight, whatever its requester makes of it, ends by starting that request, or leaves the engine idle. A completion of a read that is in flight, of a
track engine, of a bind or of the scan, is always answered so. -/
def Obligations.RequestsAreRanked : Prop :=
  (∀ (s : State) (r : Request),
    (s.flight = none → (s.request r).flight = some { req := r, addr := s.resolve r.op })
      ∧ (s.flight ≠ none → (s.request r).flight = s.flight
          ∧ (s.request r).queue = (s.queue.filter fun x => decide (x.who ≠ r.who)) ++ [r]))
    ∧ (∀ rank : Requester → Nat, (∀ n t, rank (.engine n t) = 1) → (∀ n, rank (.bind n) = 2) → rank .host = 3 → rank .scan = 4 →
      ∀ a b : Request, a.before b = true ↔
        rank a.who < rank b.who
          ∨ ∃ n t m u, a.who = .engine n t ∧ b.who = .engine m u
              ∧ (a.need < b.need ∨ (a.need = b.need ∧ (n < m ∨ (n = m ∧ t < u)))))
    ∧ (∀ s : State,
        (s.queue = [] → s.startNext.flight = none ∧ s.startNext.queue = [])
          ∧ (s.queue ≠ [] → ∃ front r rear, s.queue = front ++ r :: rear
              ∧ (∀ x ∈ front, r.before x = true) ∧ (∀ x ∈ rear, x.before r = false)
              ∧ s.startNext.flight = some { req := r, addr := s.resolve r.op }
              ∧ s.startNext.queue = s.queue.filter fun x => decide (x.who ≠ r.who)))
    ∧ (∀ (i : Instr) (s t : State),
        (∃ errs ok, i ∈ [Instr.fetchReadDone errs, .seekReadDone errs, .bindIndexReadDone errs, .cueReadStepDone errs,
          .loadPageProgramDone ok, .sealStepDone ok, .amendReadDone errs, .amendProgramDone ok, .deleteEraseDone ok,
          .reclaimEraseDone ok, .retireTagProgramDone ok, .retireEraseDone ok, .scanTagReadDone ok, .scanSealReadDone errs]) →
        exec i s = .next t → t ≠ s → s.flight ≠ none ∧ ∃ u : State, u.flight = s.flight ∧ t = u.startNext)
    ∧ ∀ (s : State) (f : Flight) (i : Instr) (errs : Nat) (damaged : Bool), s.flight = some f →
        (i = .fetchReadDone errs ∧ f.req.kind = .fetch ∧ ∃ n k, f.req.who = .engine n k)
          ∨ (i = .seekReadDone errs ∧ f.req.kind = .seek ∧ ∃ n k, f.req.who = .engine n k)
          ∨ (i = .bindIndexReadDone errs ∧ ∃ n, f.req.who = .bind n)
          ∨ (i = .scanTagReadDone damaged ∧ f.req.who = .scan ∧ s.scan ≠ none ∧ ∃ block page, f.req.op = .readTag block page)
          ∨ (i = .scanSealReadDone errs ∧ f.req.who = .scan ∧ s.scan ≠ none ∧ ∃ block page, f.req.op = .readSeal block page) →
        ∃ u : State, exec i s = .next u.startNext

/-- What a step does to the flash: the resets apart, only the completion of a program or an erase changes a page, and only the page or the block that
was being worked on (R25, R30). A successful program, of a load page, a seal, an amendment or a RETIRE tag, leaves the page register's content in the
page; a successful erase, of a delete, a reclaim or the retire procedure, leaves the block erased. That a RETIRE tag whose program failed reads as
unreadable from then on is the model's choice (log entry 5, DESIGN CHOICE): R40 says that the scan will find the block unrecognised, and not what
its page 0 reads as. -/
def Obligations.FlashChangesWhereTheEngineWorks : Prop :=
  ∀ (i : Instr) (s t : State), exec i s = .next t → (∀ b, i ≠ .powerOnReset b ∧ i ≠ .lineReset b) →
    (∀ a, (∀ block page, s.hostProgram = some (block, page) → a ≠ pageAddr block page) →
      (∀ block, s.hostErase = some block → a / 64 ≠ block) → flashGet t.flash a = flashGet s.flash a)
    ∧ (∀ block page op img, s.hostProgram = some (block, page) → s.hostOp = some op → s.pageReg = some img →
        pageAddr block page < 8192 →
        ((∃ id, i = .loadPageProgramDone true ∧ op = .loadPage id)
          ∨ (∃ id k l, i = .sealStepDone true ∧ op = .sealing id k l)
          ∨ (∃ id tr cue pl sp ls b r l g c, i = .amendProgramDone true ∧ op = .amend id tr cue pl sp ls b r (.program l g c))
          ∨ (i = .retireTagProgramDone true ∧ op.retires = true) →
          flashGet t.flash (pageAddr block page) = some (.programmed img.tag img.body))
        ∧ (i = .retireTagProgramDone false → op.retires = true → img.tag.role = .retire →
          ∀ damaged, readTag t.flash (pageAddr block page) damaged = .unreadable))
    ∧ (∀ block op, s.hostErase = some block → s.hostOp = some op →
        ((∃ id b rest n, i = .deleteEraseDone true ∧ op = .delete id b rest n)
          ∨ (∃ b rest k n, i = .reclaimEraseDone true ∧ op = .reclaim b rest k n)
          ∨ (∃ id tr cue pl sp ls b r, i = .retireEraseDone true ∧ op = .amend id tr cue pl sp ls b r .retire)) →
        ∀ a, a / 64 = block → flashGet t.flash a = none)

/-! ## Loading a package -/

/-- PACKAGE_OPEN: the tests of R6 in their order, and the entry that an accepted command makes, in the lowest free id and on the lowest
blank block, with the next serial (R4, R6). -/
def Obligations.PackageOpenMakesTheEntry : Prop :=
  ∀ (tag : Byte) (body : List Byte) (a : OpenArgs) (s : State), s.Accepts → openArgs body = some a →
    (a.checked.isSome = true ↔ 1 ≤ a.title.length ∧ a.title.length ≤ 16 ∧ a.rate.toNat ≤ 5 ∧ 1 ≤ a.duration
      ∧ a.duration ≤ 2147483647 ∧ a.text.length ≤ 4 ∧ a.sound.length ≤ 2 ∧ ∀ d ∈ a.text, d.2.toNat ≤ 1)
    ∧ (a.checked = none → exec (.packageOpen tag body) s = .next (s.taken.replied 0x10 tag .range []))
    ∧ ∀ info, a.checked = some info →
        ((∀ id, id < 64 → s.package id ≠ none) → exec (.packageOpen tag body) s = .next (s.taken.replied 0x10 tag .full []))
        ∧ ∀ id, id < 64 → s.package id = none → (∀ j, j < id → s.package j ≠ none) →
            ((∃ p ∈ s.packages, p.state = .filling) →
              exec (.packageOpen tag body) s = .next (s.taken.replied 0x10 tag .busy []))
            ∧ ((∀ p ∈ s.packages, p.state ≠ .filling) →
                ((∀ b, b < 128 → (s.block b).cls ≠ .blank) →
                  exec (.packageOpen tag body) s = .next (s.taken.replied 0x10 tag .full []))
                ∧ ∀ b, b < 128 → (s.block b).cls = .blank → (∀ c, c < b → (s.block c).cls ≠ .blank) →
                    exec (.packageOpen tag body) s
                      = .next ({ s.taken.modBlock b (fun r => { r with cls := .package, owner := some id }) with
                          packages := insertPackage
                            { id := id, serial := (s.serialHigh + 1) % 65536, state := .filling, info := some info
                              pageCounts := Vector.replicate 4 0, blocks := [b], indexLoc := Vector.replicate 4 none, amend := none
                              protection := .unprotected, binds := 0, map := [] } s.packages
                          serialHigh := (s.serialHigh + 1) % 65536
                          load := some
                            { pkg := id, staging := [], track := none, lastStart := 0, index := Vector.replicate 4 [], handed := 0 }
                          }.replied 0x10 tag .ok (u8 id ++ u16 ((s.serialHigh + 1) % 65536))))

/-- A record that passes the tests of R7 and needs no handover (R10) joins the staging buffer with its track's cue count as its number and its end
tick clamped to 36,000 ticks after its start (R8); the first record of a page opens it and adds an index entry (R11). The result among the four
values beside the reply code is log entry 22's layout (DESIGN CHOICE). -/
def Obligations.CueAppendStagesARecord : Prop :=
  ∀ (tag id : Byte) (recs : List Byte) (r : RawRecord) (s : State) (p : Package) (info : PkgInfo) (l : Load) (x : CueText)
    (t : TextTrack),
    s.Accepts → rawRecords recs.length recs = some [r] → s.package id.toNat = some p → p.state = .filling → p.info = some info →
    s.load = some l → l.pkg = id.toNat → r.track = t.val → t.val < info.text.length →
    checkedText r.placement r.speaker r.lines = some x → r.startTick < info.duration → r.endTick ≤ 2147483647 →
    r.startTick < r.endTick → info.cueCounts.get t < 65536 → (∀ c, l.track = some c → c.val ≤ t.val) →
    (l.track = some t → l.lastStart ≤ r.startTick) →
    (l.staging ≠ [] → l.track = some t ∧ l.staging.length + (13 + linesSize x.lines) ≤ 1024) →
    ∀ cue : Cue,
      cue = { number := info.cueCounts.get t, startTick := r.startTick, endTick := min r.endTick (r.startTick + 36000)
              placement := x.placement, speaker := x.speaker, lines := x.lines } →
      exec (.cueAppend tag (id :: recs)) s
        = .next ((({ s.taken with
              load := some
                { l with
                  staging := l.staging ++ cue.stored, track := some t, lastStart := r.startTick
                  index := if l.staging = [] then
                      l.index.set t.val (l.index.get t
                        ++ [{ logical := l.handed, firstCue := info.cueCounts.get t, firstStart := r.startTick }]) t.isLt
                    else l.index } } : State).modPackage id.toNat fun q =>
              { q with
                info := q.info.map fun i => { i with cueCounts := i.cueCounts.set t.val (i.cueCounts.get t + 1) t.isLt }
                pageCounts := if l.staging = [] then q.pageCounts.set t.val (q.pageCounts.get t + 1) t.isLt
                  else q.pageCounts }).replied 0x11 tag .ok
            (u8 1 ++ u16 (info.cueCounts.get t) ++ u8 0 ++ u8 (if r.startTick + 36000 < r.endTick then 1 else 0)))

/-- A record that needs a handover (R10): the refusals of R12 in their order, each of which leaves the load as it is; and the handover of the staged
page to the page register, its load page program taking the next page of the last block or page 0 of the lowest blank one, the record, clamped as R8
says, opening the next page (R10, R11, R33). The four values of a refusal are log entry 22's layout (DESIGN CHOICE), and the cue number of a reply
that accepted none is a free value (log entry 4). -/
def Obligations.CueAppendHandsThePageOver : Prop :=
  ∀ (tag id : Byte) (recs : List Byte) (r : RawRecord) (s : State) (p : Package) (info : PkgInfo) (l : Load) (x : CueText)
    (t c : TextTrack),
    s.Accepts → rawRecords recs.length recs = some [r] → s.package id.toNat = some p → p.state = .filling → p.info = some info →
    s.load = some l → l.pkg = id.toNat → r.track = t.val → t.val < info.text.length →
    checkedText r.placement r.speaker r.lines = some x → r.startTick < info.duration → r.endTick ≤ 2147483647 →
    r.startTick < r.endTick → info.cueCounts.get t < 65536 → l.track = some c → c.val ≤ t.val →
    (c = t → l.lastStart ≤ r.startTick) → l.staging ≠ [] →
    (c ≠ t ∨ 1024 < l.staging.length + (13 + linesSize x.lines)) →
    ∀ full : Bool, full = decide (s.pagesUsed p.lastBlock = 64) →
      (∀ code : Code,
        (512 ≤ p.pageCounts.get t ∧ code = .full)
          ∨ (p.pageCounts.get t < 512 ∧ s.swi = true ∧ code = .guarded)
          ∨ (p.pageCounts.get t < 512 ∧ s.swi = false ∧ s.slot ≠ none ∧ code = .busy)
          ∨ (p.pageCounts.get t < 512 ∧ s.swi = false ∧ s.slot = none ∧ full = true ∧ (64 ≤ p.blocks.length ∨ s.pool = [])
              ∧ code = .full) →
        exec (.cueAppend tag (id :: recs)) s
          = .next ({ s.taken with free := s.free + 1 }.replied 0x11 tag code
              (u8 0 ++ u16 (Config.meaninglessCueNumber s.free).toNat ++ u8 code.code ++ u8 0)))
      ∧ ∀ (block page : Nat), p.pageCounts.get t < 512 → s.swi = false → s.slot = none →
          (full = false ∧ block = p.lastBlock ∧ page = (s.block block).nextPage)
            ∨ (full = true ∧ p.blocks.length < 64 ∧ s.lowestBlank = some block ∧ (s.block block).nextPage = 0 ∧ page = 0) →
          ∃ u, exec (.cueAppend tag (id :: recs)) s = .next u
            ∧ u.slot = some { op := .loadPage id.toNat, waiting := none }
            ∧ u.pageReg = some
                { tag := { role := .data, pkg := id.toNat, serial := p.serial, logical := l.handed, track := c.val, generation := 0 }
                  body := .bytes l.staging }
            ∧ (s.flight = none → u.flight = some { req := hostRequest (.program block page), addr := pageAddr block page })
            ∧ (s.flight ≠ none → u.flight = s.flight ∧ hostRequest (.program block page) ∈ u.queue)
            ∧ (∀ cue : Cue,
                cue = { number := info.cueCounts.get t, startTick := r.startTick, endTick := min r.endTick (r.startTick + 36000)
                        placement := x.placement, speaker := x.speaker, lines := x.lines } →
                u.load = some
                  { pkg := id.toNat, staging := cue.stored, track := some t, lastStart := r.startTick
                    index := l.index.set t.val (l.index.get t
                      ++ [{ logical := l.handed + 1, firstCue := info.cueCounts.get t, firstStart := r.startTick }]) t.isLt
                    handed := l.handed + 1 })
            ∧ (∃ q, u.package id.toNat = some q ∧ q.blocks = (if full then p.blocks ++ [block] else p.blocks)
                ∧ q.pageCounts.get t = p.pageCounts.get t + 1)
            ∧ (full = true → (u.block block).cls = .package ∧ (u.block block).owner = some id.toNat)
            ∧ (∃ vals, u.replyBuf = .ready { kind := 0x91, tag := tag, code := .ok, vals := vals })
            ∧ u.flash = s.flash ∧ u.auds = s.auds ∧ u.notices = s.notices

/-- CUE_APPEND as a command and as a batch (R7, R9): an unknown package, one without an open load, and a batch of none or more than 16 records
refuse the whole batch, with the result code alone (R171); a first record that meets a case of R7 a to e is refused with its code and the four
values, whatever follows it; a batch of several records acts as its first record alone and then, where that was accepted, as the rest, the counts
adding up, and where it was refused, as that record alone. The result among the four values beside the reply code is log entry 22's layout (DESIGN
CHOICE), and the cue number of a reply that accepted none is a free value (log entry 4). -/
def Obligations.CueAppendRunsItsBatch : Prop :=
  ∀ (tag id : Byte) (recs : List Byte) (rs : List RawRecord) (s : State), s.Accepts → rawRecords recs.length recs = some rs →
    (∀ code : Code,
      (s.package id.toNat = none ∧ code = .noSuch)
        ∨ (∃ p, s.package id.toNat = some p ∧ (p.state ≠ .filling ∨ ∀ l, s.load = some l → l.pkg ≠ id.toNat) ∧ code = .state)
        ∨ (∃ p l, s.package id.toNat = some p ∧ p.state = .filling ∧ s.load = some l ∧ l.pkg = id.toNat
            ∧ (rs = [] ∨ 16 < rs.length) ∧ code = .range) →
      exec (.cueAppend tag (id :: recs)) s = .next (s.taken.replied 0x11 tag code []))
    ∧ (∀ code : Code,
      (∃ p info l r rest, s.package id.toNat = some p ∧ p.state = .filling ∧ p.info = some info ∧ s.load = some l
            ∧ l.pkg = id.toNat ∧ rs = r :: rest ∧ rs.length ≤ 16 ∧ info.text.length ≤ 4
            ∧ ((info.text.length ≤ r.track ∧ code = .range)
              ∨ ∃ t : TextTrack, r.track = t.val ∧ t.val < info.text.length
                ∧ ((∃ c, l.track = some c ∧ t.val < c.val ∧ code = .order)
                  ∨ ((∀ c, l.track = some c → c.val ≤ t.val)
                    ∧ (((checkedText r.placement r.speaker r.lines = none ∨ info.duration ≤ r.startTick ∨ 2147483647 < r.endTick
                          ∨ r.endTick ≤ r.startTick) ∧ code = .range)
                      ∨ ((checkedText r.placement r.speaker r.lines).isSome = true ∧ r.startTick < info.duration
                        ∧ r.endTick ≤ 2147483647 ∧ r.startTick < r.endTick
                        ∧ ((l.track = some t ∧ r.startTick < l.lastStart ∧ code = .order)
                          ∨ ((l.track = some t → l.lastStart ≤ r.startTick) ∧ 65536 ≤ info.cueCounts.get t ∧ code = .full)))))))) →
      exec (.cueAppend tag (id :: recs)) s
        = .next ({ s.taken with free := s.free + 1 }.replied 0x11 tag code
            (u8 0 ++ u16 (Config.meaninglessCueNumber s.free).toNat ++ u8 code.code ++ u8 0)))
    ∧ ∀ (r : RawRecord) (rest : List RawRecord) (recs1 recs2 : List Byte) (u : State), rs = r :: rest → rs.length ≤ 16 →
        rawRecords recs1.length recs1 = some [r] → rawRecords recs2.length recs2 = some rest →
        exec (.cueAppend tag (id :: recs1)) s = .next u →
        (∀ code vals, u.replyBuf = .ready { kind := 0x91, tag := tag, code := code, vals := vals } → code ≠ .ok →
          exec (.cueAppend tag (id :: recs)) s = .next u)
        ∧ ∀ (k c a f c' : Nat) (code : Code) (v : State), rest ≠ [] → a < 16 → c ≤ 1 → c' < 16 →
            u.replyBuf = .ready { kind := 0x91, tag := tag, code := .ok, vals := u8 1 ++ u16 k ++ u8 0 ++ u8 c } →
            exec (.cueAppend tag (id :: recs2)) { u with replyBuf := .empty, uartTx := s.uartTx } = .next v →
            v.replyBuf = .ready { kind := 0x91, tag := tag, code := code, vals := u8 a ++ u16 f ++ u8 code.code ++ u8 c' } →
            exec (.cueAppend tag (id :: recs)) s
              = .next { v with
                  free := u.free
                  replyBuf := .ready
                    { kind := 0x91, tag := tag, code := code, vals := u8 (a + 1) ++ u16 k ++ u8 code.code ++ u8 (c + c') } }

/-- A load page program and a seal's program (R13, R15, R39): a failure makes the package FAILED, ends the load, empties the slot, marks the block and
raises STORE_FAIL; a load page that is programmed empties the slot and raises nothing. A program of a seal before the last is followed by that of
the seal's next page, in the next unprogrammed page along the block list, or by the wait on SWI (R15, R41); the last makes the package READY, each
track's index pages lying after the data pages and those of the tracks before it, raises STORE_DONE and empties the slot. The load of a seal is the
one that the seal keeps; a load that another package has begun meanwhile stays as it is (log entry 38, DEDUCED). That a track without INDEX pages
has no location is log entry 25's (DEDUCED). -/
def Obligations.LoadAndSealProgramsEnd : Prop :=
  ∀ (s : State) (block page id : Nat) (p : Package), s.hostProgram = some (block, page) → block < 128 → s.package id = some p →
    (∀ l, s.load = some l → l.pkg = id → s.hostOp = some (.loadPage id) →
      (∃ t, exec (.loadPageProgramDone true) s = .next t ∧ t.slot = none ∧ t.pageReg = none ∧ t.notices = s.notices
        ∧ t.load = s.load ∧ t.packages = s.packages ∧ (t.block block).nextPage = page + 1)
      ∧ ∃ t, exec (.loadPageProgramDone false) s = .next t ∧ t.slot = none ∧ t.load = none
          ∧ t.package id = some { p with state := .failed } ∧ (t.block block).marked = true
          ∧ (t.block block).nextPage = page + 1 ∧ t.notices = addNotice .store .storeFail (u8 id ++ [0, 0]) s.notices)
    ∧ ∀ (info : PkgInfo) (step : Nat) (l : Load), p.info = some info → s.hostOp = some (.sealing id step l) →
        (∃ t, exec (.sealStepDone false) s = .next t ∧ t.slot = none ∧ t.pageReg = none ∧ t.load = s.load
          ∧ t.package id = some { p with state := .failed } ∧ (t.block block).marked = true
          ∧ (t.block block).nextPage = page + 1 ∧ t.notices = addNotice .store .storeFail (u8 id ++ [1, 0]) s.notices)
        ∧ (∀ (data : Nat) (count : TextTrack → Nat) (loc : Vector (Option IndexLoc) 4),
            data = l.handed + (if l.staging = [] then 0 else 1) → (∀ k, count k = ((l.index.get k).length + 127) / 128) →
            loc = #v[if count 0 = 0 then none else some { first := data, count := count 0 },
                     if count 1 = 0 then none else some { first := data + count 0, count := count 1 },
                     if count 2 = 0 then none else some { first := data + count 0 + count 1, count := count 2 },
                     if count 3 = 0 then none else some { first := data + count 0 + count 1 + count 2, count := count 3 }] →
            step + 1 = (sealPages p info l).length →
            ∃ t, exec (.sealStepDone true) s = .next t ∧ t.slot = none ∧ t.pageReg = none ∧ t.load = s.load
              ∧ t.package id = some { p with state := .ready, indexLoc := loc }
              ∧ t.notices = addNotice .store .storeDone (u8 id ++ [1]) s.notices)
        ∧ (step + 1 < (sealPages p info l).length →
            ∀ b q, (p.blocks.find? fun x => decide (((s.programmed block page true).block x).nextPage < 64)) = some b →
              q = ((s.programmed block page true).block b).nextPage →
              ∃ t, exec (.sealStepDone true) s = .next t ∧ t.pageReg = (sealPages p info l)[step + 1]? ∧ t.package id = some p
                ∧ t.load = s.load ∧ t.notices = s.notices ∧ s.GoesOnWith t (.sealing id (step + 1) l) (.program b q) (pageAddr b q))

/-- PACKAGE_SEAL: the tests of R14 in their order, and the acceptance: the package goes to SEALING with the blank blocks it will need, and its seal is
the host store operation, which keeps the load; its first page is in the page register, and its program takes the next unprogrammed page along the
block list (R14, R15, R33). A seal's pages are the staged page, if any, each track's index pages of 128 entries, and the seal page with the
fields of the entry (R15, R33). That the seal keeps the load in the slot from its acceptance on, no load being in progress then, is log entry 38's
(DEDUCED), and that the seal page holds the fields themselves, for want of a byte layout, log entry 30's (DESIGN CHOICE). -/
def Obligations.PackageSealIsAccepted : Prop :=
  (∀ (p : Package) (info : PkgInfo) (l : Load),
    sealPages p info l
      = (if l.staging = [] then [] else
          [{ tag := { role := .data, pkg := l.pkg, serial := p.serial, logical := l.handed, track := (l.track.map (·.val)).getD 0
                      generation := 0 }
             body := .bytes l.staging }])
        ++ (([0, 1, 2, 3] : List TextTrack).flatMap fun k => (List.range (((l.index.get k).length + 127) / 128)).map fun o =>
          { tag := { role := .index, pkg := l.pkg, serial := p.serial, logical := o, track := k.val, generation := 0 }
            body := .bytes ((((l.index.get k).drop (128 * o)).take 128).flatMap fun en =>
              u16 en.logical ++ u16 en.firstCue ++ u32 en.firstStart) })
        ++ [{ tag := { role := .seal, pkg := p.id, serial := p.serial, logical := 0, track := 0, generation := 0 }
              body := .sealed info p.pageCounts }])
  ∧ ∀ (tag id : Byte) (s : State), s.Accepts →
    (s.package id.toNat = none → exec (.packageSeal tag [id]) s = .next (s.taken.replied 0x12 tag .noSuch []))
    ∧ ∀ p, s.package id.toNat = some p →
        (p.state ≠ .filling ∨ (∀ l, s.load = some l → l.pkg ≠ id.toNat) →
          exec (.packageSeal tag [id]) s = .next (s.taken.replied 0x12 tag .state []))
        ∧ ∀ l, s.load = some l → l.pkg = id.toNat → p.state = .filling →
            (s.swi = true → exec (.packageSeal tag [id]) s = .next (s.taken.replied 0x12 tag .guarded []))
            ∧ (s.swi = false → s.slot ≠ none → exec (.packageSeal tag [id]) s = .next (s.taken.replied 0x12 tag .busy []))
            ∧ ∀ needs left : Nat,
                needs = (if l.staging = [] then 0 else 1) + (((l.index.get 0).length + 127) / 128
                  + (((l.index.get 1).length + 127) / 128 + (((l.index.get 2).length + 127) / 128
                  + ((l.index.get 3).length + 127) / 128))) + 1 →
                left = (if (s.block p.lastBlock).marked then 0 else 64 - (s.block p.lastBlock).nextPage) →
                s.swi = false → s.slot = none →
                (left + 64 * min s.pool.length (64 - p.blocks.length) < needs →
                  exec (.packageSeal tag [id]) s = .next (s.taken.replied 0x12 tag .full []))
                ∧ (needs ≤ left + 64 * min s.pool.length (64 - p.blocks.length) →
                    ∃ t, exec (.packageSeal tag [id]) s = .next t
                      ∧ t.replyBuf = .ready { kind := 0x92, tag := tag, code := .accepted, vals := [] }
                      ∧ t.package id.toNat
                          = some { p with state := .sealing, blocks := p.blocks ++ s.pool.take ((needs - left + 63) / 64) }
                      ∧ (∀ b ∈ s.pool.take ((needs - left + 63) / 64), (t.block b).cls = .package
                          ∧ (t.block b).owner = some id.toNat)
                      ∧ t.slot = some { op := .sealing id.toNat 0 l, waiting := none } ∧ t.load = none ∧ t.flash = s.flash
                      ∧ ∀ info b q, p.info = some info →
                          ((p.blocks ++ s.pool.take ((needs - left + 63) / 64)).find? fun x => decide ((s.block x).nextPage < 64))
                            = some b → q = (s.block b).nextPage →
                          t.pageReg = (sealPages p info l)[0]?
                          ∧ (s.flight = none → t.flight = some { req := hostRequest (.program b q), addr := pageAddr b q })
                          ∧ (s.flight ≠ none → t.flight = s.flight ∧ hostRequest (.program b q) ∈ t.queue))

/-! ## Protecting, deleting and reporting -/

/-- PACKAGE_PROTECT: the tests of R20 in their order; FIRM cannot be lowered by a command. PACKAGE_DELETE: the tests of R22 in their order, and the
acceptance: the package is DELETING, its load has ended, and the first block of its list is being erased or waits for the engine (R22, R23). -/
def Obligations.ProtectionAndDeletion : Prop :=
  (∀ (tag id level : Byte) (s : State), s.Accepts →
      (s.package id.toNat = none → exec (.packageProtect tag [id, level]) s = .next (s.taken.replied 0x14 tag .noSuch []))
      ∧ ∀ p, s.package id.toNat = some p →
          (2 < level.toNat → exec (.packageProtect tag [id, level]) s = .next (s.taken.replied 0x14 tag .range []))
          ∧ ∀ pr, Protection.code pr = level.toNat →
              (p.state ≠ .ready → exec (.packageProtect tag [id, level]) s = .next (s.taken.replied 0x14 tag .state []))
              ∧ (p.state = .ready → p.protection = .firm → pr ≠ .firm →
                  exec (.packageProtect tag [id, level]) s = .next (s.taken.replied 0x14 tag .guarded []))
              ∧ (p.state = .ready → (p.protection = .firm → pr = .firm) →
                  exec (.packageProtect tag [id, level]) s
                    = .next ((s.taken.modPackage id.toNat fun q => { q with protection := pr }).replied 0x14 tag .ok [])))
  ∧ (∀ (tag id : Byte) (s : State), s.Accepts →
      (s.package id.toNat = none → exec (.packageDelete tag [id]) s = .next (s.taken.replied 0x13 tag .noSuch []))
      ∧ ∀ p, s.package id.toNat = some p →
          ((p.state = .sealing ∨ p.state = .deleting) →
            exec (.packageDelete tag [id]) s = .next (s.taken.replied 0x13 tag .state []))
          ∧ (p.state ≠ .sealing → p.state ≠ .deleting →
              (0 < p.binds → exec (.packageDelete tag [id]) s = .next (s.taken.replied 0x13 tag .bound []))
              ∧ (p.binds = 0 → p.protection ≠ .unprotected ∨ s.swi = true →
                  exec (.packageDelete tag [id]) s = .next (s.taken.replied 0x13 tag .guarded []))
              ∧ (p.binds = 0 → p.protection = .unprotected → s.swi = false → s.slot ≠ none →
                  exec (.packageDelete tag [id]) s = .next (s.taken.replied 0x13 tag .busy []))
              ∧ (p.binds = 0 → p.protection = .unprotected → s.swi = false → s.slot = none →
                  ∀ b rest, p.blocks ++ p.amend.toList = b :: rest →
                    ∃ t, exec (.packageDelete tag [id]) s = .next t
                      ∧ t.replyBuf = .ready { kind := 0x93, tag := tag, code := .accepted, vals := [] }
                      ∧ t.package id.toNat = some { p with state := .deleting }
                      ∧ (∀ l, t.load = some l → l.pkg ≠ id.toNat)
                      ∧ t.slot = some { op := .delete id.toNat b rest 0, waiting := none }
                      ∧ (s.flight = none → t.flight = some { req := hostRequest (.erase b), addr := b })
                      ∧ (s.flight ≠ none → t.flight = s.flight ∧ hostRequest (.erase b) ∈ t.queue)
                      ∧ t.flash = s.flash ∧ t.blocks = s.blocks ∧ t.notices = s.notices)))

/-- DELETE_ERASE_DONE and RECLAIM_ERASE_DONE: an unmarked block whose erase succeeds is blank again, and the operation goes on with the erase of the
next block or ends with STORE_DONE; a failed or marked block is given a RETIRE tag, programmed into its page 0 (R23, R39, R40, R42). With SWI active
the erase or the program is not requested, and the operation waits (R41). -/
def Obligations.ErasesFreeOrRetireBlocks : Prop :=
  ∀ (s : State) (block b : Nat) (rest : List Nat) (k m : Nat) (ok : Bool), s.hostErase = some block → block < 128 →
    (∀ id, s.slot = some { op := .delete id b rest m, waiting := none } →
      (ok = true → (s.block block).marked = false →
        ∃ t, exec (.deleteEraseDone ok) s = .next t
          ∧ t.block block = { cls := .blank, owner := none, nextPage := 0, marked := false }
          ∧ (rest = [] → t.package id = none ∧ t.slot = none
              ∧ t.notices = addNotice .store .storeDone (u8 id ++ [3] ++ u8 m) s.notices)
          ∧ (∀ c cs, rest = c :: cs → t.packages = s.packages ∧ t.notices = s.notices
              ∧ s.GoesOnWith t (.delete id c cs m) (.erase c) c))
      ∧ (ok = false ∨ (s.block block).marked = true →
        ∃ t, exec (.deleteEraseDone ok) s = .next t ∧ (t.block block).cls = (s.block block).cls ∧ (t.block block).nextPage = 0
          ∧ t.pageReg = some retireImage ∧ t.packages = s.packages ∧ t.notices = s.notices
          ∧ s.GoesOnWith t (.delete id b rest m) (.program block 0) (pageAddr block 0)))
    ∧ (s.slot = some { op := .reclaim b rest k m, waiting := none } →
      (ok = true → (s.block block).marked = false →
        ∃ t, exec (.reclaimEraseDone ok) s = .next t
          ∧ t.block block = { cls := .blank, owner := none, nextPage := 0, marked := false } ∧ t.packages = s.packages
          ∧ (rest = [] → t.slot = none ∧ t.notices = addNotice .store .storeDone ([4] ++ u8 (k + 1) ++ u8 m) s.notices)
          ∧ (∀ c cs, rest = c :: cs → t.notices = s.notices ∧ s.GoesOnWith t (.reclaim c cs (k + 1) m) (.erase c) c))
      ∧ (ok = false ∨ (s.block block).marked = true →
        ∃ t, exec (.reclaimEraseDone ok) s = .next t ∧ (t.block block).cls = (s.block block).cls ∧ (t.block block).nextPage = 0
          ∧ t.pageReg = some retireImage ∧ t.packages = s.packages ∧ t.notices = s.notices
          ∧ s.GoesOnWith t (.reclaim b rest k m) (.program block 0) (pageAddr block 0)))

/-- The retire procedure (R40, R38 b): a RETIRE tag that is programmed makes its block retired and one that fails makes it unknown, either
way without owner and mark; a delete and a reclaim then go on with the erase of the next block or end, counting the retired block only; a failed
amendment ends. The fresh erase of a reserved block, whatever its outcome, is followed by the program of the RETIRE tag. With SWI active the next
erase or program is not requested, and the operation waits (R41). -/
def Obligations.RetireProcedureEnds : Prop :=
  ∀ (s : State) (ok : Bool) (block : Nat), block < 128 →
    (∀ page, s.hostProgram = some (block, page) →
      ∃ t, exec (.retireTagProgramDone ok) s = .next t
        ∧ (∀ op, s.hostOp = some op → op.retires = true →
          (t.block block).cls = (if ok then .retired else .unknown) ∧ (t.block block).owner = none ∧ (t.block block).marked = false)
        ∧ (∀ id b n, s.hostOp = some (.delete id b [] n) →
            t.package id = none ∧ t.slot = none
              ∧ t.notices = addNotice .store .storeDone (u8 id ++ [3] ++ u8 (n + if ok then 1 else 0)) s.notices)
        ∧ (∀ id b c cs n, s.hostOp = some (.delete id b (c :: cs) n) →
            t.packages = s.packages ∧ t.notices = s.notices
              ∧ s.GoesOnWith t (.delete id c cs (n + if ok then 1 else 0)) (.erase c) c)
        ∧ (∀ b k n, s.hostOp = some (.reclaim b [] k n) →
            t.slot = none ∧ t.packages = s.packages
              ∧ t.notices = addNotice .store .storeDone ([4] ++ u8 k ++ u8 (n + if ok then 1 else 0)) s.notices)
        ∧ (∀ b c cs k n, s.hostOp = some (.reclaim b (c :: cs) k n) →
            t.packages = s.packages ∧ t.notices = s.notices
              ∧ s.GoesOnWith t (.reclaim c cs k (n + if ok then 1 else 0)) (.erase c) c)
        ∧ (∀ id tr cue pl sp ls b r, s.hostOp = some (.amend id tr cue pl sp ls b r .retire) →
            t.slot = none ∧ t.packages = s.packages ∧ t.notices = s.notices))
    ∧ (∀ id tr cue pl sp ls b r, s.hostErase = some block →
        s.slot = some { op := .amend id tr cue pl sp ls b r .retire, waiting := none } →
        ∃ t, exec (.retireEraseDone ok) s = .next t ∧ (t.block block).nextPage = 0 ∧ t.pageReg = some retireImage
          ∧ t.packages = s.packages ∧ t.notices = s.notices
          ∧ s.GoesOnWith t (.amend id tr cue pl sp ls b r .retire) (.program block 0) (pageAddr block 0))

/-- STORE_RECLAIM: the tests of R42 in their order; with unknown blocks the lowest is being erased or waits for the engine, the others following in
ascending order, and with none STORE_DONE is raised at once with both numbers 0 (R42). -/
def Obligations.StoreReclaimIsAccepted : Prop :=
  ∀ (tag : Byte) (s : State), s.Accepts →
    (s.swi = true → exec (.storeReclaim tag []) s = .next (s.taken.replied 0x21 tag .guarded []))
    ∧ (s.swi = false → s.slot ≠ none → exec (.storeReclaim tag []) s = .next (s.taken.replied 0x21 tag .busy []))
    ∧ (s.swi = false → s.slot = none →
        ((∀ b, b < 128 → (s.block b).cls ≠ .unknown) →
          exec (.storeReclaim tag []) s
            = .next (({ s.taken.raise .store .storeDone [4, 0, 0] with pageReg := none, slot := none } : State).replied
                0x21 tag .accepted []))
        ∧ ∀ b, b < 128 → (s.block b).cls = .unknown → (∀ c, c < b → (s.block c).cls ≠ .unknown) →
            ∃ t rest, exec (.storeReclaim tag []) s = .next t
              ∧ t.replyBuf = .ready { kind := 0xA1, tag := tag, code := .accepted, vals := [] }
              ∧ t.slot = some { op := .reclaim b rest 0 0, waiting := none }
              ∧ (∀ c, c ∈ rest ↔ b < c ∧ c < 128 ∧ (s.block c).cls = .unknown) ∧ rest.Pairwise (fun c d => c < d)
              ∧ (s.flight = none → t.flight = some { req := hostRequest (.erase b), addr := b })
              ∧ (s.flight ≠ none → t.flight = s.flight ∧ hostRequest (.erase b) ∈ t.queue)
              ∧ t.flash = s.flash ∧ t.blocks = s.blocks ∧ t.packages = s.packages ∧ t.notices = s.notices)

/-- PACKAGE_INFO, PACKAGE_LIST and STORE_INFO are answered at once and change nothing else (R24, R43). PACKAGE_INFO carries every field of the entry
in the order of R2, PACKAGE_LIST a summary of each entry in ascending id, STORE_INFO the number of blocks of each class, which sum to 128, the
number of marked blocks, the slot, the wait on SWI and the level of SWI. The layout of the values, the counts of all four tracks and the numbers
of tracks 0 of an entry whose descriptions are absent are log entry 22's (DESIGN CHOICE). -/
def Obligations.StoreReportsChangeNothing : Prop :=
  ∀ (tag id : Byte) (s : State), s.Accepts →
    (s.package id.toNat = none → exec (.packageInfo tag [id]) s = .next (s.taken.replied 0x15 tag .noSuch []))
    ∧ (∀ (p : Package) (tracks : List TextTrack) (title rate duration text sound cues : List Byte), s.package id.toNat = some p →
        (∀ i, p.info = some i →
          tracks = [0, 1, 2, 3].filter (fun t => decide (t.val < i.text.length))
            ∧ title = [1] ++ u8 i.title.length ++ i.title ∧ rate = [1] ++ u8 i.rate.code ∧ duration = [1] ++ u32 i.duration
            ∧ text = [1] ++ u8 i.text.length ++ i.text.flatMap (fun d => d.label ++ u8 d.kind.code)
            ∧ sound = [1] ++ u8 i.sound.length ++ i.sound.flatMap (fun l => l)
            ∧ cues = [1] ++ u8 tracks.length ++ tracks.flatMap (fun t => u32 (i.cueCounts.get t))) →
        (p.info = none →
          tracks = [0, 1, 2, 3] ∧ title = [0, 0] ∧ rate = [0, 0] ∧ duration = [0, 0, 0, 0, 0] ∧ text = [0, 0] ∧ sound = [0, 0]
            ∧ cues = [0, 0]) →
        exec (.packageInfo tag [id]) s
          = .next (s.taken.replied 0x15 tag .ok
              (u8 p.id ++ title ++ u16 p.serial ++ rate ++ duration ++ text ++ sound ++ u8 p.state.code ++ cues
                ++ (u8 tracks.length ++ tracks.flatMap fun t => u16 (p.pageCounts.get t))
                ++ (u8 p.blocks.length ++ p.blocks.flatMap u8)
                ++ (u8 tracks.length ++ tracks.flatMap fun t => match p.indexLoc.get t with
                    | some l => [1] ++ u16 l.first ++ u8 l.count
                    | none => [0, 0, 0, 0])
                ++ (match p.amend with
                    | some b => [1] ++ u8 b
                    | none => [0, 0])
                ++ u8 p.protection.code ++ u8 p.binds)))
    ∧ exec (.packageList tag []) s
        = .next (s.taken.replied 0x16 tag .ok (u8 s.packages.length ++ s.packages.flatMap fun p =>
            u8 p.id ++ u8 p.state.code ++ u16 p.serial
              ++ (match p.info with
                  | some i => [1] ++ u8 i.rate.code
                  | none => [0, 0])
              ++ u8 p.protection.code ++ u8 p.binds
              ++ (match p.info with
                  | some i => u8 i.text.length ++ u8 i.sound.length
                  | none => [0, 0])))
    ∧ ∀ count : BlockClass → Nat, (∀ c, count c = ((List.range 128).filter fun b => decide ((s.block b).cls = c)).length) →
        count .blank + count .package + count .amend + count .retired + count .unknown = 128
        ∧ exec (.storeInfo tag []) s
            = .next (s.taken.replied 0x20 tag .ok
                (u8 (count .blank) ++ u8 (count .package) ++ u8 (count .amend) ++ u8 (count .retired) ++ u8 (count .unknown)
                  ++ u8 ((List.range 128).filter fun b => (s.block b).marked).length
                  ++ (match s.slot with
                      | some h => [1, 1] ++ u8 h.op.code ++ flag h.waiting.isSome
                      | none => [0, 0, 0, 0])
                  ++ flag s.swi))

/-! ## Amending and reading cues -/

/-- CUE_AMEND: the tests of R17 in their order, and the acceptance: an amend block is reserved where the package has none, and the track's
first index page is read (R17, R36). -/
def Obligations.CueAmendIsAccepted : Prop :=
  ∀ (tag id tr c1 c0 pl sp n : Byte) (rest : List Byte) (raw : List RawLine) (s : State) (body : List Byte), s.Accepts →
    body = id :: tr :: c1 :: c0 :: pl :: sp :: n :: rest → rawLines n.toNat rest = some (raw, []) →
    (s.package id.toNat = none → exec (.cueAmend tag body) s = .next (s.taken.replied 0x17 tag .noSuch []))
    ∧ ∀ p, s.package id.toNat = some p →
        (p.state ≠ .ready → exec (.cueAmend tag body) s = .next (s.taken.replied 0x17 tag .state []))
        ∧ (p.state = .ready → p.protection ≠ .unprotected → exec (.cueAmend tag body) s = .next (s.taken.replied 0x17 tag .guarded []))
        ∧ (p.state = .ready → p.protection = .unprotected →
            (p.textCount ≤ tr.toNat ∨ 4 ≤ tr.toNat ∨ checkedText pl sp raw = none →
              exec (.cueAmend tag body) s = .next (s.taken.replied 0x17 tag .range []))
            ∧ ∀ (t : TextTrack) (x : CueText), tr.toNat = t.val → t.val < p.textCount → checkedText pl sp raw = some x →
                ∀ cue, cue = be [c1, c0] →
                  (p.cues t ≤ cue → exec (.cueAmend tag body) s = .next (s.taken.replied 0x17 tag .noSuch []))
                  ∧ (cue < p.cues t → s.swi = true → exec (.cueAmend tag body) s = .next (s.taken.replied 0x17 tag .guarded []))
                  ∧ (cue < p.cues t → s.swi = false → s.slot ≠ none →
                      exec (.cueAmend tag body) s = .next (s.taken.replied 0x17 tag .busy []))
                  ∧ (cue < p.cues t → s.swi = false → s.slot = none → s.noAmendPage p = true →
                      exec (.cueAmend tag body) s = .next (s.taken.replied 0x17 tag .full []))
                  ∧ (cue < p.cues t → s.swi = false → s.slot = none → s.noAmendPage p = false →
                      ∃ u block, exec (.cueAmend tag body) s = .next u
                        ∧ u.replyBuf = .ready { kind := 0x97, tag := tag, code := .accepted, vals := [] }
                        ∧ u.slot = some
                            { op := .amend id.toNat t cue x.placement x.speaker x.lines block p.amend.isNone (.readIndex 0 none)
                              waiting := none }
                        ∧ (∀ b, p.amend = some b → block = b ∧ u.blocks = s.blocks)
                        ∧ (p.amend = none → (s.block block).cls = .blank ∧ (∀ b, b < block → (s.block b).cls ≠ .blank)
                            ∧ (u.block block).cls = .amend ∧ (u.block block).owner = some id.toNat)
                        ∧ u.packages = s.packages ∧ u.flash = s.flash ∧ u.notices = s.notices
                        ∧ ∀ loc b, p.indexLoc.get t = some loc → p.blocks[loc.first / 64]? = some b →
                            (s.flight = none → u.flight = some
                                { req := hostRequest (.readPosition id.toNat loc.first), addr := pageAddr b (loc.first % 64) })
                            ∧ (s.flight ≠ none → u.flight = s.flight ∧ hostRequest (.readPosition id.toNat loc.first) ∈ u.queue)))

/-- AMEND_READ_DONE (R36 steps 1 to 4, R38 a, c, R41). An index page: with the last entry not above the cue found, the logical page that it names is
read, else the track's next index page. That the entry is known to be the last one only by a later entry on the page above the cue, or by the
end of the track's index, so that the next index page is else read first, is log entry 39's (DESIGN CHOICE). The page that holds the cue: its
record is patched in the page register, and the program into the next page of the amend block, with generation g + 1, is requested or waits on
SWI. A lost page, a patched page above 1024 bytes or g = 255 ends the amendment with STORE_FAIL and NO_ROOM; that a search which ends without an
entry for the cue ends it so too is log entry 34's (DEDUCED). AMEND_PROGRAM_DONE (R37, R38 b,
R110): the commit makes a reserved block the amend block, switches the page map, raises STORE_DONE, empties the slot, and replaces the copies that
the engines of the bound shows hold, in their queues, active sets and seek collections; an active cue is sent again unless the gate withholds
events, in place of the restore where the list overflows (R137). A failure raises STORE_FAIL with PROGRAM_FAIL, changes no package, and a
reserved block's retirement begins with its erase, or waits on SWI (R40, R41). -/
def Obligations.AmendmentPatchesAndCommits : Prop :=
  (∀ (s : State) (f : Flight) (errs id cue : Nat) (t : TextTrack) (pl : Placement) (sp : Option Nat) (ls : List Line) (block : Nat)
      (reserved : Bool) (p : Package) (op : AmendStage → HostOp),
      s.flight = some f → f.req.who = .host → (∀ st, op st = .amend id t cue pl sp ls block reserved st) → s.package id = some p →
      block < 128 →
      (∀ (ordinal pkg position : Nat) (before found : Option IndexEntry) (loc : IndexLoc) (es : List IndexEntry),
        f.req.op = .readPosition pkg position → s.hostOp = some (op (.readIndex ordinal before)) → p.indexLoc.get t = some loc →
        es = indexEntries (min 128 (p.pageCounts.get t - 128 * ordinal)) (readBytes s.flash f.addr) → FoundOn es cue before found →
        errs ≤ 4 →
        ((∃ x ∈ es, cue < x.firstCue) ∨ loc.count ≤ ordinal + 1 →
          (∀ en, found = some en → ∃ u, exec (.amendReadDone errs) s = .next u
            ∧ u.slot = some { op := op (.readPage en), waiting := none } ∧ u.HostReads (.readLogical id en.logical)
            ∧ u.packages = s.packages ∧ u.flash = s.flash ∧ u.blocks = s.blocks)
          ∧ (found = none → ∃ u, exec (.amendReadDone errs) s = .next u ∧ s.EndsWithNoRoom u id block reserved))
        ∧ ((∀ x ∈ es, x.firstCue ≤ cue) → ordinal + 1 < loc.count → ∃ u, exec (.amendReadDone errs) s = .next u
            ∧ u.slot = some { op := op (.readIndex (ordinal + 1) found), waiting := none }
            ∧ u.HostReads (.readPosition id (loc.first + (ordinal + 1)))
            ∧ u.packages = s.packages ∧ u.flash = s.flash ∧ u.blocks = s.blocks))
      ∧ (∀ (en : IndexEntry) (pkg logical : Nat) (c : Cue) (patched : List Cue), f.req.op = .readLogical pkg logical →
        s.hostOp = some (op (.readPage en)) → errs ≤ 4 → (pageCues (readBytes s.flash f.addr))[cue - en.firstCue]? = some c →
        patched = (pageCues (readBytes s.flash f.addr)).set (cue - en.firstCue) { c with placement := pl, speaker := sp, lines := ls } →
        ((cuesBytes patched).length ≤ 1024 → p.generation en.logical < 255 → ∃ u, exec (.amendReadDone errs) s = .next u
          ∧ u.pageReg = some
              { tag := { role := .amend, pkg := id, serial := p.serial, logical := en.logical, track := t.val
                         generation := p.generation en.logical + 1 }
                body := .bytes (cuesBytes patched) }
          ∧ s.GoesOnWith u
              (op (.program en.logical (p.generation en.logical) { c with placement := pl, speaker := sp, lines := ls }))
              (.program block (s.block block).nextPage) (pageAddr block (s.block block).nextPage)
          ∧ u.packages = s.packages ∧ u.flash = s.flash ∧ u.blocks = s.blocks)
        ∧ (1024 < (cuesBytes patched).length ∨ p.generation en.logical = 255 →
          ∃ u, exec (.amendReadDone errs) s = .next u ∧ s.EndsWithNoRoom u id block reserved))
      ∧ ∀ (stage : AmendStage) (pkg logical position : Nat), s.hostOp = some (op stage) →
          f.req.op = .readPosition pkg position ∨ f.req.op = .readLogical pkg logical → 4 < errs →
          ∃ u, exec (.amendReadDone errs) s = .next u ∧ s.EndsWithNoRoom u id block reserved ∧ u.NotesLost f.addr)
  ∧ (∀ (s : State) (block page id cue : Nat) (t : TextTrack) (pl : Placement) (sp : Option Nat) (ls : List Line) (reserved : Bool)
      (logical g : Nat) (c : Cue) (p : Package) (repl : List Cue → List Cue), s.hostProgram = some (block, page) → block < 128 →
      s.package id = some p → s.hostOp = some (.amend id t cue pl sp ls block reserved (.program logical g c)) →
      (∀ l, repl l = l.map fun d => if d.number = c.number then c else d) →
      (∃ u, exec (.amendProgramDone true) s = .next u
        ∧ u.package id = some
            { p with
              amend := if reserved then some block else p.amend
              map := mapPut { logical := logical, page := page, generation := g + 1 } p.map }
        ∧ u.slot = none ∧ u.notices = addNotice .store .storeDone (u8 id ++ [2] ++ u8 t.val ++ u16 cue) s.notices
        ∧ ∀ (n : Aud) (air : AirSched), air = (s.aud n).air →
            ((s.aud n).ctx.pkg = some id → s.textOn n t = true →
              (u.eng n t).look = repl (s.eng n t).look ∧ (u.eng n t).active = repl (s.eng n t).active
              ∧ (u.eng n t).seek = ((s.eng n t).seek.map fun k => { k with overlap := repl k.overlap, future := repl k.future })
              ∧ ((∃ d ∈ (s.eng n t).active, d.number = c.number) → air.lastGate = some .opened →
                  (air.pend.length < 32 → (u.aud n).air = { air with pend := air.pend ++ [.cueOn t c] })
                  ∧ (32 ≤ air.pend.length → (u.aud n).air = { air with
                      pend := u.restoreEvents n ++ (if air.ann = .ending then [.announceEnd] else [])
                      overflows := min 255 (air.overflows + 1) }))
              ∧ ((∀ d ∈ (s.eng n t).active, d.number ≠ c.number) ∨ air.lastGate ≠ some .opened → (u.aud n).air = air))
            ∧ ((s.aud n).ctx.pkg ≠ some id ∨ s.textOn n t = false → (u.aud n).air = air ∧ (u.eng n t).look = (s.eng n t).look
                ∧ (u.eng n t).active = (s.eng n t).active ∧ (u.eng n t).seek = (s.eng n t).seek))
      ∧ ∃ u, exec (.amendProgramDone false) s = .next u ∧ u.packages = s.packages ∧ (u.block block).marked = true
          ∧ u.notices = addNotice .store .storeFail (u8 id ++ [2, 0]) s.notices
          ∧ (reserved = false → u.slot = none)
          ∧ (reserved = true → s.GoesOnWith u (.amend id t cue pl sp ls block reserved .retire) (.erase block) block))

/-- CUE_READ and its reads (R19, R163): the tests in their order; accepted, its reply is withheld and the track's first index page is read. An index
page is searched as for an amendment, the next one being read until the last entry not above the cue is held (log entry 39, DESIGN CHOICE), and
then the logical page that the entry names. The read of the page that holds the record makes the reply READY with the record and the generation
of its page; a page of any of the reads that is lost makes it NO_SUCH with STORE_UNCORRECTABLE; either empties the slot. That a search which
ends without an entry for the cue makes the reply NO_SUCH and empties the slot too is log entry 34's (DEDUCED). -/
def Obligations.CueReadIsWithheldThenAnswered : Prop :=
  (∀ (tag id tr c1 c0 : Byte) (s : State), s.Accepts →
    (s.package id.toNat = none → exec (.cueRead tag [id, tr, c1, c0]) s = .next (s.taken.replied 0x18 tag .noSuch []))
    ∧ ∀ p : Package, s.package id.toNat = some p →
      (p.state ≠ .ready → exec (.cueRead tag [id, tr, c1, c0]) s = .next (s.taken.replied 0x18 tag .state []))
      ∧ (p.state = .ready → p.textCount ≤ tr.toNat →
          exec (.cueRead tag [id, tr, c1, c0]) s = .next (s.taken.replied 0x18 tag .range []))
      ∧ ∀ t : TextTrack, p.state = .ready → tr.toNat = t.val → t.val < p.textCount →
          (p.cues t ≤ be [c1, c0] → exec (.cueRead tag [id, tr, c1, c0]) s = .next (s.taken.replied 0x18 tag .noSuch []))
          ∧ (be [c1, c0] < p.cues t → s.slot ≠ none → exec (.cueRead tag [id, tr, c1, c0]) s = .next (s.taken.replied 0x18 tag .busy []))
          ∧ (be [c1, c0] < p.cues t → s.slot = none →
              ∃ u, exec (.cueRead tag [id, tr, c1, c0]) s = .next u ∧ u.replyBuf = .withheld 0x18 tag
                ∧ u.slot = some { op := .cueRead id.toNat t (be [c1, c0]) (.readIndex 0 none), waiting := none }
                ∧ u.packages = s.packages ∧ u.flash = s.flash ∧ u.notices = s.notices
                ∧ ∀ loc b, p.indexLoc.get t = some loc → p.blocks[loc.first / 64]? = some b →
                    (s.flight = none → u.flight = some
                        { req := hostRequest (.readPosition id.toNat loc.first), addr := pageAddr b (loc.first % 64) })
                    ∧ (s.flight ≠ none → u.flight = s.flight ∧ hostRequest (.readPosition id.toNat loc.first) ∈ u.queue)))
  ∧ ∀ (s : State) (f : Flight) (errs id cue : Nat) (t : TextTrack) (p : Package) (kind tag : Byte),
      s.flight = some f → f.req.who = .host → s.package id = some p → s.replyBuf = .withheld kind tag →
      (∀ (ordinal : Nat) (before found : Option IndexEntry) (loc : IndexLoc) (es : List IndexEntry),
        s.hostOp = some (.cueRead id t cue (.readIndex ordinal before)) → p.indexLoc.get t = some loc →
        es = indexEntries (min 128 (p.pageCounts.get t - 128 * ordinal)) (readBytes s.flash f.addr) → FoundOn es cue before found →
        errs ≤ 4 →
        ((∃ x ∈ es, cue < x.firstCue) ∨ loc.count ≤ ordinal + 1 →
          (∀ en, found = some en → ∃ u, exec (.cueReadStepDone errs) s = .next u
            ∧ u.slot = some { op := .cueRead id t cue (.readPage en), waiting := none } ∧ u.HostReads (.readLogical id en.logical)
            ∧ u.replyBuf = s.replyBuf)
          ∧ (found = none → ∃ u, exec (.cueReadStepDone errs) s = .next u ∧ u.slot = none
              ∧ u.replyBuf = .ready { kind := kind + 0x80, tag := tag, code := .noSuch, vals := [] }))
        ∧ ((∀ x ∈ es, x.firstCue ≤ cue) → ordinal + 1 < loc.count → ∃ u, exec (.cueReadStepDone errs) s = .next u
            ∧ u.slot = some { op := .cueRead id t cue (.readIndex (ordinal + 1) found), waiting := none }
            ∧ u.HostReads (.readPosition id (loc.first + (ordinal + 1))) ∧ u.replyBuf = s.replyBuf))
      ∧ (∀ (en : IndexEntry) (c : Cue), s.hostOp = some (.cueRead id t cue (.readPage en)) → errs ≤ 4 →
        (pageCues (readBytes s.flash f.addr))[cue - en.firstCue]? = some c →
        ∃ u, exec (.cueReadStepDone errs) s = .next u ∧ u.slot = none
          ∧ u.replyBuf = .ready
              { kind := kind + 0x80, tag := tag, code := .ok
                vals := u8 t.val ++ u32 c.startTick ++ u32 c.endTick ++ u8 c.placement.code ++ speakerByte c.speaker
                  ++ listBytes Line.bytes c.lines ++ u16 c.number ++ u8 (p.generation en.logical) })
      ∧ ∀ stage : CueReadStage, s.hostOp = some (.cueRead id t cue stage) → 4 < errs →
          ∃ u, exec (.cueReadStepDone errs) s = .next u ∧ u.slot = none
            ∧ u.replyBuf = .ready { kind := kind + 0x80, tag := tag, code := .noSuch, vals := [] }
            ∧ u.notices = addNotice .store .storeUncorrectable (u8 (f.addr / 64) ++ u8 (f.addr % 64) ++ [2]) s.notices

/-- A host operation about to start a program or an erase requests it with SWI inactive; with SWI active it requests nothing and waits in the slot
(R41). SWI becoming inactive lets the operation that waits request its step; with none waiting only the line's level changes (R41; the level
that the line is left at is the model's operand, log entry 13, DESIGN CHOICE). -/
def Obligations.SwiReleasesTheWaitingStep : Prop :=
  ∀ (after : Bool) (s : State),
    (∀ h op, s.slot = some h →
      (s.swi = true → s.hostWrite op = { s with slot := some { h with waiting := some op } })
      ∧ (s.swi = false → s.hostWrite op = s.request (hostRequest op)))
    ∧ ((∀ h, s.slot = some h → h.waiting = none) → exec (.swiInactive after) s = .next { s with swi := after })
    ∧ ∀ h op, s.slot = some h → h.waiting = some op →
        ∃ t, exec (.swiInactive after) s = .next t ∧ t.swi = after ∧ t.slot = some { op := h.op, waiting := none }
          ∧ (s.flight = none → t.flight = some { req := hostRequest op, addr := s.resolve op })
          ∧ (s.flight ≠ none → t.flight = s.flight ∧ hostRequest op ∈ t.queue)
          ∧ t.packages = s.packages ∧ t.flash = s.flash ∧ t.notices = s.notices

/-! ## The start-up scan -/

/-- The start-up scan (R44 to R46, R164): a tag that does not end its block is followed by the next page's; one that ends it is followed by the next
block's, the block being classified on its own. After the last block the block records and the serial high-water are rebuilt (R45, R4), the entries
wait in the scan, since no package entry exists in STARTING, and the seal pages are read. A seal page that is read makes its entry READY; the
last one, or the last block where there is none, ends STARTING: the entries become the directory and START_DONE is raised with its counts. That
the records and the serial high-water are rebuilt before the seal pages are read is log entry 8's (DESIGN CHOICE), and that an entry is ABANDONED
until its seal page has been read is log entry 28's (DEDUCED). That a seal page read with at most 4 error bits that delivers no entry, being torn or
another page, leaves its package ABANDONED as an uncorrectable one does is by log entries 5 and 30 (DESIGN CHOICE). -/
def Obligations.ScanReadsOnAndEnds : Prop :=
  (∀ (s : State) (f : Flight) (sc : Scan) (block page : Nat) (damaged : Bool) (read : TagRead), s.flight = some f → s.scan = some sc →
    f.req.who = .scan → f.req.op = .readTag block page → s.queue = [] → read = readTag s.flash (pageAddr block page) damaged →
    ∃ t, exec (.scanTagReadDone damaged) s = .next t ∧ t.flash = s.flash
      ∧ (read ≠ .erased → page + 1 ≠ 64 → (page ≠ 0 ∨ ∀ tag, read = .readable tag → tag.role ≠ .retire) →
        t.scan = some { sc with tags := sc.tags ++ [read] } ∧ t.phase = s.phase ∧ t.packages = s.packages
          ∧ t.flight = some { req := scanRequest (.readTag block (page + 1)), addr := pageAddr block (page + 1) })
      ∧ (read = .erased ∨ page + 1 = 64 ∨ (page = 0 ∧ ∃ tag, read = .readable tag ∧ tag.role = .retire) →
        (block + 1 < 128 →
          t.scan = some { sc with
              visited := sc.visited + 1, tags := [], found := sc.found ++ [scannedBlock block (sc.tags ++ [read])] }
            ∧ t.phase = s.phase ∧ t.packages = s.packages
            ∧ t.flight = some { req := scanRequest (.readTag (block + 1) 0), addr := pageAddr (block + 1) 0 })
        ∧ (128 ≤ block + 1 → ∀ found entries, found = sc.found ++ [scannedBlock block (sc.tags ++ [read])] →
            entries = scannedPackages found →
          t.serialHigh = scannedSerial entries
            ∧ (∀ b, b < 128 → (∀ x ∈ found, x.block ≠ b) → t.block b = s.block b)
            ∧ (∀ x, found.find? (fun y => decide (y.block = x.block)) = some x → (found.map (·.block)).Nodup → x.block < 128 →
                t.block x.block = scannedRecord entries x)
            ∧ (∀ r rest, sealsToRead found entries = r :: rest →
                t.scan = some { visited := sc.visited + 1, tags := [], found := found, seals := r :: rest, dir := entries }
                  ∧ t.phase = s.phase ∧ t.packages = s.packages
                  ∧ t.flight = some { req := scanRequest (.readSeal r.block r.page), addr := pageAddr r.block r.page })
            ∧ (sealsToRead found entries = [] → t.scan = none ∧ t.phase = .running ∧ t.packages = entries ∧ t.flight = none
                ∧ ∃ x ∈ t.notices, x.source = .part ∧ x.kind = .startDone
                    ∧ x.detail = u8 (entries.filter fun p => decide (p.state = .ready)).length
                        ++ u8 (entries.filter fun p => decide (p.state = .abandoned)).length
                        ++ u8 ((List.range 128).filter fun b => decide ((t.block b).cls = .blank)).length
                        ++ u8 ((List.range 128).filter fun b => decide ((t.block b).cls = .retired)).length
                        ++ u8 ((List.range 128).filter fun b => decide ((t.block b).cls = .unknown)).length
                        ++ u8 ((List.range 128).filter fun b => (t.block b).marked).length))))
  ∧ ∀ (s : State) (f : Flight) (sc : Scan) (b q errs : Nat) (r : SealRead) (rest : List SealRead) (entries : List Package),
      s.flight = some f → s.scan = some sc → f.req.who = .scan → f.req.op = .readSeal b q → s.queue = [] → sc.seals = r :: rest →
      (∀ info counts, errs ≤ 4 → readSealed s.flash f.addr = some (info, counts) →
        entries = sc.dir.map fun p => if p.id = r.pkg then sealedPackage sc.found info counts p else p) →
      (4 < errs ∨ readSealed s.flash f.addr = none → entries = sc.dir) →
      ∃ t, exec (.scanSealReadDone errs) s = .next t ∧ t.blocks = s.blocks ∧ t.flash = s.flash ∧ t.serialHigh = s.serialHigh
        ∧ (∀ r' rest', rest = r' :: rest' →
            t.scan = some { sc with seals := rest, dir := entries } ∧ t.phase = s.phase ∧ t.packages = s.packages
              ∧ t.flight = some { req := scanRequest (.readSeal r'.block r'.page), addr := pageAddr r'.block r'.page })
        ∧ (rest = [] → t.phase = .running ∧ t.scan = none ∧ t.flight = none ∧ t.packages = entries
            ∧ ∃ x ∈ t.notices, x.source = .part ∧ x.kind = .startDone
                ∧ x.detail = u8 (entries.filter fun p => decide (p.state = .ready)).length
                    ++ u8 (entries.filter fun p => decide (p.state = .abandoned)).length
                    ++ u8 ((List.range 128).filter fun b => decide ((s.block b).cls = .blank)).length
                    ++ u8 ((List.range 128).filter fun b => decide ((s.block b).cls = .retired)).length
                    ++ u8 ((List.range 128).filter fun b => decide ((s.block b).cls = .unknown)).length
                    ++ u8 ((List.range 128).filter fun b => (s.block b).marked).length)

/-- What the scan makes of the tags (R44 to R46, R4). A block on its own: blank, retired, unknown or a candidate, its next-page number the number of
its programmed pages, marked when it is a candidate whose last programmed page is torn (R44, R25). The candidates of a package id: the group
with a readable SEAL tag where there is just one, else that of the highest serial; an entry ABANDONED, with the group's blocks in the order of
their first DATA pages, page counts from its DATA tags, and the amend block of the higher last generation, the lower block among equals (R45);
its page map by the highest generation of each logical page, then the higher page (R46). A block of no entry is blank, retired or unknown. The
serial high-water is the highest serial taken. An entry whose seal page is read is READY with its fields, its index locations being the
positions of its INDEX pages by ordinal (R45, R29). The model's own: the block without any readable tag (log entry 12, DEDUCED); a RETIRE tag on a
later page, and that the seal page read is the first readable one along each entry's block list, the entries in ascending id (log entry 28,
DEDUCED); that a track without INDEX pages has no index location (log entry 25, DEDUCED). -/
def Obligations.ScanClassifiesAndGathers : Prop :=
  (∀ (block : Nat) (tags : List TagRead) (first : TagRead) (more : List TagRead) (x : ScanBlock), tags = first :: more →
    x = scannedBlock block tags →
    x.block = block ∧ x.tags = tags ∧ x.nextPage = (tags.filter fun u => decide (u ≠ .erased)).length
      ∧ (x.marked = true ↔ (x.cls = .packageCandidate ∨ x.cls = .amendCandidate)
          ∧ (tags.filter fun u => decide (u ≠ .erased)).getLast? = some .unreadable)
      ∧ (first = .erased → x.cls = .blank)
      ∧ (∀ g, first = .readable g → g.role = .retire → x.cls = .retired)
      ∧ (first ≠ .erased → (∀ g, first = .readable g → g.role ≠ .retire) →
          (∀ (i j : Nat) (g : PageTag), i < j → tags[i]? = some TagRead.unreadable → tags[j]? = some (TagRead.readable g) → x.cls = .unknown)
          ∧ (∀ g h, TagRead.readable g ∈ tags → TagRead.readable h ∈ tags →
              (g.pkg ≠ h.pkg ∨ g.serial ≠ h.serial ∨ (g.role = .amend ∧ h.role ≠ .amend) ∨ (g.role = .retire ∧ h.role ≠ .retire)) →
              x.cls = .unknown)
          ∧ ((∀ g, TagRead.readable g ∉ tags) → x.cls = .unknown)
          ∧ (∀ g, TagRead.readable g ∈ tags →
              (∀ (i j : Nat) (h : PageTag), i < j → tags[i]? = some TagRead.unreadable → tags[j]? ≠ some (TagRead.readable h)) →
              (∀ h, TagRead.readable h ∈ tags → h.pkg = g.pkg ∧ h.serial = g.serial) →
              ((∀ h, TagRead.readable h ∈ tags → h.role = .amend) → x.cls = .amendCandidate)
              ∧ ((∀ h, TagRead.readable h ∈ tags → h.role = .data ∨ h.role = .index ∨ h.role = .seal) → x.cls = .packageCandidate))))
  ∧ ∀ (found : List ScanBlock) (entries : List Package) (has : ScanBlock → (PageTag → Bool) → Bool) (group amends : Nat → Nat → List ScanBlock)
      (key lastGen : ScanBlock → Nat),
      entries = scannedPackages found → found.Pairwise (fun a b => a.block < b.block) →
      (∀ b ∈ found, b.cls = .packageCandidate ∨ b.cls = .amendCandidate →
        (∃ g, TagRead.readable g ∈ b.tags)
          ∧ ∀ g h, TagRead.readable g ∈ b.tags → TagRead.readable h ∈ b.tags → h.pkg = g.pkg ∧ h.serial = g.serial) →
      (∀ b p, has b p = b.tags.any fun u => match u with
        | .readable g => p g
        | _ => false) →
      (∀ id serial, group id serial
        = found.filter fun b => decide (b.cls = .packageCandidate) && has b fun g => decide (g.pkg = id ∧ g.serial = serial)) →
      (∀ id serial, amends id serial
        = found.filter fun b => decide (b.cls = .amendCandidate) && has b fun g => decide (g.pkg = id ∧ g.serial = serial)) →
      (∀ b, key b = ((b.tags.filterMap TagRead.tag).find? fun g => decide (g.role = .data)).elim 65536 (·.logical)) →
      (∀ b, lastGen b = (b.tags.filterMap TagRead.tag).getLast?.elim 0 (·.generation)) →
      entries.Pairwise (fun p q => p.id < q.id)
        ∧ (∀ id serial, id < 64 → group id serial ≠ [] → ∃ p ∈ entries, p.id = id)
        ∧ (∀ p ∈ entries, p.id < 64 ∧ p.state = .abandoned ∧ p.info = none ∧ p.protection = .unprotected ∧ p.binds = 0
          ∧ group p.id p.serial ≠ []
          ∧ (∀ serial, (∃ b ∈ group p.id serial, has b (fun g => decide (g.role = .seal)) = true) →
              (∀ other, (∃ b ∈ group p.id other, has b (fun g => decide (g.role = .seal)) = true) → other = serial) →
              p.serial = serial)
          ∧ ((∀ serial, (∃ b ∈ group p.id serial, has b (fun g => decide (g.role = .seal)) = true) →
                ∃ other, other ≠ serial ∧ ∃ b ∈ group p.id other, has b (fun g => decide (g.role = .seal)) = true) →
              ∀ serial, group p.id serial ≠ [] → serial ≤ p.serial)
          ∧ p.blocks.Perm ((group p.id p.serial).map (·.block))
          ∧ (p.blocks.Pairwise fun j k => ∀ a ∈ group p.id p.serial, ∀ b ∈ group p.id p.serial, a.block = j → b.block = k →
              key a < key b ∨ (key a = key b ∧ j < k))
          ∧ (∀ t : Fin 4, p.pageCounts.get t = ((group p.id p.serial).flatMap fun b => b.tags.filterMap TagRead.tag).countP
              fun g => decide (g.role = .data ∧ g.track = t.val))
          ∧ (amends p.id p.serial = [] → p.amend = none ∧ p.map = [])
          ∧ (∀ x ∈ amends p.id p.serial,
              (∀ y ∈ amends p.id p.serial, y.block = x.block ∨ lastGen y < lastGen x ∨ (lastGen y = lastGen x ∧ x.block < y.block)) →
              p.amend = some x.block ∧ p.map.Pairwise (fun e f => e.logical < f.logical)
                ∧ (∀ (k : Nat) (g : PageTag), x.tags[k]? = some (TagRead.readable g) → ∃ e ∈ p.map, e.logical = g.logical)
                ∧ ∀ e ∈ p.map, (∃ g, x.tags[e.page]? = some (TagRead.readable g) ∧ g.logical = e.logical ∧ g.generation = e.generation)
                    ∧ ∀ (k : Nat) (g : PageTag), x.tags[k]? = some (TagRead.readable g) → g.logical = e.logical →
                        g.generation < e.generation ∨ (g.generation = e.generation ∧ k ≤ e.page)))
        ∧ (∀ x record, record = scannedRecord entries x → record.nextPage = x.nextPage
            ∧ (∀ p ∈ entries, x.block ∈ p.blocks → record.cls = .package ∧ record.owner = some p.id ∧ record.marked = x.marked)
            ∧ (∀ p ∈ entries, p.amend = some x.block → record.cls = .amend ∧ record.owner = some p.id ∧ record.marked = x.marked)
            ∧ ((∀ p ∈ entries, x.block ∉ p.blocks ∧ p.amend ≠ some x.block) →
                record.owner = none ∧ record.marked = false
                  ∧ record.cls = (if x.cls = .blank then .blank else if x.cls = .retired then .retired else .unknown)))
        ∧ (∀ pagesOf : Package → (PageTag → Bool) → List (Nat × Nat × Nat × PageTag),
            (∀ p want, pagesOf p want = p.blocks.zipIdx.flatMap fun e => (found.filter fun b => decide (b.block = e.1)).flatMap fun b =>
              b.tags.zipIdx.filterMap fun u => match u.1 with
                | .readable g => if want g then some (64 * e.2 + u.2, e.1, u.2, g) else none
                | _ => none) →
            (sealsToRead found entries = entries.filterMap fun p =>
              ((pagesOf p fun g => decide (g.role = .seal)).head?).map fun x => { pkg := p.id, block := x.2.1, page := x.2.2.1 })
            ∧ ∀ p ∈ entries, ∀ info counts q, q = sealedPackage found info counts p →
                q = { p with state := .ready, info := some info, pageCounts := counts, indexLoc := q.indexLoc }
                  ∧ ∀ (t : Fin 4) (pages : List (Nat × Nat × Nat × PageTag)),
                      pages = pagesOf p (fun g => decide (g.role = .index ∧ g.track = t.val)) →
                      (pages = [] → q.indexLoc.get t = none)
                      ∧ ∀ x ∈ pages, (∀ y ∈ pages, y = x ∨ x.2.2.2.logical < y.2.2.2.logical) →
                          q.indexLoc.get t = some { first := x.1, count := pages.length })
        ∧ (entries = [] → scannedSerial entries = 65535)
        ∧ (entries ≠ [] → (∃ p ∈ entries, scannedSerial entries = p.serial) ∧ ∀ p ∈ entries, p.serial ≤ scannedSerial entries)

/-! ## The auditorium inputs -/

/-- The frame-pulse filter (R47): edges and the qualifying count, and the candidate that a VACANT show counts and discards; that a qualifying count
outside QUALIFYING changes nothing is log entry 11's (DEDUCED). Contacts (R57 to R59): a change of level restarts the steady count; a settled level
is taken and the gate is recomputed, of one auditorium or, for SHOLD, of all sixteen; the gate is CLOSED while an input is UNSETTLED and else the
entry at 4 · SHOLD + 2 · AUXnB + AUXnA. -/
def Obligations.InputsAreFiltered : Prop :=
  (∀ (n : Aud) (s : State),
      ((s.aud n).input.filter = .low → (s.aud n).input.wCurrent ≠ 0 →
        exec (.framePulseRisingEdge n) s
          = .next (s.modInput n fun u => { u with fp := true, filter := .qualifying, qualCount := 0, qualLength := u.wCurrent }))
      ∧ ((s.aud n).input.filter ≠ .low → exec (.framePulseRisingEdge n) s = .next (s.modInput n fun u => { u with fp := true }))
      ∧ exec (.framePulseFallingEdge n) s = .next (s.modInput n fun u => { u with fp := false, filter := .low })
      ∧ ((s.aud n).input.filter ≠ .qualifying → exec (.qualifyingCountReached n) s = .next s)
      ∧ ((s.aud n).ctx.st = .vacant → (s.aud n).input.filter = .low → (s.aud n).input.wCurrent = 0 →
        exec (.framePulseRisingEdge n) s
          = .next (s.modInput n fun u => { u with fp := true, filter := .high, candidates := (u.candidates + 1) % 65536 }))
      ∧ ((s.aud n).ctx.st = .vacant → (s.aud n).input.filter = .qualifying →
        exec (.qualifyingCountReached n) s
          = .next (s.modInput n fun u =>
              { u with filter := .high, qualCount := u.qualLength, candidates := (u.candidates + 1) % 65536 })))
  ∧ ((∀ (table : Vector Gate 8) (h b a : Taken),
      (h = .unsettled ∨ b = .unsettled ∨ a = .unsettled → gateValue table h b a = .closed)
      ∧ ∀ hi bi ai : Fin 2, h = (if hi = 1 then .active else .inactive) → b = (if bi = 1 then .active else .inactive) →
          a = (if ai = 1 then .active else .inactive) → gateValue table h b a = table.get ⟨4 * hi.val + 2 * bi.val + ai.val, by omega⟩)
    ∧ ∀ (n : Aud) (level : Bool) (s : State),
        (exec (.contactLevelChange (.auxA n) level) s = .next (s.modInput n fun u =>
          { u with auxA := if u.auxA.level = level then u.auxA else { u.auxA with level := level, steady := 0 } }))
        ∧ (exec (.contactLevelChange (.auxB n) level) s = .next (s.modInput n fun u =>
          { u with auxB := if u.auxB.level = level then u.auxB else { u.auxB with level := level, steady := 0 } }))
        ∧ (exec (.contactLevelChange .shold level) s
          = .next { s with shold := if s.shold.level = level then s.shold else { s.shold with level := level, steady := 0 } })
        ∧ (∀ d : Debouncer, d = { level := (s.aud n).input.auxA.level
                                  taken := if (s.aud n).input.auxA.level then .active else .inactive, steady := 12000 } →
            exec (.debounceSettled (.auxA n)) s = .next (s.modInput n fun u =>
              { u with auxA := d, gate := gateValue u.gateTable s.shold.taken u.auxB.taken d.taken }))
        ∧ (∀ d : Debouncer, d = { level := (s.aud n).input.auxB.level
                                  taken := if (s.aud n).input.auxB.level then .active else .inactive, steady := 12000 } →
            exec (.debounceSettled (.auxB n)) s = .next (s.modInput n fun u =>
              { u with auxB := d, gate := gateValue u.gateTable s.shold.taken d.taken u.auxA.taken }))
        ∧ ∀ d : Debouncer, d = { level := s.shold.level, taken := if s.shold.level then .active else .inactive, steady := 12000 } →
            ∃ t, exec (.debounceSettled .shold) s = .next t ∧ t.shold = d ∧ t.notices = s.notices
              ∧ ∀ m, t.aud m = { s.aud m with
                  input := { (s.aud m).input with
                    gate := gateValue (s.aud m).input.gateTable d.taken (s.aud m).input.auxB.taken (s.aud m).input.auxA.taken } })

/-- A candidate of a bound show (R50 to R53, R68, R72, R73, R77, R82): one inside the holdoff is ignored with EARLY_PULSE; any other is accepted: it
is measured where the reference is SET, updates the estimate, the last interval and the rate supervision, whose eighth out-of-window interval in
a row raises RATE_MISMATCH where the arm is set, moves the reference and adopts the staged settings. In LOCKED and COASTING a measured pulse
counts a frame and an unmeasured one takes C from P; a new frame begins with its advance taken from K, or the show finishes at D; in HELD it
begins acquisition; in BINDING, STANDBY and FINISHED it moves no position. -/
def Obligations.CandidatesAreJudged : Prop :=
  ∀ (n : Aud) (s : State) (i : Instr),
    (i = .framePulseRisingEdge n ∧ (s.aud n).input.filter = .low ∧ (s.aud n).input.wCurrent = 0)
      ∨ (i = .qualifyingCountReached n ∧ (s.aud n).input.filter = .qualifying) →
    (s.aud n).ctx.st ≠ .vacant →
    ((s.aud n).input.ref = .set → (s.aud n).input.e < (s.aud n).input.pm / 2 →
      ∃ t, exec i s = .next t ∧ (t.aud n).ctx = (s.aud n).ctx ∧ (t.aud n).input.ref = .set
        ∧ (t.aud n).input.e = (s.aud n).input.e ∧ (t.aud n).input.pm = (s.aud n).input.pm
        ∧ (t.aud n).input.mismatchRun = (s.aud n).input.mismatchRun ∧ (t.aud n).input.wCurrent = (s.aud n).input.wCurrent
        ∧ (t.aud n).input.candidates = ((s.aud n).input.candidates + 1) % 65536
        ∧ t.notices = addNotice (.aud n) .earlyPulse (u32 (s.aud n).input.e ++ u16 ((s.aud n).input.pm / 2)) s.notices)
    ∧ ((s.aud n).input.ref ≠ .set ∨ (s.aud n).input.pm / 2 ≤ (s.aud n).input.e →
      ∃ t, exec i s = .next t ∧ (t.aud n).input.ref = .set ∧ (t.aud n).input.e = 0
        ∧ (t.aud n).input.wCurrent = (s.aud n).input.wStaged ∧ (t.aud n).ctx.coastLimit = (s.aud n).ctx.coastLimitStaged
        ∧ (t.aud n).ctx.slewWindow = (s.aud n).ctx.slewWindowStaged
        ∧ (t.aud n).input.candidates = ((s.aud n).input.candidates + 1) % 65536
        ∧ ((s.aud n).input.ref ≠ .set → (t.aud n).input.pm = (s.aud n).input.pm
            ∧ (t.aud n).input.lastInterval = (s.aud n).input.lastInterval
            ∧ (t.aud n).input.mismatchRun = (s.aud n).input.mismatchRun ∧ (t.aud n).input.armed = (s.aud n).input.armed)
        ∧ (∀ r m, (s.aud n).ctx.rate = some r → (s.aud n).input.ref = .set → m = (s.aud n).input.e →
            (t.aud n).input.lastInterval = m
              ∧ (t.aud n).input.pm = (7 * (s.aud n).input.pm + max r.lo (min r.hi m) + 4) / 8
              ∧ (r.lo ≤ m → m ≤ r.hi → (t.aud n).input.mismatchRun = 0 ∧ (t.aud n).input.armed = true)
              ∧ (m < r.lo ∨ r.hi < m →
                (t.aud n).input.mismatchRun = min 8 ((s.aud n).input.mismatchRun + 1)
                  ∧ ((s.aud n).input.mismatchRun = 7 → (s.aud n).input.armed = true → (t.aud n).input.armed = false
                      ∧ ∃ x ∈ t.notices, x.source = .aud n ∧ x.kind = .rateMismatch
                          ∧ x.detail = u32 m ++ u16 (t.aud n).input.pm ++ u8 r.code)
                  ∧ ((s.aud n).input.mismatchRun ≠ 7 ∨ (s.aud n).input.armed = false →
                      (t.aud n).input.armed = (s.aud n).input.armed)))
        ∧ ((s.aud n).ctx.st = .binding ∨ (s.aud n).ctx.st = .standby ∨ (s.aud n).ctx.st = .finished →
            (t.aud n).ctx = { (s.aud n).ctx with
              coastLimit := (s.aud n).ctx.coastLimitStaged, slewWindow := (s.aud n).ctx.slewWindowStaged })
        ∧ (∀ r, (s.aud n).ctx.rate = some r → (s.aud n).ctx.st = .held →
            (t.aud n).ctx.st = .acquiring ∧ (t.aud n).ctx.acquire = 0 ∧ (t.aud n).ctx.adv = r.ticks ∧ (t.aud n).ctx.c = (s.aud n).ctx.c
              ∧ (t.aud n).text = (s.aud n).text ∧ (t.aud n).sound = (s.aud n).sound ∧ (t.aud n).air = (s.aud n).air)
        ∧ (∀ r c, (s.aud n).ctx.rate = some r → (s.aud n).ctx.st = .locked ∨ (s.aud n).ctx.st = .coasting →
            c = (if (s.aud n).input.ref = .set then min ((s.aud n).ctx.c + (s.aud n).ctx.adv) (s.aud n).ctx.duration
              else s.position n) →
            (c = (s.aud n).ctx.duration → s.FinishesTo t n)
            ∧ (c ≠ (s.aud n).ctx.duration → (t.aud n).ctx.st = .locked ∧ (t.aud n).ctx.c = c ∧ (t.aud n).ctx.coast = 0
                ∧ (s.aud n).ctx.NewFrameTo (t.aud n).ctx r
                ∧ (t.aud n).text = (s.aud n).text ∧ (t.aud n).sound = (s.aud n).sound ∧ (t.aud n).air = (s.aud n).air)))

/-- A pulse in ACQUIRING (R70, R71): an unmeasured one takes C from P and the acquire count is 0; a measured one counts a frame; out of the rate
window the acquire count is 0; in the window it rises, and with the third in a row the show is LOCKED with LOCK_GAINED and the lock signal, or
FINISHED at D. Each begins a new frame, its advance taken from K (R68). -/
def Obligations.AcquisitionGainsLock : Prop :=
  ∀ (n : Aud) (s : State) (i : Instr) (r : RateClass),
    (i = .framePulseRisingEdge n ∧ (s.aud n).input.filter = .low ∧ (s.aud n).input.wCurrent = 0)
      ∨ (i = .qualifyingCountReached n ∧ (s.aud n).input.filter = .qualifying) →
    (s.aud n).ctx.st = .acquiring → (s.aud n).ctx.rate = some r →
    ((s.aud n).input.ref ≠ .set →
      ∃ t, exec i s = .next t ∧ (t.aud n).ctx.c = s.position n ∧ (t.aud n).ctx.acquire = 0 ∧ (t.aud n).ctx.st = .acquiring
        ∧ (s.aud n).ctx.NewFrameTo (t.aud n).ctx r
        ∧ (t.aud n).text = (s.aud n).text ∧ (t.aud n).sound = (s.aud n).sound ∧ (t.aud n).air = (s.aud n).air)
    ∧ ((s.aud n).input.ref = .set → (s.aud n).input.pm / 2 ≤ (s.aud n).input.e →
      ∀ c, c = min ((s.aud n).ctx.c + (s.aud n).ctx.adv) (s.aud n).ctx.duration →
      ∃ t, exec i s = .next t ∧ (t.aud n).ctx.c = c
        ∧ ((s.aud n).input.e < r.lo ∨ r.hi < (s.aud n).input.e → (t.aud n).ctx.st = .acquiring ∧ (t.aud n).ctx.acquire = 0
            ∧ (s.aud n).ctx.NewFrameTo (t.aud n).ctx r)
        ∧ (r.lo ≤ (s.aud n).input.e → (s.aud n).input.e ≤ r.hi →
            ((s.aud n).ctx.acquire < 2 → (t.aud n).ctx.st = .acquiring ∧ (t.aud n).ctx.acquire = (s.aud n).ctx.acquire + 1
              ∧ (s.aud n).ctx.NewFrameTo (t.aud n).ctx r)
            ∧ (2 ≤ (s.aud n).ctx.acquire → c = (s.aud n).ctx.duration →
                (∀ x ∈ t.notices, x.source = .aud n → x.kind = .lockGained → x ∈ s.notices)
                ∧ (t.aud n).ctx.st = .finished ∧ s.FinishesTo t n)
            ∧ (2 ≤ (s.aud n).ctx.acquire → c ≠ (s.aud n).ctx.duration →
                (t.aud n).ctx.st = .locked ∧ (t.aud n).ctx.acquire = 0 ∧ (t.aud n).ctx.coast = 0
                ∧ (s.aud n).ctx.NewFrameTo (t.aud n).ctx r
                ∧ (∃ x ∈ t.notices, x.source = .aud n ∧ x.kind = .lockGained ∧ x.detail = u32 c ++ u16 (t.aud n).input.pm)
                ∧ s.LocksTo t n c)))

/-- The missing-pulse deadline (R54, R74 to R76): in BINDING, STANDBY and FINISHED the reference is cleared; in ACQUIRING the position creeps and the
reference restarts; below the coast limit a synthetic pulse counts a frame and begins a new one, with PULSE_LOST where the show was LOCKED, and may
finish it; at the limit the show holds with SHOW_HELD and the hold signal. That a deadline without a reference changes nothing is log entry 11's
(DEDUCED), and that a deadline at the coast limit with P = D finishes the show and clears the reference is log entry 18's (DEDUCED). -/
def Obligations.MissedDeadlineIsAnswered : Prop :=
  ∀ (n : Aud) (s : State),
    ((s.aud n).input.ref = .absent → exec (.missingPulseDeadline n) s = .next s)
    ∧ ((s.aud n).input.ref ≠ .absent →
      ∀ last, last = (s.aud n).ctx.position (3 * (s.aud n).input.pm / 2) (s.aud n).input.pm →
      ∃ t, exec (.missingPulseDeadline n) s = .next t
        ∧ (t.aud n).input.wCurrent = (s.aud n).input.wStaged ∧ (t.aud n).ctx.coastLimit = (s.aud n).ctx.coastLimitStaged
        ∧ (t.aud n).ctx.slewWindow = (s.aud n).ctx.slewWindowStaged ∧ (t.aud n).input.pm = (s.aud n).input.pm
        ∧ ((s.aud n).ctx.st = .binding ∨ (s.aud n).ctx.st = .standby ∨ (s.aud n).ctx.st = .finished →
            (t.aud n).input.ref = .absent ∧ (t.aud n).input.e = 0 ∧ (t.aud n).ctx.st = (s.aud n).ctx.st ∧ t.notices = s.notices)
        ∧ ((s.aud n).ctx.st = .acquiring →
            (t.aud n).input.ref = .restarted ∧ (t.aud n).input.e = 0 ∧ (t.aud n).ctx.c = last ∧ (t.aud n).ctx.acquire = 0
              ∧ (t.aud n).ctx.adv = (s.aud n).ctx.adv ∧ (t.aud n).ctx.st = .acquiring ∧ t.notices = s.notices)
        ∧ ((s.aud n).ctx.st = .locked ∨ (s.aud n).ctx.st = .coasting →
            ((s.aud n).ctx.coast < (s.aud n).ctx.coastLimit →
              ∀ (r : RateClass) (e c : Nat) (y : ShowCtx) (p : Nat), (s.aud n).ctx.rate = some r →
                e = 3 * (s.aud n).input.pm / 2 - (s.aud n).input.pm →
                c = min ((s.aud n).ctx.c + (s.aud n).ctx.adv) (s.aud n).ctx.duration → (s.aud n).ctx.NewFrameTo y r →
                p = min (c + min (y.adv - 1) (e * y.adv / (s.aud n).input.pm)) (s.aud n).ctx.duration →
                (t.aud n).input.ref = .set ∧ (t.aud n).input.e = e
                ∧ (p = (s.aud n).ctx.duration → s.FinishesTo t n)
                ∧ (p ≠ (s.aud n).ctx.duration → (t.aud n).ctx.st = .coasting ∧ (t.aud n).ctx.coast = (s.aud n).ctx.coast + 1
                    ∧ (t.aud n).ctx.c = c ∧ (s.aud n).ctx.NewFrameTo (t.aud n).ctx r
                    ∧ (t.aud n).text = (s.aud n).text ∧ (t.aud n).sound = (s.aud n).sound ∧ (t.aud n).air = (s.aud n).air
                    ∧ ((s.aud n).ctx.st = .coasting → t.notices = s.notices))
                ∧ ((s.aud n).ctx.st = .locked → ∃ x ∈ t.notices, x.source = .aud n ∧ x.kind = .pulseLost ∧ x.detail = u32 c))
            ∧ ((s.aud n).ctx.coastLimit ≤ (s.aud n).ctx.coast →
              (t.aud n).input.ref = .absent ∧ (t.aud n).input.e = 0 ∧ (t.aud n).ctx.c = last ∧ (t.aud n).ctx.k = 0
              ∧ (last = (s.aud n).ctx.duration → s.FinishesTo t n)
              ∧ (last ≠ (s.aud n).ctx.duration → (t.aud n).ctx.st = .held ∧ (t.aud n).ctx.coast = 0 ∧ (t.aud n).ctx.acquire = 0
                  ∧ (∀ r, (s.aud n).ctx.rate = some r → (t.aud n).ctx.adv = r.ticks)
                  ∧ (∃ x ∈ t.notices, x.source = .aud n ∧ x.kind = .showHeld
                      ∧ x.detail = u32 last ++ u8 (s.aud n).ctx.coastLimit)
                  ∧ s.HoldsTo t n))))

/-- GATE_SET: an auditorium above 15 or an entry that is neither OPEN nor CLOSED is refused RANGE; otherwise the table is replaced as a whole, the
gate value is recomputed at once and is the reply (R60). -/
def Obligations.GateSetReplacesTheTable : Prop :=
  ∀ (tag a e0 e1 e2 e3 e4 e5 e6 e7 : Byte) (s : State), s.Accepts →
    (15 < a.toNat ∨ (∃ e ∈ [e0, e1, e2, e3, e4, e5, e6, e7], 1 < e.toNat) →
      exec (.gateSet tag [a, e0, e1, e2, e3, e4, e5, e6, e7]) s = .next (s.taken.replied 0x30 tag .range []))
    ∧ ∀ (n : Aud) (table : Vector Gate 8) (g : Gate), a.toNat = n.val →
        [e0, e1, e2, e3, e4, e5, e6, e7] = table.toList.map (fun x => BitVec.ofNat 8 x.code) →
        g = gateValue table s.shold.taken (s.aud n).input.auxB.taken (s.aud n).input.auxA.taken →
        exec (.gateSet tag [a, e0, e1, e2, e3, e4, e5, e6, e7]) s
          = .next ((s.taken.modInput n fun u => { u with gateTable := table, gate := g }).replied 0x30 tag .ok (u8 g.code))

/-! ## The show timeline -/

/-- SHOW_BIND: the tests of R65 in their order, and the context, the package and the input unit that an acceptance leaves: BINDING, or STANDBY at once
where the package has no index page with BIND_DONE BOUND and the bound signal (R65, R66, R21, R56 a, R92 a, R121 a). The index pages of every text
track are read in track and ordinal order, the first at once unless a read of an earlier bind is in flight. -/
def Obligations.ShowBindTakesThePackage : Prop :=
  ∀ (tag a pk e0 l0 e1 l1 e2 l2 e3 l3 f0 m0 f1 m1 : Byte) (s : State) (body : List Byte), s.Accepts →
    body = [a, pk, e0, l0, e1, l1, e2, l2, e3, l3, f0, m0, f1, m1] →
    (15 < a.toNat ∨ (∃ e ∈ [e0, e1, e2, e3, f0, f1], 1 < e.toNat) ∨ (∃ l ∈ [l0, l1, l2, l3, m0, m1], 240 < l.toNat) →
      exec (.showBind tag body) s = .next (s.taken.replied 0x32 tag .range []))
    ∧ ∀ (n : Aud) (ts : Vector TrackSetting 4) (ds : Vector TrackSetting 2), a.toNat = n.val →
        [settingOf e0 l0, settingOf e1 l1, settingOf e2 l2, settingOf e3 l3] = ts.toList.map some →
        [settingOf f0 m0, settingOf f1 m1] = ds.toList.map some →
        ((s.aud n).ctx.st ≠ .vacant → exec (.showBind tag body) s = .next (s.taken.replied 0x32 tag .state []))
        ∧ ((s.aud n).ctx.st = .vacant → s.package pk.toNat = none →
            exec (.showBind tag body) s = .next (s.taken.replied 0x32 tag .noSuch []))
        ∧ ∀ p, (s.aud n).ctx.st = .vacant → s.package pk.toNat = some p →
            (p.state ≠ .ready → exec (.showBind tag body) s = .next (s.taken.replied 0x32 tag .state []))
            ∧ ∀ info, p.state = .ready → p.info = some info →
                ((∃ k : Fin 4, (ts.get k).enabled = true ∧ info.text.length ≤ k.val)
                    ∨ (∃ k : Fin 2, (ds.get k).enabled = true ∧ info.sound.length ≤ k.val) →
                  exec (.showBind tag body) s = .next (s.taken.replied 0x32 tag .range []))
                ∧ ((∀ k : Fin 4, (ts.get k).enabled = true → k.val < info.text.length) →
                    (∀ k : Fin 2, (ds.get k).enabled = true → k.val < info.sound.length) →
                    ∃ t, exec (.showBind tag body) s = .next t
                      ∧ t.replyBuf = .ready
                          { kind := 0xB2, tag := tag, code := .accepted, vals := u8 (((s.aud n).ctx.bindGen + 1) % 256) }
                      ∧ (t.aud n).ctx.pkg = some pk.toNat ∧ (t.aud n).ctx.rate = some info.rate
                      ∧ (t.aud n).ctx.duration = info.duration ∧ (t.aud n).ctx.c = 0 ∧ (t.aud n).ctx.k = 0
                      ∧ (t.aud n).ctx.adv = info.rate.ticks ∧ (t.aud n).ctx.coast = 0 ∧ (t.aud n).ctx.acquire = 0
                      ∧ (t.aud n).ctx.bindGen = ((s.aud n).ctx.bindGen + 1) % 256
                      ∧ (∀ k, (t.aud n).ctx.text.get k
                          = if k.val < info.text.length then ts.get k else { enabled := false, lead := 24 })
                      ∧ (∀ k, (t.aud n).ctx.sound.get k
                          = if k.val < info.sound.length then ds.get k else { enabled := false, lead := 24 })
                      ∧ t.package pk.toNat = some { p with binds := p.binds + 1 }
                      ∧ (t.aud n).input.pm = info.rate.nominal ∧ (t.aud n).input.ref = .absent ∧ (t.aud n).input.e = 0
                      ∧ (t.aud n).input.mismatchRun = 0 ∧ (t.aud n).input.armed = true ∧ (t.aud n).input.lastInterval = 0
                      ∧ (t.aud n).ctx.textCount = info.text.length ∧ (t.aud n).ctx.soundCount = info.sound.length
                      ∧ (t.aud n).ctx.cueCounts = info.cueCounts ∧ (t.aud n).air = (s.aud n).air ∧ (t.aud n).emit = (s.aud n).emit
                      ∧ ∀ reads : List BindRead,
                          reads = [(0 : TextTrack), 1, 2, 3].flatMap (fun k => match p.indexLoc.get k with
                            | some loc => (List.range loc.count).map fun o =>
                                { track := k, position := loc.first + o, entries := min 128 (p.pageCounts.get k - 128 * o) }
                            | none => []) →
                          (reads = [] → s.BindsTo t n)
                          ∧ ∀ r rest, reads = r :: rest →
                              (t.aud n).ctx.st = .binding ∧ (t.aud n).ctx.bindTodo = reads ∧ (∀ k, (t.aud n).ctx.index.get k = [])
                              ∧ (t.aud n).text = (s.aud n).text ∧ (t.aud n).sound = (s.aud n).sound
                              ∧ ((∀ f, s.flight = some f → f.req.who ≠ .bind n) →
                                (t.aud n).ctx.bindAsked = true ∧ ∀ q : Request,
                                  q = { who := .bind n, op := .readPosition pk.toNat r.position, kind := .fetch, need := 0
                                        bindGen := (t.aud n).ctx.bindGen, seekCount := 0 } →
                                  q ∈ t.queue ∨ ∃ g, t.flight = some g ∧ g.req = q)
                              ∧ (∀ f, s.flight = some f → f.req.who = .bind n →
                                (t.aud n).ctx.bindAsked = false ∧ t.queue = s.queue ∧ t.flight = s.flight))

/-- BIND_INDEX_READ_DONE (R66): a page's entries join the track's index; after the last the context is in STANDBY with BIND_DONE BOUND and the bound
signal is given (R92 a, R121 a), before it the next page's read is requested; a lost page returns the context to VACANT with BIND_DONE
INDEX_LOST; a completion of an earlier bind changes no context, but lets a bind that waited on it request its first page. The premise on the
queue rules out states that no run reaches: a track engine of a show in BINDING has no request waiting (R32, R67). A completion whose generation
matches is the bind's own, also where its generation is equal only because 256 binds have passed (log entry 40, DESIGN CHOICE). -/
def Obligations.BindReadsFillTheIndex : Prop :=
  ∀ (n : Aud) (errs : Nat) (s : State) (f : Flight) (asks : State → BindRead → Prop), s.flight = some f → f.req.who = .bind n →
    (∀ r ∈ s.queue, ∀ k, r.who ≠ .engine n k) →
    (∀ t r, asks t r ↔ (t.aud n).ctx.bindAsked = true ∧ ∀ id, (s.aud n).ctx.pkg = some id → ∀ q : Request,
      q = { who := .bind n, op := .readPosition id r.position, kind := .fetch, need := 0, bindGen := (s.aud n).ctx.bindGen, seekCount := 0 } →
      q ∈ t.queue ∨ ∃ g, t.flight = some g ∧ g.req = q) →
    ((s.aud n).ctx.st ≠ .binding →
      ∃ t, exec (.bindIndexReadDone errs) s = .next t ∧ (t.aud n).ctx = (s.aud n).ctx ∧ t.packages = s.packages)
    ∧ ((s.aud n).ctx.st = .binding → f.req.bindGen ≠ (s.aud n).ctx.bindGen →
      ∃ t, exec (.bindIndexReadDone errs) s = .next t ∧ t.packages = s.packages
        ∧ { (t.aud n).ctx with bindAsked := (s.aud n).ctx.bindAsked } = (s.aud n).ctx
        ∧ ∀ r rest, (s.aud n).ctx.bindAsked = false → (s.aud n).ctx.bindTodo = r :: rest → asks t r)
    ∧ ((s.aud n).ctx.st = .binding → f.req.bindGen = (s.aud n).ctx.bindGen →
      (∀ r rest, errs ≤ 4 → (s.aud n).ctx.bindTodo = r :: rest →
        ∃ t, exec (.bindIndexReadDone errs) s = .next t ∧ (t.aud n).ctx.bindTodo = rest
          ∧ (t.aud n).ctx.index.get r.track
              = (s.aud n).ctx.index.get r.track ++ indexEntries r.entries (readBytes s.flash f.addr)
          ∧ (∀ k, k ≠ r.track → (t.aud n).ctx.index.get k = (s.aud n).ctx.index.get k)
          ∧ (rest = [] → s.BindsTo t n)
          ∧ (∀ next later, rest = next :: later → (t.aud n).ctx.st = .binding ∧ asks t next))
      ∧ (4 < errs → ∀ id p, (s.aud n).ctx.pkg = some id → s.package id = some p →
        ∃ t, exec (.bindIndexReadDone errs) s = .next t ∧ (t.aud n).ctx.st = .vacant ∧ (t.aud n).ctx.pkg = none
          ∧ t.package id = some { p with binds := p.binds - 1 } ∧ (t.aud n).input.pm = 0 ∧ (t.aud n).input.ref = .absent
          ∧ ∃ x ∈ t.notices, x.source = .aud n ∧ x.kind = .bindDone
              ∧ x.detail = u8 id ++ u8 (s.aud n).ctx.bindGen ++ [1]))

/-- SHOW_UNBIND (R67, R56 d): refused STATE in VACANT; otherwise the context is VACANT at once, keeping its enables, leads, bind generation and timing
settings, the bind count falls, and from every state but BINDING release and playout stand OFF and a CLEAR is queued for every enabled text
track. -/
def Obligations.ShowUnbindVacates : Prop :=
  ∀ (tag a : Byte) (s : State), s.Accepts →
    (15 < a.toNat → exec (.showUnbind tag [a]) s = .next (s.taken.replied 0x33 tag .range []))
    ∧ ∀ n : Aud, a.toNat = n.val →
        ((s.aud n).ctx.st = .vacant → exec (.showUnbind tag [a]) s = .next (s.taken.replied 0x33 tag .state []))
        ∧ ((s.aud n).ctx.st ≠ .vacant → ∀ id p, (s.aud n).ctx.pkg = some id → s.package id = some p →
            ∃ t, exec (.showUnbind tag [a]) s = .next t
              ∧ t.replyBuf = .ready { kind := 0xB3, tag := tag, code := .ok, vals := [] }
              ∧ (t.aud n).ctx.st = .vacant ∧ (t.aud n).ctx.pkg = none ∧ (t.aud n).ctx.rate = none ∧ (t.aud n).ctx.duration = 0
              ∧ (t.aud n).ctx.c = 0 ∧ (t.aud n).ctx.k = 0 ∧ (t.aud n).ctx.adv = 0
              ∧ (t.aud n).ctx.text = (s.aud n).ctx.text ∧ (t.aud n).ctx.sound = (s.aud n).ctx.sound
              ∧ (t.aud n).ctx.bindGen = (s.aud n).ctx.bindGen ∧ (t.aud n).ctx.coastLimit = (s.aud n).ctx.coastLimit
              ∧ (t.aud n).ctx.slewWindow = (s.aud n).ctx.slewWindow
              ∧ t.package id = some { p with binds := p.binds - 1 }
              ∧ (t.aud n).input.pm = 0 ∧ (t.aud n).input.ref = .absent ∧ (t.aud n).input.mismatchRun = 0
              ∧ (t.aud n).input.armed = true
              ∧ ((s.aud n).ctx.st = .binding → (∀ r ∈ t.queue, r.who ≠ .bind n) ∧ (t.aud n).air = (s.aud n).air)
              ∧ ((s.aud n).ctx.st ≠ .binding →
                  (∀ k, s.textOn n k = true → (t.eng n k).state = .off ∧ (t.eng n k).look = [] ∧ (t.eng n k).active = [])
                  ∧ (∀ k, (t.play n k).state = .off ∧ (t.play n k).queue = [] ∧ (t.play n k).z = none)
                  ∧ ((s.aud n).air.pend.length ≤ 28 →
                      (t.aud n).air.pend = (s.aud n).air.pend ++ (allText.filter (s.textOn n)).map Event.clear)))

/-- SHOW_START (R81, R56 b): the tests in their order, and the start: C at the start position or D, ACQUIRING, Pm at N without a reference, the
enabled text tracks WAITING with a CLEAR queued for each, an abandoned seek's collection discarded (R92 b), and playout PRIMING at the target slot of
the start position, the queued blocks below that slot discarded and counted (R121 b). -/
def Obligations.ShowStartBeginsAcquisition : Prop :=
  ∀ (tag a p3 p2 p1 p0 : Byte) (s : State) (pos : Nat), s.Accepts → pos = be [p3, p2, p1, p0] →
    (15 < a.toNat ∨ 2147483647 < pos →
      exec (.showStart tag [a, p3, p2, p1, p0]) s = .next (s.taken.replied 0x34 tag .range []))
    ∧ ∀ n : Aud, a.toNat = n.val → pos ≤ 2147483647 →
        ((s.aud n).ctx.st = .vacant ∨ (s.aud n).ctx.st = .binding →
          exec (.showStart tag [a, p3, p2, p1, p0]) s = .next (s.taken.replied 0x34 tag .state []))
        ∧ ((s.aud n).ctx.st ≠ .vacant → (s.aud n).ctx.st ≠ .binding → ∀ r, (s.aud n).ctx.rate = some r →
            ∃ t, exec (.showStart tag [a, p3, p2, p1, p0]) s = .next t
              ∧ t.replyBuf = .ready { kind := 0xB4, tag := tag, code := .ok, vals := [] } ∧ t.notices = s.notices
              ∧ (t.aud n).ctx = { (s.aud n).ctx with
                  c := min pos (s.aud n).ctx.duration, k := 0, adv := r.ticks, coast := 0, acquire := 0, st := .acquiring }
              ∧ (t.aud n).input = { (s.aud n).input with
                  pm := r.nominal, ref := .absent, e := 0, mismatchRun := 0, armed := true, lastInterval := 0 }
              ∧ (∀ k, s.textOn n k = true → (t.eng n k).state = .waiting ∧ (t.eng n k).active = [] ∧ (t.eng n k).seek = none
                  ∧ (t.eng n k).look = (s.eng n k).look ∧ (t.eng n k).cursor = (s.eng n k).cursor
                  ∧ (t.eng n k).cursorStart = (s.eng n k).cursorStart)
              ∧ (∀ k, (s.play n k).state = .off → t.play n k = s.play n k)
              ∧ (∀ k target, (s.play n k).state ≠ .off →
                  target = 24 * ((min pos (s.aud n).ctx.duration + (s.play n k).lead) / 24) →
                  t.play n k = { s.play n k with
                    state := .priming, z := some ((target : Int) - 24)
                    queue := (s.play n k).queue.filter fun b => decide (target ≤ b.stamp)
                    discarded := min 65535
                      ((s.play n k).discarded + ((s.play n k).queue.filter fun b => decide (b.stamp < target)).length) })
              ∧ ((s.aud n).air.pend.length ≤ 28 →
                  (t.aud n).air.pend = (s.aud n).air.pend ++ (allText.filter (s.textOn n)).map Event.clear))

/-- POSITION_REPORT (R78 to R80): the tests in their order; a difference of a frame or less is ignored, one within the slew window sets K, a wider one
jumps, with JUMPED and the jump signal (R92 d, R122 b), or finishes the show at D (R82); in ACQUIRING and HELD the position is set. -/
def Obligations.PositionReportIsApplied : Prop :=
  ∀ (tag a p3 p2 p1 p0 : Byte) (s : State) (pos : Nat), s.Accepts → pos = be [p3, p2, p1, p0] →
    (15 < a.toNat ∨ 2147483647 < pos →
      exec (.positionReport tag [a, p3, p2, p1, p0]) s = .next (s.taken.replied 0x35 tag .range []))
    ∧ ∀ (n : Aud) (x : ShowCtx) (p r : Nat) (delta : Int), a.toNat = n.val → pos ≤ 2147483647 → x = (s.aud n).ctx →
        p = s.position n → r = min pos x.duration → delta = (r : Int) - p →
        (x.st = .vacant ∨ x.st = .binding ∨ x.st = .standby ∨ x.st = .finished →
          exec (.positionReport tag [a, p3, p2, p1, p0]) s = .next (s.taken.replied 0x35 tag .state []))
        ∧ (x.st = .acquiring ∨ x.st = .held →
          exec (.positionReport tag [a, p3, p2, p1, p0]) s
            = .next (((s.taken.modCtx n fun y => { y with c := r, k := 0 }).modInput n fun u =>
                { u with ref := if u.ref = .absent then .absent else .restarted, e := 0 }).replied 0x35 tag .ok
                  (s32 delta ++ [3] ++ flag (decide (x.duration < pos)) ++ s32 0)))
        ∧ (x.st = .locked ∨ x.st = .coasting →
          (p = x.duration → ∃ t, exec (.positionReport tag [a, p3, p2, p1, p0]) s = .next t
            ∧ t.replyBuf = .ready { kind := 0xB5, tag := tag, code := .state, vals := [] } ∧ s.FinishesTo t n)
          ∧ (p ≠ x.duration →
            (delta.natAbs ≤ x.ticks →
              exec (.positionReport tag [a, p3, p2, p1, p0]) s
                = .next (s.taken.replied 0x35 tag .ok (s32 delta ++ [0] ++ flag (decide (x.duration < pos)) ++ s32 x.k)))
            ∧ (x.ticks < delta.natAbs → delta.natAbs ≤ x.slewWindow * x.ticks →
              exec (.positionReport tag [a, p3, p2, p1, p0]) s
                = .next ((s.taken.modCtx n fun y => { y with k := delta }).replied 0x35 tag .ok
                    (s32 delta ++ [1] ++ flag (decide (x.duration < pos)) ++ s32 delta)))
            ∧ (x.ticks < delta.natAbs → x.slewWindow * x.ticks < delta.natAbs →
              ∃ t, exec (.positionReport tag [a, p3, p2, p1, p0]) s = .next t
                ∧ t.replyBuf = .ready
                    { kind := 0xB5, tag := tag, code := .ok
                      vals := s32 delta ++ [2] ++ flag (decide (x.duration < pos)) ++ s32 0 }
                ∧ (t.aud n).ctx.c = r ∧ (t.aud n).ctx.k = 0 ∧ (t.aud n).ctx.adv = x.ticks ∧ (t.aud n).input.e = 0
                ∧ (t.aud n).input.ref = (if (s.aud n).input.ref = .absent then .absent else .restarted)
                ∧ (r = x.duration → s.FinishesTo t n) ∧ (r ≠ x.duration → (t.aud n).ctx.st = x.st ∧ s.JumpsTo t n r)
                ∧ ∃ y ∈ t.notices, y.source = .aud n ∧ y.kind = .jumped ∧ y.detail = u32 r ++ u32 p ++ s32 delta)))

/-- TRACK_SET (R85): the tests in their order; the enable and lead are recorded. A text track that it disables is cleared and OFF, without cues (R92
h); one that it enables takes up its cue count and index, waits in STANDBY, ACQUIRING and HELD, is ENDED in FINISHED, seeks from P plus its lead
in LOCKED and COASTING, and stays OFF in BINDING (R92 i). A sound track that it disables is OFF, without blocks and z; one that it enables takes
the state of the show's, with an empty queue and, from ACQUIRING on, z at the target slot less 24 (R124). An enable in LOCKED or COASTING
computes P, and so may finish the show first (R69). -/
def Obligations.TrackSetIsRecorded : Prop :=
  ∀ (tag a : Byte) (s : State), s.Accepts →
    (∀ kd tr e l : Byte, 15 < a.toNat ∨ 1 < kd.toNat ∨ (kd = 0 ∧ 3 < tr.toNat) ∨ (kd = 1 ∧ 1 < tr.toNat) ∨ 1 < e.toNat
        ∨ 240 < l.toNat → exec (.trackSet tag [a, kd, tr, e, l]) s = .next (s.taken.replied 0x36 tag .range []))
    ∧ ∀ (n : Aud) (p : Nat) (x : ShowCtx), a.toNat = n.val → p = s.position n → x = (s.aud n).ctx →
        (∀ (k : TextTrack) (tr e l : Byte) (set : TrackSetting), tr.toNat = k.val → settingOf e l = some set →
          (x.st = .vacant → exec (.trackSet tag [a, 0, tr, e, l]) s = .next (s.taken.replied 0x36 tag .state []))
          ∧ (x.st ≠ .vacant → x.textCount ≤ k.val →
              exec (.trackSet tag [a, 0, tr, e, l]) s = .next (s.taken.replied 0x36 tag .range []))
          ∧ (x.st ≠ .vacant → k.val < x.textCount → (x.text.get k).enabled = set.enabled →
              exec (.trackSet tag [a, 0, tr, e, l]) s
                = .next ((s.taken.modCtx n fun y => { y with text := y.text.set k.val set k.isLt }).replied 0x36 tag .ok []))
          ∧ (x.st ≠ .vacant → k.val < x.textCount →
              ∃ t, exec (.trackSet tag [a, 0, tr, e, l]) s = .next t
                ∧ t.replyBuf = .ready { kind := 0xB6, tag := tag, code := .ok, vals := [] }
                ∧ (t.aud n).ctx.text = x.text.set k.val set k.isLt ∧ (t.aud n).ctx.sound = x.sound
                ∧ ((x.text.get k).enabled = true → set.enabled = false →
                    (t.eng n k).state = .off ∧ (t.eng n k).look = [] ∧ (t.eng n k).active = [] ∧ (t.eng n k).seek = none
                    ∧ (t.eng n k).index = (s.eng n k).index ∧ (t.eng n k).cueCount = (s.eng n k).cueCount
                    ∧ (∀ j, j ≠ k → t.eng n j = s.eng n j) ∧ (t.aud n).sound = (s.aud n).sound
                    ∧ ((s.aud n).air.pend.length < 32 → (t.aud n).air.pend = (s.aud n).air.pend ++ [.clear k]))
                ∧ ((x.text.get k).enabled = false → set.enabled = true →
                    (x.st = .binding → t.eng n k = s.eng n k)
                    ∧ (x.st = .standby ∨ x.st = .acquiring ∨ x.st = .held ∨ x.st = .finished →
                        t.eng n k = { s.eng n k with
                          cueCount := x.cueCounts.get k, index := x.index.get k, look := [], active := [], seek := none
                          state := if x.st = .finished then .ended else .waiting }
                        ∧ (∀ j, j ≠ k → t.eng n j = s.eng n j) ∧ (t.aud n).air = (s.aud n).air)
                    ∧ (x.st = .locked ∨ x.st = .coasting →
                        (t.eng n k).cueCount = x.cueCounts.get k ∧ (t.eng n k).index = x.index.get k
                        ∧ (p = x.duration → (t.aud n).ctx.st = .finished ∧ (t.eng n k).state = .ended ∧ (t.eng n k).look = []
                            ∧ (t.eng n k).active = [])
                        ∧ (p ≠ x.duration → (t.aud n).ctx.st = x.st ∧ s.SeeksTo t n k (p + set.lead)
                            ∧ ∀ j, j ≠ k → t.eng n j = s.eng n j)))))
        ∧ ∀ (k : SoundTrack) (tr e l : Byte) (set : TrackSetting), tr.toNat = k.val → settingOf e l = some set →
          (x.st = .vacant → exec (.trackSet tag [a, 1, tr, e, l]) s = .next (s.taken.replied 0x36 tag .state []))
          ∧ (x.st ≠ .vacant → x.soundCount ≤ k.val →
              exec (.trackSet tag [a, 1, tr, e, l]) s = .next (s.taken.replied 0x36 tag .range []))
          ∧ (x.st ≠ .vacant → k.val < x.soundCount →
            ∃ t, exec (.trackSet tag [a, 1, tr, e, l]) s = .next t
              ∧ t.replyBuf = .ready { kind := 0xB6, tag := tag, code := .ok, vals := [] }
              ∧ (t.aud n).ctx.sound = x.sound.set k.val set k.isLt ∧ (t.aud n).ctx.text = x.text
              ∧ ((s.play n k).enabled = set.enabled → (x.sound.get k).enabled = set.enabled →
                  t.play n k = { s.play n k with lead := set.lead } ∧ (t.aud n).text = (s.aud n).text)
              ∧ ((s.play n k).enabled = true → set.enabled = false →
                  t.play n k = { s.play n k with enabled := false, lead := set.lead, state := .off, queue := [], z := none })
              ∧ ((s.play n k).enabled = false → (x.sound.get k).enabled = false → set.enabled = true →
                  ∀ (z : Int) (e : Playout), z = (24 * ((p + set.lead) / 24) : Nat) - 24 →
                    e = { s.play n k with enabled := true, lead := set.lead, queue := [] } →
                    (x.st = .binding → t.play n k = { e with state := .off })
                    ∧ (x.st = .standby → t.play n k = { e with state := .idle, z := none })
                    ∧ (x.st = .acquiring → t.play n k = { e with state := .priming, z := some z })
                    ∧ (x.st = .held → t.play n k = { e with state := .frozen, z := some z })
                    ∧ (x.st = .finished → t.play n k = { e with state := .stopped, z := some z })
                    ∧ (x.st = .locked ∨ x.st = .coasting →
                        (p ≠ x.duration → t.play n k = { e with state := .serving, z := some z })
                        ∧ (p = x.duration → (t.aud n).ctx.st = .finished ∧ (t.play n k).state = .stopped))))

/-- SHOW_STATUS (R87): refused RANGE above auditorium 15; else OK with the values as they stand, after the finish test that computing P makes. The
values are those of the show context (R87), the input unit (R62), the four track engines (R111), the two playout engines (R125), the air
scheduler (R148) and the emitter unit (R158). Their layout and order within the lists of the rules are log entry 22's (DESIGN CHOICE). -/
def Obligations.ShowStatusReports : Prop :=
  (∀ (tag a : Byte) (s : State), s.Accepts →
    (15 < a.toNat → exec (.showStatus tag [a]) s = .next (s.taken.replied 0x37 tag .range []))
    ∧ ∀ n : Aud, a.toNat = n.val →
        (¬((s.aud n).ctx.st.running = true ∧ s.position n = (s.aud n).ctx.duration) →
          exec (.showStatus tag [a]) s = .next (s.taken.replied 0x37 tag .ok (s.showStatus n)))
        ∧ ((s.aud n).ctx.st.running = true → s.position n = (s.aud n).ctx.duration →
          ∃ t, exec (.showStatus tag [a]) s = .next t ∧ s.FinishesTo t n
            ∧ t.replyBuf = .ready { kind := 0xB7, tag := tag, code := .ok, vals := t.showStatus n }))
  ∧ ∀ (s : State) (n : Aud) (x : ShowCtx) (u : InputUnit) (a : AirSched) (m : Emitter)
      (pkg rate ctx input air line emit : List Byte) (engine : TrackEngine → List Byte) (play : Playout → List Byte)
      (settings : AirSettings → List Byte) (lines : LineSettings → List Byte),
      x = (s.aud n).ctx → u = (s.aud n).input → a = (s.aud n).air → m = (s.aud n).emit →
      (∀ id, x.pkg = some id → pkg = [1] ++ u8 id ++ (match s.package id with
          | some p => [1] ++ u16 p.serial
          | none => [0, 0, 0])) → (x.pkg = none → pkg = [0, 0, 0, 0, 0]) →
      (∀ r, x.rate = some r → rate = [1] ++ u8 r.code) → (x.rate = none → rate = [0, 0]) →
      ctx = u8 x.st.code ++ pkg ++ rate ++ (if x.pkg = none then [0, 0, 0, 0, 0] else [1] ++ u32 x.duration)
        ++ u32 x.c ++ u32 (s.position n) ++ u8 x.adv ++ s32 x.k ++ u8 x.coast ++ u8 x.acquire ++ u8 x.bindGen
        ++ u8 x.coastLimit ++ u8 x.slewWindow ++ u8 x.coastLimitStaged ++ u8 x.slewWindowStaged
        ++ (x.text.toList ++ x.sound.toList).flatMap (fun t => flag t.enabled ++ u8 t.lead) →
      input = u8 u.wCurrent ++ u8 u.wStaged ++ u8 u.filter.code ++ u16 u.candidates ++ u8 u.ref.code ++ u32 u.e ++ u16 u.pm
        ++ u32 u.lastInterval ++ u8 u.mismatchRun ++ flag u.armed ++ u8 u.auxA.taken.code ++ u8 u.auxB.taken.code
        ++ u8 s.shold.taken.code ++ u.gateTable.toList.flatMap (fun g => u8 g.code) ++ u8 u.gate.code →
      (∀ e, engine e = u8 e.state.code ++ u32 e.cursor ++ (match e.cursorStart with
            | some p => [1] ++ u32 p
            | none => [0, 0, 0, 0, 0])
          ++ (u8 e.look.length ++ e.look.flatMap fun c => u16 c.number) ++ (u8 e.active.length ++ e.active.flatMap fun c => u16 c.number)
          ++ u8 e.seekCount ++ flag e.out.isSome ++ flag e.starved ++ u8 e.starveCount ++ u16 e.missed) →
      (∀ e, play e = u8 e.state.code ++ flag e.enabled ++ u8 e.lead ++ (match e.z with
            | some z => [1] ++ s32 z
            | none => [0, 0, 0, 0, 0])
          ++ u8 e.queue.length ++ (match e.queue.head?, e.queue.getLast? with
            | some b, some c => [1] ++ u32 b.stamp ++ [1] ++ u32 c.stamp
            | _, _ => List.replicate 10 0)
          ++ u16 e.served ++ u16 e.gaps ++ u16 e.discarded ++ u8 e.skips) →
      (∀ w, settings w = u8 w.rate.code ++ u16 w.site ++ u8 w.idle) →
      air = settings a.current ++ settings a.staged ++ u16 a.current.rate.budget ++ u8 a.sequence ++ u16 a.built ++ u16 a.lastSize
        ++ u8 a.pend.length ++ (match a.pend with
          | [] => [0, 0, 0, 0]
          | ev :: _ => [1] ++ u8 ev.code ++ (match ev.track with
              | some k => [1] ++ u8 k
              | none => [0, 0]))
        ++ u8 a.carousel.val ++ u8 a.ann.code ++ (match a.ann with
          | .active _ interval countdown life _ => [1] ++ u8 interval ++ [1] ++ u8 countdown ++ [1] ++ u16 (life.getD 0)
          | _ => List.replicate 7 0)
        ++ u8 a.beacon ++ (match a.lastGate with
          | some g => u8 g.code
          | none => [2])
        ++ u8 a.overflows →
      (∀ l, lines l = u8 l.modeA.code ++ u8 l.pullA.code ++ u8 l.modeB.code ++ u8 l.pullB.code ++ u8 l.pairing.code ++ u16 l.p ++ u16 l.w) →
      line = lines m.current ++ lines m.staged →
      emit = u8 m.state.code ++ line ++ flag m.demand ++ flag m.tx.isSome ++ u8 m.retry ++ u16 m.clean ++ u32 m.cooling ++ u16 m.sent
        ++ u16 m.dropped ++ (match m.lastFault with
          | some q => [1] ++ u8 q
          | none => [0, 0])
        ++ flag m.oc →
      s.showStatus n = ctx ++ input ++ (s.aud n).text.toList.flatMap engine ++ (s.aud n).sound.toList.flatMap play ++ air ++ emit

/-! ## Cue release -/

/-- FETCH_READ_DONE and SEEK_READ_DONE (R94 to R97, R102 to R104), of an engine with no other request waiting: a completion that does not match
changes nothing of the engine but that its read is over, and a seek that waited on it, or the fetch test, makes the next request; a fetched page
fills the lookahead queue from the cursor on, to 8 cues; a lost page's cues are missed. A page of a seek is examined up to the cue that makes 8
future cues: the cues not yet over at the seek position join the overlap collection, of which the 4 that started last are kept, and the future
ones the other collection. With fewer than 8 and pages left the seek goes on with the next page; otherwise the collections become the active set
and the lookahead queue, and the track is restored unless the gate withholds events. The cue count of a page in CUE_MISSED's detail is one byte
by log entry 23 (DESIGN CHOICE), and that a lost page leaves the starved flag is log entry 35's (DESIGN CHOICE). -/
def Obligations.EngineReadsAreTaken : Prop :=
  ∀ (n : Aud) (t : TextTrack) (errs : Nat) (s : State) (f : Flight) (e : TrackEngine) (cues : List Cue) (matched : Prop),
    s.flight = some f → f.req.who = .engine n t → (∀ r ∈ s.queue, r.who ≠ .engine n t) → e = s.eng n t →
    cues = pageCues (readBytes s.flash f.addr) →
    (matched ↔ f.req.bindGen = (s.aud n).ctx.bindGen ∧ f.req.seekCount = e.seekCount
      ∧ e.state = (if f.req.kind = .fetch then .running else .seeking)) →
    (∀ i, ¬matched → (i = .fetchReadDone errs ∧ f.req.kind = .fetch) ∨ (i = .seekReadDone errs ∧ f.req.kind = .seek) →
      ∃ u, exec i s = .next u ∧ { u.eng n t with out := e.out } = e ∧ (u.aud n).air = (s.aud n).air
        ∧ (∀ k en, e.state = .seeking → e.seek = some k → e.index[k.entry]? = some en → u.AsksFor n t .seek en.logical e.seekPos)
        ∧ (e.state = .running → u.FetchesNext n t) ∧ (e.state ≠ .seeking → e.state ≠ .running → (u.eng n t).out = none))
    ∧ (matched → f.req.kind = .fetch →
      (∀ here, errs ≤ 4 → here = cues.dropWhile (fun c => decide (c.number ≠ e.cursor)) →
        ∃ u, exec (.fetchReadDone errs) s = .next u
          ∧ (u.eng n t).look = e.look ++ here.take (8 - e.look.length) ∧ (u.eng n t).active = e.active
          ∧ (u.eng n t).starved = false ∧ (u.eng n t).starveCount = e.starveCount ∧ (u.eng n t).missed = e.missed
          ∧ (u.eng n t).state = .running ∧ u.FetchesNext n t ∧ (u.aud n).air = (s.aud n).air
          ∧ (∀ c rest, here.drop (8 - e.look.length) = c :: rest →
              (u.eng n t).cursor = e.cursor + (here.take (8 - e.look.length)).length ∧ (u.eng n t).cursorStart = some c.startTick)
          ∧ (∀ i en, here.drop (8 - e.look.length) = [] → e.entryOf e.cursor = some i → e.index[i + 1]? = some en →
              (u.eng n t).cursor = en.firstCue ∧ (u.eng n t).cursorStart = some en.firstStart)
          ∧ (∀ i, here.drop (8 - e.look.length) = [] → e.entryOf e.cursor = some i → e.index[i + 1]? = none →
              (u.eng n t).cursor = e.cueCount ∧ (u.eng n t).cursorStart = none))
      ∧ (∀ i, 4 < errs → e.entryOf e.cursor = some i →
        ∃ u, exec (.fetchReadDone errs) s = .next u ∧ (u.eng n t).look = e.look ∧ (u.eng n t).active = e.active
          ∧ (u.eng n t).missed = min 65535 (e.missed + (e.firstFrom (i + 1) - e.cursor)) ∧ (u.eng n t).starved = e.starved
          ∧ (u.eng n t).cursor = e.firstFrom (i + 1) ∧ (u.eng n t).cursorStart = (e.index[i + 1]?).map (·.firstStart)
          ∧ (u.eng n t).state = .running ∧ u.FetchesNext n t
          ∧ ∃ x ∈ u.notices, x.source = .aud n ∧ x.kind = .cueMissed
              ∧ x.detail = u8 t.val ++ u16 e.cursor ++ u8 (e.firstFrom (i + 1) - e.cursor) ++ [0]))
    ∧ ∀ (k : SeekColl) (later : Cue → Cue → Prop), matched → f.req.kind = .seek → e.seek = some k →
        (∀ a b : Cue, later a b ↔ b.startTick < a.startTick ∨ (b.startTick = a.startTick ∧ b.number < a.number)) →
        (∀ (seen left overlap fu : List Cue), errs ≤ 4 → k.future.length < 8 → k.overlap.length ≤ 4 →
          k.overlap.Pairwise (fun a b => ¬later a b) → cues = seen ++ left →
          overlap = k.overlap ++ seen.filter (fun c => decide (c.startTick ≤ e.seekPos ∧ e.seekPos < c.endTick)) →
          fu = k.future ++ seen.filter (fun c => decide (e.seekPos < c.startTick ∧ e.seekPos < c.endTick)) →
          (fu.length < 8 ∧ left = [])
            ∨ (fu.length = 8 ∧ ∃ seen' c, seen = seen' ++ [c] ∧ e.seekPos < c.startTick ∧ e.seekPos < c.endTick) →
          ∃ u ov dropped, exec (.seekReadDone errs) s = .next u
            ∧ (dropped ++ ov).Perm overlap ∧ ov.length = min 4 overlap.length ∧ ov.Pairwise (fun a b => ¬later a b)
            ∧ (∀ d ∈ dropped, ∀ c ∈ ov, ¬later d c)
            ∧ (∀ en, fu.length < 8 → e.index[k.entry + 1]? = some en →
                (u.eng n t).state = .seeking ∧ (u.eng n t).seek = some { overlap := ov, future := fu, entry := k.entry + 1 }
                ∧ (u.eng n t).seekPos = e.seekPos ∧ u.AsksFor n t .seek en.logical e.seekPos ∧ (u.aud n).air = (s.aud n).air)
            ∧ (8 ≤ fu.length ∨ e.index[k.entry + 1]? = none →
                (u.eng n t).active = ov ∧ (u.eng n t).look = fu ∧ (u.eng n t).seek = none
                ∧ (∀ c rest, left = c :: rest → (u.eng n t).cursor = c.number ∧ (u.eng n t).cursorStart = some c.startTick)
                ∧ (left = [] → (u.eng n t).cursor = e.firstFrom (k.entry + 1)
                    ∧ (u.eng n t).cursorStart = (e.index[k.entry + 1]?).map (·.firstStart))
                ∧ (u.eng n t).state
                    = (if fu = [] ∧ ov = [] ∧ e.cueCount ≤ (u.eng n t).cursor then .ended else .running)
                ∧ u.FetchesNext n t
                ∧ ((s.aud n).air.lastGate = some .opened → (s.aud n).air.pend.length ≤ 27 →
                    (u.aud n).air.pend = (s.aud n).air.pend ++ .clear t :: ov.map (Event.cueOn t))
                ∧ ((s.aud n).air.lastGate ≠ some .opened → (u.aud n).air = (s.aud n).air)))
        ∧ (∀ en, 4 < errs → e.index[k.entry]? = some en →
          ∃ u, exec (.seekReadDone errs) s = .next u
            ∧ (u.eng n t).missed = min 65535 (e.missed + (e.firstFrom (k.entry + 1) - en.firstCue))
            ∧ (∃ x ∈ u.notices, x.source = .aud n ∧ x.kind = .cueMissed
                ∧ x.detail = u8 t.val ++ u16 en.firstCue ++ u8 (e.firstFrom (k.entry + 1) - en.firstCue) ++ [0])
            ∧ (∀ next, e.index[k.entry + 1]? = some next →
                (u.eng n t).state = .seeking ∧ (u.eng n t).seek = some { k with entry := k.entry + 1 }
                ∧ u.AsksFor n t .seek next.logical e.seekPos)
            ∧ (e.index[k.entry + 1]? = none →
                (u.eng n t).active = k.overlap ∧ (u.eng n t).look = k.future ∧ (u.eng n t).seek = none
                ∧ (u.eng n t).cursor = e.cueCount ∧ (u.eng n t).cursorStart = none
                ∧ (u.eng n t).state = (if k.future = [] ∧ k.overlap = [] then .ended else .running) ∧ (u.eng n t).out = none))

/-- The release check of a track at P (R98 to R101, R94), with q = P plus the track's lead. An engine that is not RUNNING is left as it is. Of a
RUNNING one the cues over at q leave the active set; the queued cues that have started by q leave the lookahead queue: one that is over too is
missed, EXPIRED, with CUE_MISSED, any other joins the active set, in the order of start tick and number, with CUE_ON; where the set is full the
cue that started earliest is cut for it, with CUE_OFF. Events that are withheld are not submitted. An empty queue whose next cue is due while
its read is outstanding starves, once for each read; an engine with nothing queued, active, outstanding or left has ENDED; the fetch test
follows. The one-byte count of CUE_MISSED is log entry 23's layout (DESIGN CHOICE). -/
def Obligations.ReleaseCheckReleasesDueCues : Prop :=
  ∀ (s t : State) (n : Aud) (p : Nat) (withhold : Bool) (k : TextTrack) (e : TrackEngine) (q : Nat) (kept due expired live : List Cue)
    (before : Cue → Cue → Prop), t = s.releaseCheck n p withhold k → e = s.eng n k → q = p + ((s.aud n).ctx.text.get k).lead →
    kept = e.active.filter (fun c => decide (q < c.endTick)) → due = e.look.takeWhile (fun c => decide (c.startTick ≤ q)) →
    expired = due.filter (fun c => decide (c.endTick ≤ q)) → live = due.filter (fun c => decide (q < c.endTick)) →
    (∀ a b : Cue, before a b ↔ a.startTick < b.startTick ∨ (a.startTick = b.startTick ∧ a.number < b.number)) →
    (e.state ≠ .running → t = s)
    ∧ (e.state = .running →
      (t.eng n k).look = e.look.drop due.length ∧ (t.eng n k).cursor = e.cursor ∧ (t.eng n k).cursorStart = e.cursorStart
      ∧ (t.eng n k).seekCount = e.seekCount
      ∧ (t.eng n k).missed = (if expired = [] then e.missed else min 65535 (e.missed + expired.length))
      ∧ (expired = [] → t.notices = s.notices)
      ∧ (∀ c, expired.getLast? = some c → ∃ x ∈ t.notices, x.source = .aud n ∧ x.kind = .cueMissed
          ∧ x.detail = u8 k.val ++ u16 c.number ++ [1, 1])
      ∧ (kept.length + live.length ≤ 4 →
          (t.eng n k).active.Perm (kept ++ live) ∧ (kept.Pairwise (fun a b => ¬before b a) → (t.eng n k).active.Pairwise fun a b => ¬before b a)
          ∧ (withhold = false → (s.aud n).air.pend.length + live.length ≤ 32 →
              (t.aud n).air = { (s.aud n).air with pend := (s.aud n).air.pend ++ live.map (Event.cueOn k) }))
      ∧ (∀ oldest others c, kept = oldest :: others → kept.length = 4 → kept.Pairwise (fun a b => ¬before b a) → live = [c] →
          (t.eng n k).active.Perm (others ++ [c]) ∧ (t.eng n k).active.Pairwise (fun a b => ¬before b a)
          ∧ (withhold = false → (s.aud n).air.pend.length ≤ 30 →
              (t.aud n).air = { (s.aud n).air with pend := (s.aud n).air.pend ++ [.cueOff k oldest.number, .cueOn k c] }))
      ∧ (withhold = true → (t.aud n).air = (s.aud n).air)
      ∧ ((t.eng n k).look = [] → e.out ≠ none → ∀ st, e.cursorStart = some st → st ≤ q →
          (t.eng n k).starved = true
          ∧ (t.eng n k).starveCount = (if e.starved = true then e.starveCount else min 255 (e.starveCount + 1)))
      ∧ ((t.eng n k).look ≠ [] ∨ e.out = none ∨ (∀ st, e.cursorStart = some st → q < st) →
          (t.eng n k).starved = e.starved ∧ (t.eng n k).starveCount = e.starveCount)
      ∧ (t.eng n k).state
          = (if (t.eng n k).look = [] ∧ (t.eng n k).active = [] ∧ e.out = none ∧ e.cueCount ≤ e.cursor then .ended else .running)
      ∧ (e.out = none → t.FetchesNext n k) ∧ (e.out ≠ none → (t.eng n k).out = e.out)
      ∧ (∀ j, j ≠ k → t.eng n j = s.eng n j) ∧ (∀ m, m ≠ n → t.aud m = s.aud m) ∧ (t.aud n).ctx = (s.aud n).ctx
      ∧ (t.aud n).input = (s.aud n).input ∧ (t.aud n).sound = (s.aud n).sound ∧ (t.aud n).emit = (s.aud n).emit)

/-! ## Described audio -/

/-- SOUND_BLOCK and SOUND_FLUSH: the tests of R116 and R117 in their order, each with its reply, the admission of a block at the place its stamp gives
it, and the emptying of the queue, which leaves z (R116, R117). -/
def Obligations.SoundCommandsAreAnswered : Prop :=
  ∀ (tag a tr : Byte) (s : State), s.Accepts →
    (∀ (s3 s2 s1 s0 : Byte) (payload : List Byte) (stamp : Nat) (body : List Byte), stamp = be [s3, s2, s1, s0] →
      body = a :: tr :: s3 :: s2 :: s1 :: s0 :: payload →
      (15 < a.toNat ∨ 1 < tr.toNat ∨ payload = [] ∨ 200 < payload.length ∨ 2147483647 < stamp →
        exec (.soundBlock tag body) s = .next (s.taken.replied 0x40 tag .range []))
      ∧ ∀ (n : Aud) (t : SoundTrack) (x : ShowCtx) (e : Playout) (vals : List Byte), a.toNat = n.val → tr.toNat = t.val →
          payload ≠ [] → payload.length ≤ 200 → stamp ≤ 2147483647 → x = (s.aud n).ctx → e = s.play n t →
          vals = optS32 e.z ++ u8 e.queue.length →
          (x.st = .vacant ∨ x.st = .binding ∨ x.st = .standby ∨ x.st = .finished →
            exec (.soundBlock tag body) s = .next (s.taken.replied 0x40 tag .state vals))
          ∧ (x.st ≠ .vacant → x.st ≠ .binding → x.st ≠ .standby → x.st ≠ .finished →
            (x.soundCount ≤ t.val → exec (.soundBlock tag body) s = .next (s.taken.replied 0x40 tag .range vals))
            ∧ (t.val < x.soundCount → (x.sound.get t).enabled = false →
                exec (.soundBlock tag body) s = .next (s.taken.replied 0x40 tag .state vals))
            ∧ (t.val < x.soundCount → (x.sound.get t).enabled = true →
              (stamp % 24 ≠ 0 → exec (.soundBlock tag body) s = .next (s.taken.replied 0x40 tag .range vals))
              ∧ (stamp % 24 = 0 →
                ((∃ z, e.z = some z ∧ (stamp : Int) ≤ z) → exec (.soundBlock tag body) s = .next (s.taken.replied 0x40 tag .late vals))
                ∧ ((∀ z, e.z = some z → z < (stamp : Int)) →
                  ((∃ b ∈ e.queue, b.stamp = stamp) → exec (.soundBlock tag body) s = .next (s.taken.replied 0x40 tag .duplicate vals))
                  ∧ ((∀ b ∈ e.queue, b.stamp ≠ stamp) → 64 ≤ e.queue.length →
                      exec (.soundBlock tag body) s = .next (s.taken.replied 0x40 tag .full vals))
                  ∧ ((∀ b ∈ e.queue, b.stamp ≠ stamp) → e.queue.length < 64 →
                      ∃ before after q, e.queue = before ++ after ∧ q = before ++ { stamp := stamp, payload := payload } :: after
                        ∧ (∀ b ∈ before, b.stamp < stamp) ∧ (∀ b rest, after = b :: rest → stamp < b.stamp)
                        ∧ exec (.soundBlock tag body) s
                            = .next ((s.taken.modPlay n t fun e => { e with queue := q }).replied 0x40 tag .ok
                                (optS32 e.z ++ u8 (e.queue.length + 1)))))))))
    ∧ (15 < a.toNat ∨ 1 < tr.toNat → exec (.soundFlush tag [a, tr]) s = .next (s.taken.replied 0x41 tag .range []))
    ∧ ∀ (n : Aud) (t : SoundTrack), a.toNat = n.val → tr.toNat = t.val →
        ((s.aud n).ctx.st = .vacant → exec (.soundFlush tag [a, tr]) s = .next (s.taken.replied 0x41 tag .state []))
        ∧ ((s.aud n).ctx.st ≠ .vacant → (s.aud n).ctx.soundCount ≤ t.val →
            exec (.soundFlush tag [a, tr]) s = .next (s.taken.replied 0x41 tag .range []))
        ∧ ((s.aud n).ctx.st ≠ .vacant → t.val < (s.aud n).ctx.soundCount →
            exec (.soundFlush tag [a, tr]) s
              = .next ((s.taken.modPlay n t fun e => { e with queue := [] }).replied 0x41 tag .ok
                  (u8 (s.play n t).queue.length ++ optS32 (s.play n t).z)))

/-- Slot service at P (R118 to R120), the target slot of a track being 24 · ((P + lead) div 24). The skip test moves z of a SERVING track that lags
its target by more than 72 ticks to the target less 24, with the blocks passed discarded and SOUND_SKIP; with the gate CLOSED z moves to the
target itself, without a notice. Service is three rounds of track 0 and track 1: a turn of a track with no slot due passes; a slot due is
offered as SOUND with its queued block or as GAP, and a claim that is granted serves it, while one that is refused ends the service. The
notice's z without a presence byte is log entry 23's (DESIGN CHOICE). -/
def Obligations.SlotServiceServesTheGrid : Prop :=
  (∀ (s : State) (n : Aud) (p : Nat) (k : SoundTrack) (e : Playout) (target : Nat), e = s.play n k → target = 24 * ((p + e.lead) / 24) →
    (∀ z : Int, e.state = .serving → e.z = some z → z + 72 < target →
      ∀ gone, gone = (e.queue.filter fun b => decide (b.stamp + 24 ≤ target)) →
      s.skipTest n p k
        = (s.modPlay n k fun e => { e with
            z := some (target - 24), queue := e.queue.filter fun b => decide (target < b.stamp + 24)
            discarded := min 65535 (e.discarded + gone.length), skips := min 255 (e.skips + 1) }).raise (.aud n) .soundSkip
            (u8 k.val ++ s32 z ++ s32 (target - 24) ++ u8 gone.length))
    ∧ (e.state ≠ .serving ∨ (∀ z, e.z = some z → (target : Int) ≤ z + 72) → s.skipTest n p k = s))
  ∧ (∀ (e : Playout) (p target : Nat), target = 24 * ((p + e.lead) / 24) →
    (∀ z : Int, e.state = .serving → e.z = some z → z < target →
      e.passClosed p = { e with
        z := some (target : Int), queue := e.queue.filter fun b => decide (target < b.stamp)
        discarded := min 65535 (e.discarded + (e.queue.filter fun b => decide (b.stamp ≤ target)).length) })
    ∧ (e.state ≠ .serving ∨ (∀ z, e.z = some z → (target : Int) ≤ z) → e.passClosed p = e))
  ∧ (∀ (n : Aud) (p : Nat) (k : SoundTrack) (more : List SoundTrack) (s : State) (b : Build) (e : Playout) (target : Nat),
    e = s.play n k → target = 24 * ((p + e.lead) / 24) →
    (e.state ≠ .serving ∨ (∀ z, e.z = some z → (target : Int) < z + 24) →
      State.serveTurns n p (k :: more) s b = State.serveTurns n p more s b)
    ∧ (∀ (u : Nat) (item : Item), e.state = .serving → e.z = some ((u : Int) - 24) → u ≤ target →
      (∀ blk, e.queue.find? (fun x => decide (x.stamp = u)) = some blk → item = .sound k u blk.payload) →
      (e.queue.find? (fun x => decide (x.stamp = u)) = none → item = .gap k u) →
      (b.budget < b.acct + item.size → State.serveTurns n p (k :: more) s b = (s, b))
      ∧ (b.acct + item.size ≤ b.budget → ∀ found : Bool, found = e.queue.any (fun x => decide (x.stamp = u)) →
          State.serveTurns n p (k :: more) s b
            = State.serveTurns n p more
                (s.modPlay n k fun e => { e with
                  z := some (u : Int), queue := e.queue.filter fun x => decide (x.stamp ≠ u)
                  served := if found then (e.served + 1) % 65536 else e.served
                  gaps := if found then e.gaps else (e.gaps + 1) % 65536 })
                { b with acct := b.acct + item.size, items := b.items ++ [item] })))
  ∧ ∀ (s : State) (n : Aud) (p : Nat) (b : Build),
      s.slotService n p b = State.serveTurns n p [0, 1, 0, 1, 0, 1] ((s.skipTest n p 0).skipTest n p 1) b
        ∧ State.serveTurns n p [] s b = (s, b)

/-! ## The air and the emitter -/

/-- TIMING_SET, AIR_SET and EMITTER_SET stage their settings (R84, R147, R157): the ranges, the two checks of the subcarrier period against the bit
rate, the adoption at once without a frame reference, and the enable of the emitter, which acts at once. An enable that takes the unit to ACTIVE
asks for the restore of every enabled text track, in the show states that send show frames and unless the gate withholds events (R156, R106,
R107). -/
def Obligations.SettingsAreStaged : Prop :=
  ∀ (tag a : Byte) (s : State), s.Accepts →
    (∀ w c sw : Byte,
      (15 < a.toNat ∨ 48 < c.toNat ∨ sw.toNat = 0 ∨ 48 < sw.toNat →
        exec (.timingSet tag [a, w, c, sw]) s = .next (s.taken.replied 0x31 tag .range []))
      ∧ ∀ n : Aud, a.toNat = n.val → c.toNat ≤ 48 → 1 ≤ sw.toNat → sw.toNat ≤ 48 →
          exec (.timingSet tag [a, w, c, sw]) s
            = .next ((s.taken.modAud n fun x =>
                if x.input.ref = .absent then
                  { x with
                    input := { x.input with wStaged := w.toNat, wCurrent := w.toNat }
                    ctx := { x.ctx with
                      coastLimitStaged := c.toNat, coastLimit := c.toNat, slewWindowStaged := sw.toNat, slewWindow := sw.toNat } }
                else
                  { x with
                    input := { x.input with wStaged := w.toNat }
                    ctx := { x.ctx with coastLimitStaged := c.toNat, slewWindowStaged := sw.toNat } }).replied 0x31 tag .ok []))
    ∧ (∀ r c1 c0 idle : Byte,
      (15 < a.toNat ∨ 2 < r.toNat ∨ idle.toNat = 0 ∨ 250 < idle.toNat →
        exec (.airSet tag [a, r, c1, c0, idle]) s = .next (s.taken.replied 0x50 tag .range []))
      ∧ ∀ (n : Aud) (rate : BitRate), a.toNat = n.val → r.toNat = rate.code → 1 ≤ idle.toNat → idle.toNat ≤ 250 →
          (rate.maxPeriod < (s.aud n).emit.staged.p →
            exec (.airSet tag [a, r, c1, c0, idle]) s = .next (s.taken.replied 0x50 tag .range []))
          ∧ ((s.aud n).emit.staged.p ≤ rate.maxPeriod →
            exec (.airSet tag [a, r, c1, c0, idle]) s
              = .next ((s.taken.modAir n fun x =>
                  { x with staged := { rate := rate, site := be [c1, c0], idle := idle.toNat } }).replied 0x50 tag .ok [])))
    ∧ ∀ en ma pa mb pb pr p1 p0 w1 w0 : Byte,
      (15 < a.toNat ∨ 1 < en.toNat ∨ 3 < ma.toNat ∨ 2 < pa.toNat ∨ 3 < mb.toNat ∨ 2 < pb.toNat ∨ 2 < pr.toNat ∨ be [p1, p0] < 4
          ∨ 1023 < be [p1, p0] ∨ be [p1, p0] < be [w1, w0] →
        exec (.emitterSet tag [a, en, ma, pa, mb, pb, pr, p1, p0, w1, w0]) s = .next (s.taken.replied 0x60 tag .range []))
      ∧ ∀ (n : Aud) (l : LineSettings) (u : Emitter), a.toNat = n.val → en.toNat ≤ 1 →
          [ma, pa, mb, pb, pr, p1, p0, w1, w0] = l.bytes → l.p = be [p1, p0] → l.w = be [w1, w0] → 4 ≤ l.p → l.p ≤ 1023 → l.w ≤ l.p →
          u = (s.aud n).emit →
          ((s.aud n).air.staged.rate.maxPeriod < l.p →
            exec (.emitterSet tag [a, en, ma, pa, mb, pb, pr, p1, p0, w1, w0]) s = .next (s.taken.replied 0x60 tag .range []))
          ∧ (l.p ≤ (s.aud n).air.staged.rate.maxPeriod →
            ∃ t, exec (.emitterSet tag [a, en, ma, pa, mb, pb, pr, p1, p0, w1, w0]) s = .next t
              ∧ t.replyBuf = .ready { kind := 0xE0, tag := tag, code := .ok, vals := u8 (t.aud n).emit.state.code }
              ∧ (t.aud n).emit.staged = l ∧ (t.aud n).emit.current = u.current
              ∧ (en.toNat = 0 → (t.aud n).emit.state = .disabled ∧ (t.aud n).emit.retry = u.retry
                  ∧ (u.state ≠ .disabled → (t.aud n).emit.tx = none ∧ (t.aud n).emit.clean = 0
                      ∧ (t.aud n).emit.dropped = (if u.tx = none then u.dropped else min 65535 (u.dropped + 1))))
              ∧ (en.toNat = 1 → u.state = .disabled ∨ u.state = .latchedOff →
                  (t.aud n).emit.state = (if u.demand then .active else .sleeping) ∧ (t.aud n).emit.retry = 0
                    ∧ (t.aud n).emit.clean = 0)
              ∧ (en.toNat = 1 → u.state ≠ .disabled → u.state ≠ .latchedOff → (t.aud n).emit = { u with staged := l })
              ∧ ∀ (restores : Bool) (evs : List Event),
                  restores = decide (en.toNat = 1 ∧ (u.state = .disabled ∨ u.state = .latchedOff) ∧ u.demand = true
                    ∧ ((s.aud n).ctx.st = .acquiring ∨ (s.aud n).ctx.st = .locked ∨ (s.aud n).ctx.st = .coasting
                      ∨ (s.aud n).ctx.st = .held) ∧ (s.aud n).air.lastGate = some .opened) →
                  evs = ([0, 1, 2, 3] : List TextTrack).flatMap (fun k =>
                    if ((s.aud n).ctx.text.get k).enabled = false then []
                    else if (s.eng n k).state = .running then .clear k :: (s.eng n k).active.map (Event.cueOn k)
                    else if (s.eng n k).state = .waiting ∨ (s.eng n k).state = .ended then [.clear k] else []) →
                  (restores = true → (s.aud n).air.pend.length + evs.length ≤ 32 →
                    (t.aud n).air = { (s.aud n).air with pend := (s.aud n).air.pend ++ evs })
                  ∧ (restores = false → (t.aud n).air = (s.aud n).air))

/-- ANNOUNCE and ANNOUNCE_CANCEL (R140 to R142): the tests, the slots of the auditoriums in the mask, those outside it, and the mask of the
announcements that a cancel ended. The announcement number is the count of accepted ANNOUNCE commands (R173); that it is the count after it has
risen is log entry 27's (DEDUCED). -/
def Obligations.AnnouncementsStartAndEnd : Prop :=
  ∀ (tag m1 m0 : Byte) (s : State) (mask : Nat), s.Accepts → mask = be [m1, m0] →
    (∀ (i d1 d0 : Byte) (text : List Byte) (body : List Byte), body = m1 :: m0 :: i :: d1 :: d0 :: text →
      (mask = 0 ∨ text = [] ∨ 120 < text.length ∨ i.toNat = 0 ∨ 50 < i.toNat ∨ 600 < be [d1, d0] →
        exec (.announce tag body) s = .next (s.taken.replied 0x51 tag .range []))
      ∧ (mask ≠ 0 → text ≠ [] → text.length ≤ 120 → 1 ≤ i.toNat → i.toNat ≤ 50 → be [d1, d0] ≤ 600 →
        ∃ t, exec (.announce tag body) s = .next t
          ∧ t.replyBuf = .ready { kind := 0xD1, tag := tag, code := .ok, vals := [] }
          ∧ t.announces = (s.announces + 1) % 4294967296
          ∧ ∀ n : Aud,
              (mask.testBit n.val = false → t.aud n = s.aud n)
              ∧ (mask.testBit n.val = true →
                  t.aud n = { s.aud n with
                    air := { (s.aud n).air with
                      ann := .active text i.toNat 0 (if be [d1, d0] = 0 then none else some (be [d1, d0] * 50)) t.announces
                      pend := if (s.aud n).air.ann = .ending then (s.aud n).air.pend.filter (fun e => decide (e ≠ .announceEnd))
                        else (s.aud n).air.pend } })))
    ∧ ∃ t ended, exec (.announceCancel tag [m1, m0]) s = .next t ∧ ended < 65536
        ∧ t.replyBuf = .ready { kind := 0xD2, tag := tag, code := .ok, vals := u16 ended }
        ∧ ∀ n : Aud, ended.testBit n.val = (mask.testBit n.val && (s.aud n).air.ann.isActive)
            ∧ (ended.testBit n.val = false → t.aud n = s.aud n)
            ∧ (ended.testBit n.val = true → (t.aud n).air.ann = .ending
                ∧ ((s.aud n).air.pend.length < 32 → (t.aud n).air.pend = (s.aud n).air.pend ++ [.announceEnd])
                ∧ (32 ≤ (s.aud n).air.pend.length → (t.aud n).air.pend = s.restoreEvents n ++ [.announceEnd])
                ∧ (t.aud n).ctx = (s.aud n).ctx ∧ (t.aud n).emit = (s.aud n).emit)

/-- The byte budget (R131): what each bit rate carries in 19 ms; a claim is granted when the account does not then exceed B and raises the account,
and is refused otherwise; every built frame, as bytes and overhead included, is of the length its account gives and fits the budget of its
auditorium's bit rate. -/
def Obligations.FramesFitTheBudget : Prop :=
  (∀ (r : BitRate) (kbits : Nat), (r, kbits) ∈ [(BitRate.r250, 250), (.r500, 500), (.r1000, 1000)] → r.budget = kbits * 19 / 8)
    ∧ (∀ (b : Build) (i : Item),
      (b.acct + i.size ≤ b.budget → ∃ b', b.claim i = some b' ∧ b'.acct = b.acct + i.size ∧ b'.items = b.items ++ [i]
        ∧ b'.budget = b.budget)
      ∧ (b.budget < b.acct + i.size → b.claim i = none))
    ∧ ∀ (s t : State) (n : Aud) (kind : FrameKind) (f : AirFrame), s.buildFrame n kind = (t, f) →
        f.bytes.length = f.length ∧ 18 ≤ f.length ∧ f.length ≤ (s.aud n).air.current.rate.budget ∧ (t.aud n).air.lastSize = f.length

/-- Stages 7 and 8 of a frame build. Packing (R136, R138, R141): with the gate CLOSED only the ANNOUNCE_END events stay; events are claimed from the
head until a claim is refused, which stays with those after it; a packed ANNOUNCE_END empties an ENDING announcement slot. The carousel (R139):
from the pointer on, over the sixteen positions of the active sets, every cue is claimed as a REPEAT until a claim is refused, which moves the
pointer to its position; a round without a refusal leaves the pointer. -/
def Obligations.EventsAndRepeatsArePacked : Prop :=
  (∀ (s t : State) (n : Aud) (gate : Gate) (b b' : Build) (a : AirSched), s.packPending n gate b = (t, b') → a = (s.aud n).air →
    ∃ packed rest, packed ++ rest = (if gate = .closed then a.pend.filter (fun x => decide (x = .announceEnd)) else a.pend)
      ∧ b' = { b with acct := b.acct + (packed.map fun x => x.item.size).sum, items := b.items ++ packed.map Event.item }
      ∧ (packed ≠ [] → b'.acct ≤ b.budget) ∧ (∀ x more, rest = x :: more → b.budget < b'.acct + x.item.size)
      ∧ t = s.modAir n fun a => { a with
          pend := rest, ann := if .announceEnd ∈ packed ∧ a.ann = .ending then .empty else a.ann })
  ∧ (∀ (k : TextTrack) (c : Cue) (number : Nat),
      Event.item (.cueOn k c) = .cueOn k c ∧ Event.item (.cueOff k number) = .cueOff k number ∧ Event.item (.clear k) = .clear k
        ∧ Event.item .announceEnd = .announceEnd)
  ∧ ∀ (s t : State) (n : Aud) (b b' : Build) (pointer : Nat) (spot : Nat → Option (TextTrack × Cue)), s.runCarousel n b = (t, b') →
      pointer = (s.aud n).air.carousel.val →
      (∀ (j : Nat) (k : TextTrack), k.val = (pointer + j) % 16 / 4 →
        spot j = ((s.eng n k).active[(pointer + j) % 4]?).map fun c => (k, c)) →
      ∃ (m : Nat) (cues : List (TextTrack × Cue)), m ≤ 16 ∧ cues = (List.range m).filterMap spot
        ∧ b' = { b with
            acct := b.acct + (cues.map fun x => 12 + linesSize x.2.lines).sum
            items := b.items ++ cues.map fun x => Item.repeated x.1 x.2 }
        ∧ (cues ≠ [] → b'.acct ≤ b.budget)
        ∧ (m < 16 → ∃ x, spot m = some x ∧ b.budget < b'.acct + (12 + linesSize x.2.lines)
            ∧ t = s.modAir n fun a => { a with carousel := ⟨(pointer + m) % 16, Nat.mod_lt _ (by decide)⟩ })
        ∧ (m = 16 → t = s)

/-- A cycle expiry and its frame build. At the expiry (R128, R129, R147, R151) the timer is reloaded, staged settings become current, a finite
announcement life falls by one and ends the announcement at 0 (R141), and the frame is the first that applies: a show frame in ACQUIRING,
LOCKED, COASTING and HELD, an announcement frame, a closing frame while events wait, a beacon when the idle period is reached, or none. The
build (R130): P and the gate are sampled; the account opens at 18 bytes; a show or announcement frame claims a due announcement, whose countdown
else falls (R133); a running show checks the release of its four tracks, its events withheld with the gate CLOSED or just opened; a gate just
opened restores the tracks; slots are served with the gate OPEN and passed with it CLOSED; events are packed, in a beacon only purged; a show
frame with the gate OPEN repeats; and the frame takes its header (R145, R173). That a restore asked for by an overflow at stage 1 goes by the
gate of the build before is log entry 41's (DESIGN CHOICE). The named operations have statements of their own. -/
def Obligations.FrameBuildRunsItsStages : Prop :=
  (∀ (n : Aud) (s adopted aged : State) (a b : AirSched),
    adopted = s.modAud n (fun x => { x with
      air := { x.air with timer := 24000, current := x.air.staged }, emit := { x.emit with current := x.emit.staged } }) →
    a = (adopted.aud n).air → b = (aged.aud n).air →
    (∀ text i c life number, a.ann = .active text i c (some life) number →
      (2 ≤ life → aged = adopted.modAir n fun x => { x with ann := .active text i c (some (life - 1)) number })
      ∧ (life ≤ 1 → aged = (adopted.modAir n fun x => { x with ann := .ending }).submit n .announceEnd)) →
    ((∀ text i c life number, a.ann ≠ .active text i c (some life) number) → aged = adopted) →
    (∀ kind,
      (kind = .shown ∧ (s.aud n).ctx.st.framed = true)
        ∨ (kind = .announcement ∧ (s.aud n).ctx.st.framed = false ∧ b.ann.isActive = true)
        ∨ (kind = .closing ∧ (s.aud n).ctx.st.framed = false ∧ b.ann.isActive = false ∧ b.pend ≠ [])
        ∨ (kind = .beacon ∧ (s.aud n).ctx.st.framed = false ∧ b.ann.isActive = false ∧ b.pend = [] ∧ b.current.idle ≤ b.beacon + 1) →
      exec (.cycleExpiry n) s
        = .next (((aged.buildFrame n kind).1.modAir n fun x => { x with beacon := 0 }).handOver n
            (some (aged.buildFrame n kind).2) b.current.rate))
    ∧ ((s.aud n).ctx.st.framed = false → b.ann.isActive = false → b.pend = [] → b.beacon + 1 < b.current.idle →
      exec (.cycleExpiry n) s = .next ((aged.modAir n fun x => { x with beacon := x.beacon + 1 }).handOver n none b.current.rate)))
  ∧ (∀ st : ShowState, st.framed = true ↔ st = .acquiring ∨ st = .locked ∨ st = .coasting ∨ st = .held)
  ∧ ∀ (n : Aud) (s : State) (kind : FrameKind) (p : Nat) (gate : Gate) (opening withhold runs : Bool) (start : State) (b0 : Build)
      (claimed : State × Build) (released restored : State) (sounded packed repeated : State × Build),
      p = s.position n → gate = (s.aud n).input.gate → opening = decide (gate = .opened ∧ (s.aud n).air.lastGate ≠ some .opened) →
      withhold = (decide (gate = .closed) || opening) →
      start = ((if ((s.aud n).ctx.st = .locked ∨ (s.aud n).ctx.st = .coasting) ∧ p = (s.aud n).ctx.duration then s.finish n else s).modAir n
        fun x => { x with lastGate := some gate }) →
      b0 = { acct := 18, budget := (s.aud n).air.current.rate.budget, items := [] } →
      (∀ text i c life number, (s.aud n).air.ann = .active text i c life number → kind = .shown ∨ kind = .announcement →
        (c ≠ 0 → claimed = (start.modAir n fun x => { x with ann := .active text i (c - 1) life number }, b0))
        ∧ (c = 0 → 18 + (8 + text.length) ≤ b0.budget →
            claimed = (start.modAir n fun x => { x with ann := .active text i (i - 1) life number },
              { b0 with acct := 18 + (8 + text.length), items := [.announce i number text] }))
        ∧ (c = 0 → b0.budget < 18 + (8 + text.length) → claimed = (start, b0))) →
      ((∀ text i c life number, (s.aud n).air.ann ≠ .active text i c life number) ∨ kind = .closing ∨ kind = .beacon →
        claimed = (start, b0)) →
      runs = decide (kind = .shown ∧ ((start.aud n).ctx.st = .locked ∨ (start.aud n).ctx.st = .coasting)) →
      released = (if runs then
          (((claimed.1.releaseCheck n p withhold 0).releaseCheck n p withhold 1).releaseCheck n p withhold 2).releaseCheck n p withhold 3
        else claimed.1) →
      restored = (if opening then released.submitRestore n (released.restoreEvents n) else released) →
      sounded = (if runs then
          if gate = .opened then restored.slotService n p claimed.2
          else ((restored.modPlay n 0 (Playout.passClosed p)).modPlay n 1 (Playout.passClosed p), claimed.2)
        else (restored, claimed.2)) →
      packed = (if kind = .beacon then
          if gate = .closed then
            (sounded.1.modAir n fun x => { x with pend := x.pend.filter fun ev => decide (ev = .announceEnd) }, sounded.2)
          else sounded
        else sounded.1.packPending n gate sounded.2) →
      repeated = (if kind = .shown ∧ gate = .opened then packed.1.runCarousel n packed.2 else packed) →
      ∃ f : AirFrame,
        s.buildFrame n kind = (repeated.1.modAir n fun x => { x with
            sequence := (x.sequence + 1) % 256, lastSize := repeated.2.acct, built := (x.built + 1) % 65536 }, f)
        ∧ f.items = repeated.2.items ∧ f.length = repeated.2.acct ∧ f.site = (s.aud n).air.current.site ∧ f.aud = n.val
        ∧ f.sequence = (s.aud n).air.sequence ∧ f.position = p ∧ f.bindGen = (s.aud n).ctx.bindGen
        ∧ ∀ (st : ShowState) (x : ShowCtx), st = (start.aud n).ctx.st → x = (start.aud n).ctx →
            f.flags.getLsbD 0 = decide (st = .vacant ∨ st = .binding ∨ st = .standby ∨ st = .finished)
            ∧ f.flags.getLsbD 1 = decide (st = .held ∨ st = .finished) ∧ f.flags.getLsbD 2 = decide (gate = .closed)
            ∧ f.flags.getLsbD 3 = decide (st = .coasting) ∧ f.flags.getLsbD 4 = (repeated.1.aud n).air.ann.isActive ∧ f.flags.toNat < 32
            ∧ (st = .vacant → f.mask = 0)
            ∧ (st ≠ .vacant → (∀ k : TextTrack, f.mask.getLsbD k.val = (x.text.get k).enabled)
                ∧ (∀ k : SoundTrack, f.mask.getLsbD (4 + k.val) = (x.sound.get k).enabled) ∧ f.mask.toNat < 64)

/-- A cycle expiry (R128, R129, R147, R151, R152): the timer is reloaded, staged air and line settings are current; a show that sends frames builds
one, an idle auditorium builds a beacon or nothing; a built frame is sent by a waiting unit at the rate current then, or dropped while a
transmission runs and by a disabled, cooling or latched unit, with FRAME_DROPPED but where it is disabled. A unit that was ACTIVE counts the clean
frame, and at 500 its retry count is cleared. OCn asserted as the transmission begins takes the fault at once (R153, R155); that the clean count
has risen by then is log entry 37's (DESIGN CHOICE), and the presence byte in EMITTER_LATCHED's detail log entry 23's (DESIGN CHOICE). A frame is sent
with the line settings that became current with its rate; one that is still running is sent on with those it began with (R151), so the levels of the
lines stay as they are, which for a frame that outlasts its cycle is log entry 36's (DEDUCED). -/
def Obligations.CycleExpiryBuildsAndHandsOver : Prop :=
  ∀ (n : Aud) (s : State) (u : Emitter), u = (s.aud n).emit →
    ∃ t, exec (.cycleExpiry n) s = .next t
      ∧ (t.aud n).air.timer = 24000 ∧ (t.aud n).air.current = (s.aud n).air.staged ∧ (t.aud n).emit.current = u.staged
      ∧ ((s.aud n).ctx.st.framed = false → (s.aud n).air.ann.isActive = false → (s.aud n).air.pend = [] →
          (s.aud n).air.beacon + 1 < (s.aud n).air.staged.idle →
          (t.aud n).air.beacon = (s.aud n).air.beacon + 1 ∧ (t.aud n).air.built = (s.aud n).air.built
            ∧ (t.aud n).air.sequence = (s.aud n).air.sequence ∧ (t.aud n).emit.demand = false
            ∧ (t.aud n).emit.state = (if u.state = .active then .sleeping else u.state)
            ∧ (t.aud n).emit.clean = (if u.state = .active then 0 else u.clean) ∧ (t.aud n).emit.retry = u.retry
            ∧ (t.aud n).emit.dropped = u.dropped ∧ t.notices = s.notices)
      ∧ ((s.aud n).ctx.st.framed = true
          ∨ ((s.aud n).ctx.st.framed = false ∧ (s.aud n).air.ann.isActive = false ∧ (s.aud n).air.pend = []
              ∧ (s.aud n).air.staged.idle ≤ (s.aud n).air.beacon + 1) →
          (t.aud n).air.beacon = 0 ∧ (t.aud n).air.built = ((s.aud n).air.built + 1) % 65536
            ∧ (t.aud n).air.sequence = ((s.aud n).air.sequence + 1) % 256 ∧ (t.aud n).emit.demand = true
            ∧ (∀ clean retry, (u.state = .sleeping → clean = u.clean ∧ retry = u.retry) →
                (u.state = .active → clean = min 500 (u.clean + 1) ∧ retry = if clean = 500 then 0 else u.retry) →
                u.state = .sleeping ∨ u.state = .active → u.tx = none →
                (u.oc = false →
                  (t.aud n).emit.state = .active ∧ (t.aud n).emit.clean = clean ∧ (t.aud n).emit.retry = retry
                  ∧ (t.aud n).emit.dropped = u.dropped
                  ∧ ∃ f, (t.aud n).emit.tx = some { frame := f, rate := (s.aud n).air.staged.rate, lines := u.staged, progress := 0 }
                      ∧ f.sequence = (s.aud n).air.sequence ∧ f.site = (s.aud n).air.staged.site ∧ f.aud = n.val)
                ∧ (u.oc = true →
                  (t.aud n).emit.tx = none ∧ (t.aud n).emit.clean = 0 ∧ (t.aud n).emit.retry = retry
                  ∧ (t.aud n).emit.dropped = min 65535 (u.dropped + 1) ∧ (t.aud n).emit.lastFault = some (s.aud n).air.sequence
                  ∧ (∃ x ∈ t.notices, x.source = .aud n ∧ x.kind = .emitterFault
                      ∧ x.detail = u8 retry ++ u8 (s.aud n).air.sequence)
                  ∧ (∃ x ∈ t.notices, x.source = .aud n ∧ x.kind = .frameDropped ∧ x.detail = [2] ++ u8 (s.aud n).air.sequence)
                  ∧ (retry < 3 → (t.aud n).emit.state = .cooling ∧ (t.aud n).emit.cooling = 300000)
                  ∧ (3 ≤ retry → (t.aud n).emit.state = .latchedOff
                      ∧ ∃ x ∈ t.notices, x.source = .aud n ∧ x.kind = .emitterLatched
                          ∧ x.detail = [1] ++ u8 (s.aud n).air.sequence)))
            ∧ (u.state = .sleeping ∨ u.state = .active → u.tx ≠ none →
                (t.aud n).emit = { u with demand := true, current := u.staged, dropped := min 65535 (u.dropped + 1) }
                ∧ (t.aud n).emit.lineA = u.lineA ∧ (t.aud n).emit.lineB = u.lineB
                ∧ ∃ x ∈ t.notices, x.source = .aud n ∧ x.kind = .frameDropped
                    ∧ x.detail = u8 u.state.code ++ u8 (s.aud n).air.sequence)
            ∧ (u.state = .disabled → (t.aud n).emit.state = .disabled ∧ (t.aud n).emit.dropped = min 65535 (u.dropped + 1))
            ∧ (u.state = .cooling ∨ u.state = .latchedOff → (t.aud n).emit.state = u.state
                ∧ (t.aud n).emit.dropped = min 65535 (u.dropped + 1)
                ∧ ∃ x ∈ t.notices, x.source = .aud n ∧ x.kind = .frameDropped
                    ∧ x.detail = u8 u.state.code ++ u8 (s.aud n).air.sequence))

/-- The emitter's events (R151, R153 to R155): the end of a transmission counts it; an overcurrent fault cuts it into COOLING, or into LATCHED_OFF
after three retries, with EMITTER_FAULT and FRAME_DROPPED, and has no effect outside one; cooling ends into ACTIVE or SLEEPING by the demand. The
level OCn is left at is the model's operand (log entry 13, DESIGN CHOICE), the presence byte in EMITTER_LATCHED's detail is log entry 23's (DESIGN
CHOICE), and that TRANSMISSION_END or COOLING_END without its cause changes nothing is log entry 11's (DEDUCED). -/
def Obligations.EmitterEventsMoveTheState : Prop :=
  ∀ (n : Aud) (after : Bool) (s : State) (u : Emitter), u = (s.aud n).emit →
    (u.tx = none → exec (.transmissionEnd n) s = .next s)
    ∧ (u.tx ≠ none → exec (.transmissionEnd n) s = .next (s.modEmit n fun x => { x with tx := none, sent := (x.sent + 1) % 65536 }))
    ∧ (u.state ≠ .active ∨ u.tx = none →
        exec (.overcurrentFault n after) s = .next (s.modEmit n fun x => { x with oc := after }))
    ∧ (∀ x, u.state = .active → u.tx = some x →
        ∃ t, exec (.overcurrentFault n after) s = .next t ∧ (t.aud n).emit.oc = after ∧ (t.aud n).emit.tx = none
          ∧ (t.aud n).emit.dropped = min 65535 (u.dropped + 1) ∧ (t.aud n).emit.lastFault = some x.frame.sequence
          ∧ (t.aud n).emit.clean = 0 ∧ (t.aud n).emit.retry = u.retry
          ∧ (∃ y ∈ t.notices, y.source = .aud n ∧ y.kind = .emitterFault ∧ y.detail = u8 u.retry ++ u8 x.frame.sequence)
          ∧ (∃ y ∈ t.notices, y.source = .aud n ∧ y.kind = .frameDropped ∧ y.detail = [2] ++ u8 x.frame.sequence)
          ∧ (u.retry < 3 → (t.aud n).emit.state = .cooling ∧ (t.aud n).emit.cooling = 300000)
          ∧ (3 ≤ u.retry → (t.aud n).emit.state = .latchedOff
              ∧ ∃ y ∈ t.notices, y.source = .aud n ∧ y.kind = .emitterLatched ∧ y.detail = [1] ++ u8 x.frame.sequence))
    ∧ (u.state ≠ .cooling → exec (.coolingEnd n) s = .next s)
    ∧ (u.state = .cooling →
        ∃ t, exec (.coolingEnd n) s = .next t ∧ (t.aud n).emit.retry = u.retry + 1
          ∧ (t.aud n).emit.state = (if u.demand then .active else .sleeping)
          ∧ (u.demand = true → (s.aud n).ctx.st.framed = true → (s.aud n).air.pend = [] →
              (t.aud n).air.pend = s.restoreEvents n ∨ 32 < (s.restoreEvents n).length)
          ∧ (u.demand = false ∨ (s.aud n).ctx.st.framed = false → (t.aud n).air = (s.aud n).air))

/-! ## What every step keeps -/

/-- The notices stand in taking order, one for each source and kind, with counts 1 to 255, and ATTN follows them (R166 to R168). -/
def Obligations.EveryStepKeepsTheNotices : Prop := ∀ s t : State, s.NoticesOk → step s = .next t → t.NoticesOk

/-- The flash keeps its canonical form: rising page numbers within the flash, no erased page listed. The directory, and the one a start-up scan is
making, stand in ascending id, 0 to 63, so with at most 64 entries and no id twice (R1); each requester has at most one request waiting, and an idle
engine none (R30, R31). The part is STARTING as long as its scan runs, and then no package entry exists (R164). -/
def Obligations.EveryStepKeepsTheStore : Prop :=
  (∀ s t : State, s.FlashOk → step s = .next t → t.FlashOk)
    ∧ (∀ s t : State, s.DirectoryOk → step s = .next t → t.DirectoryOk)
    ∧ (∀ s t : State, s.QueueOk → step s = .next t → t.QueueOk)
    ∧ (∀ s : State, s.DirectoryOk → s.packages.length ≤ 64)
    ∧ ∀ s t : State, s.StartingOk → step s = .next t → t.StartingOk

/-- The show arithmetic stays in its bounds: C within D, the counts and windows within 48, K within 2,400, a rate class in every show that is not
VACANT, the advance between T − s and T + s, and the period estimate between 7N/8 and 9N/8 (R52, R63, R68). -/
def Obligations.EveryStepKeepsTheShowBounds : Prop := ∀ s t : State, s.ShowsOk → step s = .next t → t.ShowsOk

/-- No active set or overlap collection exceeds 4 cues and no pending event list 32 events (R100, R103, R135); a playout queue holds at most 64
blocks, strictly rising, on the slot grid and above z (R113, R115). A lookahead queue holds at most 8 cues, its numbers strictly rise and lie
above the active set's, and no number is queued or active twice, as long as a read in flight that matches was requested for a page of the index,
a fetch for the page of the cursor's entry, and the pages read are what the page index says (R94, R95, R100). -/
def Obligations.EveryStepKeepsTheQueuesBounded : Prop :=
  (∀ s t : State, s.EventsWithin → step s = .next t → t.EventsWithin)
    ∧ (∀ s t : State, s.PlayoutsOk → step s = .next t → t.PlayoutsOk)
    ∧ ∀ s t : State, s.EnginesOk → s.DeliversItsPage → step s = .next t → t.EnginesOk

/-- An emitter transmits in ACTIVE only, so its lines are released in every other state (R150). Whatever command is taken, a transmission goes on with
the frame, the bit rate and the line settings that it has, or is over: no frame is sent with mixed settings (R151, log entry 36, DEDUCED). -/
def Obligations.EveryStepKeepsTheLinesReleased : Prop :=
  (∀ s t : State, s.EmittersOk → step s = .next t → t.EmittersOk)
    ∧ (∀ (s : State) (n : Aud), s.EmittersOk → (s.aud n).emit.state ≠ .active →
        (s.aud n).emit.driveA = .released ∧ (s.aud n).emit.driveB = .released)
    ∧ ∀ (i : Instr) (s t : State) (n : Aud) (x : Transmission), exec i s = .next t → (s.aud n).emit.tx = some x →
        (t.aud n).emit.tx = some x ∨ (t.aud n).emit.tx = none

/-- The machine after reset meets every law that a step keeps. -/
def Obligations.ResetMeetsTheLaws : Prop :=
  State.reset.NoticesOk ∧ State.reset.FlashOk ∧ State.reset.DirectoryOk ∧ State.reset.QueueOk ∧ State.reset.ShowsOk
    ∧ State.reset.EventsWithin ∧ State.reset.PlayoutsOk ∧ State.reset.EmittersOk ∧ State.reset.StartingOk
    ∧ State.reset.EnginesOk

/-- While a package stays bound, no step but a SHOW_START and a POSITION_REPORT takes the show position back (R69), these two also where an SPI
transfer delivers their frame or a byte on the UART completes it (log entry 32); a measure count that passes does not either. The bounds of the
show arithmetic are the premise: every bound show has its rate class. -/
def Obligations.PositionNeverRunsBack : Prop :=
  ∀ (s t : State) (n : Aud) (moves : Instr → Prop), (∀ i, moves i ↔ ∃ tag body, i = .showStart tag body ∨ i = .positionReport tag body) →
    s.ShowsOk → step s = .next t →
    (∀ i rest, s.pending = i :: rest → ¬ moves i
      ∧ (∀ sent, i = .readLinkStatus 0x01 sent → s.linkSel = .spi → ¬ moves (decodeFrame sent))
      ∧ ∀ b bytes gap, i = .uartSyncByteReceived b true → s.linkSel = .uart → s.framer = .receiving bytes gap →
          ¬ moves (decodeFrame (bytes ++ [b]))) →
    (s.aud n).ctx.st ≠ .vacant → (t.aud n).ctx.st ≠ .vacant → s.position n ≤ t.position n

/-- What an event leaves as it is. One of an auditorium's lines and timers changes no other auditorium, and nothing of the link's replies, the
directory or the flash. One of the store engine's work changes no input unit, show context, playout engine or emitter unit, and, the commit of
an amendment apart, no event list, no cue and no state of a track engine. A track engine's read changes nothing of the directory, the host
operation or the block records, and of other tracks and auditoriums only whether the read that starts next is in flight. A bind's index read
changes no event list, no emitter unit and nothing of the host operation, of the directory the bind counts only, and of other auditoriums
nothing but that. -/
def Obligations.EventsKeepWhatIsNotTheirs : Prop :=
  (∀ (n : Aud) (i : Instr) (s t : State),
    (∃ level, i ∈ [Instr.framePulseRisingEdge n, .framePulseFallingEdge n, .qualifyingCountReached n, .missingPulseDeadline n,
      .contactLevelChange (.auxA n) level, .contactLevelChange (.auxB n) level, .debounceSettled (.auxA n), .debounceSettled (.auxB n),
      .cycleExpiry n, .transmissionEnd n, .overcurrentFault n level, .coolingEnd n]) →
    exec i s = .next t →
    (∀ m, m ≠ n → t.aud m = s.aud m) ∧ t.shold = s.shold ∧ t.replyBuf = s.replyBuf ∧ t.refusal = s.refusal ∧ t.framer = s.framer
      ∧ t.phase = s.phase ∧ t.threshold = s.threshold ∧ t.packages = s.packages ∧ t.serialHigh = s.serialHigh ∧ t.load = s.load
      ∧ t.slot = s.slot ∧ t.pageReg = s.pageReg ∧ t.flash = s.flash ∧ t.blocks = s.blocks ∧ t.pending = s.pending)
    ∧ (∀ (i : Instr) (s t : State),
      (∃ ok errs, i ∈ [Instr.loadPageProgramDone ok, .sealStepDone ok, .amendReadDone errs, .amendProgramDone ok, .deleteEraseDone ok,
        .reclaimEraseDone ok, .retireTagProgramDone ok, .retireEraseDone ok, .cueReadStepDone errs, .scanTagReadDone ok,
        .scanSealReadDone errs, .swiInactive ok]) →
      exec i s = .next t →
      t.shold = s.shold ∧ t.linkSel = s.linkSel ∧ t.threshold = s.threshold ∧ t.announces = s.announces ∧ t.pending = s.pending
        ∧ ∀ n, (t.aud n).input = (s.aud n).input ∧ (t.aud n).ctx = (s.aud n).ctx ∧ (t.aud n).sound = (s.aud n).sound
            ∧ (t.aud n).emit = (s.aud n).emit
            ∧ (i ≠ .amendProgramDone true → (t.aud n).air = (s.aud n).air
                ∧ ∀ k, (t.eng n k).look = (s.eng n k).look ∧ (t.eng n k).active = (s.eng n k).active
                    ∧ (t.eng n k).state = (s.eng n k).state ∧ (t.eng n k).cursor = (s.eng n k).cursor
                    ∧ (t.eng n k).seek = (s.eng n k).seek))
    ∧ (∀ (i : Instr) (s t : State), (∃ errs, i = .fetchReadDone errs ∨ i = .seekReadDone errs) → exec i s = .next t →
        t.packages = s.packages ∧ t.load = s.load ∧ t.slot = s.slot ∧ t.pageReg = s.pageReg ∧ t.blocks = s.blocks ∧ t.flash = s.flash
          ∧ t.replyBuf = s.replyBuf ∧ t.shold = s.shold
          ∧ ∀ n, (t.aud n).input = (s.aud n).input ∧ (t.aud n).ctx = (s.aud n).ctx ∧ (t.aud n).sound = (s.aud n).sound
              ∧ (t.aud n).emit = (s.aud n).emit
          ∧ ∀ f m k, s.flight = some f → f.req.who = .engine m k → (∀ n, n ≠ m → (t.aud n).air = (s.aud n).air)
              ∧ ∀ n j, (n, j) ≠ (m, k) → { t.eng n j with out := (s.eng n j).out } = s.eng n j)
    ∧ ∀ (errs : Nat) (s t : State) (f : Flight) (m : Aud), s.flight = some f → f.req.who = .bind m → exec (.bindIndexReadDone errs) s = .next t →
        t.load = s.load ∧ t.slot = s.slot ∧ t.pageReg = s.pageReg ∧ t.blocks = s.blocks ∧ t.flash = s.flash ∧ t.replyBuf = s.replyBuf
          ∧ t.shold = s.shold ∧ t.phase = s.phase ∧ t.pending = s.pending
          ∧ (t.packages.map fun p => { p with binds := 0 }) = (s.packages.map fun p => { p with binds := 0 })
          ∧ (∀ n, (t.aud n).air = (s.aud n).air ∧ (t.aud n).emit = (s.aud n).emit)
          ∧ ∀ n, n ≠ m → (t.aud n).input = (s.aud n).input ∧ (t.aud n).ctx = (s.aud n).ctx ∧ (t.aud n).sound = (s.aud n).sound
              ∧ ∀ j, { t.eng n j with out := (s.eng n j).out } = s.eng n j

/-- What a command leaves as it is, whatever its body. A command of the link, the directory or the store changes no auditorium and no page of the
flash. A command that names an auditorium changes no other one, no package but for its bind count, and nothing of the store. An announcement
command changes the air schedulers only. -/
def Obligations.CommandsKeepWhatIsNotTheirs : Prop :=
  ∀ (i : Instr) (kind tag : Byte) (body : List Byte) (s t : State), i.frameParts = some (kind, tag, body) → exec i s = .next t →
    (kind.toNat ∈ [0x01, 0x02, 0x03, 0x04, 0x10, 0x11, 0x12, 0x13, 0x14, 0x15, 0x16, 0x17, 0x18, 0x20, 0x21] →
      t.auds = s.auds ∧ t.shold = s.shold ∧ t.flash = s.flash ∧ t.scan = s.scan ∧ t.phase = s.phase ∧ t.linkSel = s.linkSel
        ∧ t.swi = s.swi ∧ t.announces = s.announces ∧ t.pending = s.pending)
    ∧ (∀ (n : Aud) (a : Byte) (rest : List Byte),
      kind.toNat ∈ [0x30, 0x31, 0x32, 0x33, 0x34, 0x35, 0x36, 0x37, 0x40, 0x41, 0x50, 0x60] → body = a :: rest → a.toNat = n.val →
      (∀ m, m ≠ n → t.aud m = s.aud m) ∧ t.shold = s.shold ∧ t.flash = s.flash ∧ t.blocks = s.blocks ∧ t.load = s.load
        ∧ t.slot = s.slot ∧ t.pageReg = s.pageReg ∧ t.serialHigh = s.serialHigh ∧ t.scan = s.scan ∧ t.phase = s.phase
        ∧ t.threshold = s.threshold ∧ t.swi = s.swi ∧ t.announces = s.announces ∧ t.pending = s.pending
        ∧ (t.packages.map fun p => { p with binds := 0 }) = s.packages.map fun p => { p with binds := 0 })
    ∧ (kind.toNat ∈ [0x51, 0x52] →
      t.packages = s.packages ∧ t.flash = s.flash ∧ t.blocks = s.blocks ∧ t.load = s.load ∧ t.slot = s.slot ∧ t.flight = s.flight
        ∧ t.queue = s.queue ∧ t.notices = s.notices ∧ t.shold = s.shold ∧ t.pending = s.pending
        ∧ ∀ n, (t.aud n).input = (s.aud n).input ∧ (t.aud n).ctx = (s.aud n).ctx ∧ (t.aud n).text = (s.aud n).text
            ∧ (t.aud n).sound = (s.aud n).sound ∧ (t.aud n).emit = (s.aud n).emit)

/-- The frame of a well-formed command decodes to that command, whatever its tag and its body (R171); bytes that do not begin with the sync byte are a
frame error (R162 a). -/
def Obligations.FramesDecodeToTheirCommand : Prop :=
  (∀ (i : Instr) (bytes : List Byte), i.wellFormed = true → encodeFrame i = some bytes → decodeFrame bytes = i)
    ∧ ∀ (b : Byte) (rest : List Byte), b ≠ 0xA7 → decodeFrame (b :: rest) = .frameError

end
end

