-- ==== Sys2Proof/Laws/State.lean ====
section
/-! SUPPORT. One lemma for each field of the state and each update of it, true by unfolding, so that no later proof unfolds a record. -/

namespace Sys2Proof.Machine

variable (s : State) (n m : Aud) (t u : TextTrack) (d e : SoundTrack)

/-! ## Updates of one auditorium -/

@[simp] theorem State.setAud_linkSel (a : Auditorium) : (s.setAud n a).linkSel = s.linkSel := rfl
@[simp] theorem State.setAud_phase (a : Auditorium) : (s.setAud n a).phase = s.phase := rfl
@[simp] theorem State.setAud_framer (a : Auditorium) : (s.setAud n a).framer = s.framer := rfl
@[simp] theorem State.setAud_replyBuf (a : Auditorium) : (s.setAud n a).replyBuf = s.replyBuf := rfl
@[simp] theorem State.setAud_refusal (a : Auditorium) : (s.setAud n a).refusal = s.refusal := rfl
@[simp] theorem State.setAud_uartTx (a : Auditorium) : (s.setAud n a).uartTx = s.uartTx := rfl
@[simp] theorem State.setAud_linkOut (a : Auditorium) : (s.setAud n a).linkOut = s.linkOut := rfl
@[simp] theorem State.setAud_notices (a : Auditorium) : (s.setAud n a).notices = s.notices := rfl
@[simp] theorem State.setAud_threshold (a : Auditorium) : (s.setAud n a).threshold = s.threshold := rfl
@[simp] theorem State.setAud_attn (a : Auditorium) : (s.setAud n a).attn = s.attn := rfl
@[simp] theorem State.setAud_announces (a : Auditorium) : (s.setAud n a).announces = s.announces := rfl
@[simp] theorem State.setAud_packages (a : Auditorium) : (s.setAud n a).packages = s.packages := rfl
@[simp] theorem State.setAud_serialHigh (a : Auditorium) : (s.setAud n a).serialHigh = s.serialHigh := rfl
@[simp] theorem State.setAud_load (a : Auditorium) : (s.setAud n a).load = s.load := rfl
@[simp] theorem State.setAud_slot (a : Auditorium) : (s.setAud n a).slot = s.slot := rfl
@[simp] theorem State.setAud_flash (a : Auditorium) : (s.setAud n a).flash = s.flash := rfl
@[simp] theorem State.setAud_blocks (a : Auditorium) : (s.setAud n a).blocks = s.blocks := rfl
@[simp] theorem State.setAud_pageReg (a : Auditorium) : (s.setAud n a).pageReg = s.pageReg := rfl
@[simp] theorem State.setAud_flight (a : Auditorium) : (s.setAud n a).flight = s.flight := rfl
@[simp] theorem State.setAud_queue (a : Auditorium) : (s.setAud n a).queue = s.queue := rfl
@[simp] theorem State.setAud_scan (a : Auditorium) : (s.setAud n a).scan = s.scan := rfl
@[simp] theorem State.setAud_swi (a : Auditorium) : (s.setAud n a).swi = s.swi := rfl
@[simp] theorem State.setAud_shold (a : Auditorium) : (s.setAud n a).shold = s.shold := rfl
@[simp] theorem State.setAud_free (a : Auditorium) : (s.setAud n a).free = s.free := rfl
@[simp] theorem State.setAud_pending (a : Auditorium) : (s.setAud n a).pending = s.pending := rfl

@[simp] theorem State.modAud_linkSel (f : Auditorium → Auditorium) : (s.modAud n f).linkSel = s.linkSel := rfl
@[simp] theorem State.modAud_phase (f : Auditorium → Auditorium) : (s.modAud n f).phase = s.phase := rfl
@[simp] theorem State.modAud_framer (f : Auditorium → Auditorium) : (s.modAud n f).framer = s.framer := rfl
@[simp] theorem State.modAud_replyBuf (f : Auditorium → Auditorium) : (s.modAud n f).replyBuf = s.replyBuf := rfl
@[simp] theorem State.modAud_refusal (f : Auditorium → Auditorium) : (s.modAud n f).refusal = s.refusal := rfl
@[simp] theorem State.modAud_uartTx (f : Auditorium → Auditorium) : (s.modAud n f).uartTx = s.uartTx := rfl
@[simp] theorem State.modAud_linkOut (f : Auditorium → Auditorium) : (s.modAud n f).linkOut = s.linkOut := rfl
@[simp] theorem State.modAud_notices (f : Auditorium → Auditorium) : (s.modAud n f).notices = s.notices := rfl
@[simp] theorem State.modAud_threshold (f : Auditorium → Auditorium) : (s.modAud n f).threshold = s.threshold := rfl
@[simp] theorem State.modAud_attn (f : Auditorium → Auditorium) : (s.modAud n f).attn = s.attn := rfl
@[simp] theorem State.modAud_announces (f : Auditorium → Auditorium) : (s.modAud n f).announces = s.announces := rfl
@[simp] theorem State.modAud_packages (f : Auditorium → Auditorium) : (s.modAud n f).packages = s.packages := rfl
@[simp] theorem State.modAud_serialHigh (f : Auditorium → Auditorium) : (s.modAud n f).serialHigh = s.serialHigh := rfl
@[simp] theorem State.modAud_load (f : Auditorium → Auditorium) : (s.modAud n f).load = s.load := rfl
@[simp] theorem State.modAud_slot (f : Auditorium → Auditorium) : (s.modAud n f).slot = s.slot := rfl
@[simp] theorem State.modAud_flash (f : Auditorium → Auditorium) : (s.modAud n f).flash = s.flash := rfl
@[simp] theorem State.modAud_blocks (f : Auditorium → Auditorium) : (s.modAud n f).blocks = s.blocks := rfl
@[simp] theorem State.modAud_pageReg (f : Auditorium → Auditorium) : (s.modAud n f).pageReg = s.pageReg := rfl
@[simp] theorem State.modAud_flight (f : Auditorium → Auditorium) : (s.modAud n f).flight = s.flight := rfl
@[simp] theorem State.modAud_queue (f : Auditorium → Auditorium) : (s.modAud n f).queue = s.queue := rfl
@[simp] theorem State.modAud_scan (f : Auditorium → Auditorium) : (s.modAud n f).scan = s.scan := rfl
@[simp] theorem State.modAud_swi (f : Auditorium → Auditorium) : (s.modAud n f).swi = s.swi := rfl
@[simp] theorem State.modAud_shold (f : Auditorium → Auditorium) : (s.modAud n f).shold = s.shold := rfl
@[simp] theorem State.modAud_free (f : Auditorium → Auditorium) : (s.modAud n f).free = s.free := rfl
@[simp] theorem State.modAud_pending (f : Auditorium → Auditorium) : (s.modAud n f).pending = s.pending := rfl

@[simp] theorem State.modInput_linkSel (f : InputUnit → InputUnit) : (s.modInput n f).linkSel = s.linkSel := rfl
@[simp] theorem State.modInput_phase (f : InputUnit → InputUnit) : (s.modInput n f).phase = s.phase := rfl
@[simp] theorem State.modInput_framer (f : InputUnit → InputUnit) : (s.modInput n f).framer = s.framer := rfl
@[simp] theorem State.modInput_replyBuf (f : InputUnit → InputUnit) : (s.modInput n f).replyBuf = s.replyBuf := rfl
@[simp] theorem State.modInput_refusal (f : InputUnit → InputUnit) : (s.modInput n f).refusal = s.refusal := rfl
@[simp] theorem State.modInput_uartTx (f : InputUnit → InputUnit) : (s.modInput n f).uartTx = s.uartTx := rfl
@[simp] theorem State.modInput_linkOut (f : InputUnit → InputUnit) : (s.modInput n f).linkOut = s.linkOut := rfl
@[simp] theorem State.modInput_notices (f : InputUnit → InputUnit) : (s.modInput n f).notices = s.notices := rfl
@[simp] theorem State.modInput_threshold (f : InputUnit → InputUnit) : (s.modInput n f).threshold = s.threshold := rfl
@[simp] theorem State.modInput_attn (f : InputUnit → InputUnit) : (s.modInput n f).attn = s.attn := rfl
@[simp] theorem State.modInput_announces (f : InputUnit → InputUnit) : (s.modInput n f).announces = s.announces := rfl
@[simp] theorem State.modInput_packages (f : InputUnit → InputUnit) : (s.modInput n f).packages = s.packages := rfl
@[simp] theorem State.modInput_serialHigh (f : InputUnit → InputUnit) : (s.modInput n f).serialHigh = s.serialHigh := rfl
@[simp] theorem State.modInput_load (f : InputUnit → InputUnit) : (s.modInput n f).load = s.load := rfl
@[simp] theorem State.modInput_slot (f : InputUnit → InputUnit) : (s.modInput n f).slot = s.slot := rfl
@[simp] theorem State.modInput_flash (f : InputUnit → InputUnit) : (s.modInput n f).flash = s.flash := rfl
@[simp] theorem State.modInput_blocks (f : InputUnit → InputUnit) : (s.modInput n f).blocks = s.blocks := rfl
@[simp] theorem State.modInput_pageReg (f : InputUnit → InputUnit) : (s.modInput n f).pageReg = s.pageReg := rfl
@[simp] theorem State.modInput_flight (f : InputUnit → InputUnit) : (s.modInput n f).flight = s.flight := rfl
@[simp] theorem State.modInput_queue (f : InputUnit → InputUnit) : (s.modInput n f).queue = s.queue := rfl
@[simp] theorem State.modInput_scan (f : InputUnit → InputUnit) : (s.modInput n f).scan = s.scan := rfl
@[simp] theorem State.modInput_swi (f : InputUnit → InputUnit) : (s.modInput n f).swi = s.swi := rfl
@[simp] theorem State.modInput_shold (f : InputUnit → InputUnit) : (s.modInput n f).shold = s.shold := rfl
@[simp] theorem State.modInput_free (f : InputUnit → InputUnit) : (s.modInput n f).free = s.free := rfl
@[simp] theorem State.modInput_pending (f : InputUnit → InputUnit) : (s.modInput n f).pending = s.pending := rfl

@[simp] theorem State.modCtx_linkSel (f : ShowCtx → ShowCtx) : (s.modCtx n f).linkSel = s.linkSel := rfl
@[simp] theorem State.modCtx_phase (f : ShowCtx → ShowCtx) : (s.modCtx n f).phase = s.phase := rfl
@[simp] theorem State.modCtx_framer (f : ShowCtx → ShowCtx) : (s.modCtx n f).framer = s.framer := rfl
@[simp] theorem State.modCtx_replyBuf (f : ShowCtx → ShowCtx) : (s.modCtx n f).replyBuf = s.replyBuf := rfl
@[simp] theorem State.modCtx_refusal (f : ShowCtx → ShowCtx) : (s.modCtx n f).refusal = s.refusal := rfl
@[simp] theorem State.modCtx_uartTx (f : ShowCtx → ShowCtx) : (s.modCtx n f).uartTx = s.uartTx := rfl
@[simp] theorem State.modCtx_linkOut (f : ShowCtx → ShowCtx) : (s.modCtx n f).linkOut = s.linkOut := rfl
@[simp] theorem State.modCtx_notices (f : ShowCtx → ShowCtx) : (s.modCtx n f).notices = s.notices := rfl
@[simp] theorem State.modCtx_threshold (f : ShowCtx → ShowCtx) : (s.modCtx n f).threshold = s.threshold := rfl
@[simp] theorem State.modCtx_attn (f : ShowCtx → ShowCtx) : (s.modCtx n f).attn = s.attn := rfl
@[simp] theorem State.modCtx_announces (f : ShowCtx → ShowCtx) : (s.modCtx n f).announces = s.announces := rfl
@[simp] theorem State.modCtx_packages (f : ShowCtx → ShowCtx) : (s.modCtx n f).packages = s.packages := rfl
@[simp] theorem State.modCtx_serialHigh (f : ShowCtx → ShowCtx) : (s.modCtx n f).serialHigh = s.serialHigh := rfl
@[simp] theorem State.modCtx_load (f : ShowCtx → ShowCtx) : (s.modCtx n f).load = s.load := rfl
@[simp] theorem State.modCtx_slot (f : ShowCtx → ShowCtx) : (s.modCtx n f).slot = s.slot := rfl
@[simp] theorem State.modCtx_flash (f : ShowCtx → ShowCtx) : (s.modCtx n f).flash = s.flash := rfl
@[simp] theorem State.modCtx_blocks (f : ShowCtx → ShowCtx) : (s.modCtx n f).blocks = s.blocks := rfl
@[simp] theorem State.modCtx_pageReg (f : ShowCtx → ShowCtx) : (s.modCtx n f).pageReg = s.pageReg := rfl
@[simp] theorem State.modCtx_flight (f : ShowCtx → ShowCtx) : (s.modCtx n f).flight = s.flight := rfl
@[simp] theorem State.modCtx_queue (f : ShowCtx → ShowCtx) : (s.modCtx n f).queue = s.queue := rfl
@[simp] theorem State.modCtx_scan (f : ShowCtx → ShowCtx) : (s.modCtx n f).scan = s.scan := rfl
@[simp] theorem State.modCtx_swi (f : ShowCtx → ShowCtx) : (s.modCtx n f).swi = s.swi := rfl
@[simp] theorem State.modCtx_shold (f : ShowCtx → ShowCtx) : (s.modCtx n f).shold = s.shold := rfl
@[simp] theorem State.modCtx_free (f : ShowCtx → ShowCtx) : (s.modCtx n f).free = s.free := rfl
@[simp] theorem State.modCtx_pending (f : ShowCtx → ShowCtx) : (s.modCtx n f).pending = s.pending := rfl

@[simp] theorem State.modAir_linkSel (f : AirSched → AirSched) : (s.modAir n f).linkSel = s.linkSel := rfl
@[simp] theorem State.modAir_phase (f : AirSched → AirSched) : (s.modAir n f).phase = s.phase := rfl
@[simp] theorem State.modAir_framer (f : AirSched → AirSched) : (s.modAir n f).framer = s.framer := rfl
@[simp] theorem State.modAir_replyBuf (f : AirSched → AirSched) : (s.modAir n f).replyBuf = s.replyBuf := rfl
@[simp] theorem State.modAir_refusal (f : AirSched → AirSched) : (s.modAir n f).refusal = s.refusal := rfl
@[simp] theorem State.modAir_uartTx (f : AirSched → AirSched) : (s.modAir n f).uartTx = s.uartTx := rfl
@[simp] theorem State.modAir_linkOut (f : AirSched → AirSched) : (s.modAir n f).linkOut = s.linkOut := rfl
@[simp] theorem State.modAir_notices (f : AirSched → AirSched) : (s.modAir n f).notices = s.notices := rfl
@[simp] theorem State.modAir_threshold (f : AirSched → AirSched) : (s.modAir n f).threshold = s.threshold := rfl
@[simp] theorem State.modAir_attn (f : AirSched → AirSched) : (s.modAir n f).attn = s.attn := rfl
@[simp] theorem State.modAir_announces (f : AirSched → AirSched) : (s.modAir n f).announces = s.announces := rfl
@[simp] theorem State.modAir_packages (f : AirSched → AirSched) : (s.modAir n f).packages = s.packages := rfl
@[simp] theorem State.modAir_serialHigh (f : AirSched → AirSched) : (s.modAir n f).serialHigh = s.serialHigh := rfl
@[simp] theorem State.modAir_load (f : AirSched → AirSched) : (s.modAir n f).load = s.load := rfl
@[simp] theorem State.modAir_slot (f : AirSched → AirSched) : (s.modAir n f).slot = s.slot := rfl
@[simp] theorem State.modAir_flash (f : AirSched → AirSched) : (s.modAir n f).flash = s.flash := rfl
@[simp] theorem State.modAir_blocks (f : AirSched → AirSched) : (s.modAir n f).blocks = s.blocks := rfl
@[simp] theorem State.modAir_pageReg (f : AirSched → AirSched) : (s.modAir n f).pageReg = s.pageReg := rfl
@[simp] theorem State.modAir_flight (f : AirSched → AirSched) : (s.modAir n f).flight = s.flight := rfl
@[simp] theorem State.modAir_queue (f : AirSched → AirSched) : (s.modAir n f).queue = s.queue := rfl
@[simp] theorem State.modAir_scan (f : AirSched → AirSched) : (s.modAir n f).scan = s.scan := rfl
@[simp] theorem State.modAir_swi (f : AirSched → AirSched) : (s.modAir n f).swi = s.swi := rfl
@[simp] theorem State.modAir_shold (f : AirSched → AirSched) : (s.modAir n f).shold = s.shold := rfl
@[simp] theorem State.modAir_free (f : AirSched → AirSched) : (s.modAir n f).free = s.free := rfl
@[simp] theorem State.modAir_pending (f : AirSched → AirSched) : (s.modAir n f).pending = s.pending := rfl

@[simp] theorem State.modEmit_linkSel (f : Emitter → Emitter) : (s.modEmit n f).linkSel = s.linkSel := rfl
@[simp] theorem State.modEmit_phase (f : Emitter → Emitter) : (s.modEmit n f).phase = s.phase := rfl
@[simp] theorem State.modEmit_framer (f : Emitter → Emitter) : (s.modEmit n f).framer = s.framer := rfl
@[simp] theorem State.modEmit_replyBuf (f : Emitter → Emitter) : (s.modEmit n f).replyBuf = s.replyBuf := rfl
@[simp] theorem State.modEmit_refusal (f : Emitter → Emitter) : (s.modEmit n f).refusal = s.refusal := rfl
@[simp] theorem State.modEmit_uartTx (f : Emitter → Emitter) : (s.modEmit n f).uartTx = s.uartTx := rfl
@[simp] theorem State.modEmit_linkOut (f : Emitter → Emitter) : (s.modEmit n f).linkOut = s.linkOut := rfl
@[simp] theorem State.modEmit_notices (f : Emitter → Emitter) : (s.modEmit n f).notices = s.notices := rfl
@[simp] theorem State.modEmit_threshold (f : Emitter → Emitter) : (s.modEmit n f).threshold = s.threshold := rfl
@[simp] theorem State.modEmit_attn (f : Emitter → Emitter) : (s.modEmit n f).attn = s.attn := rfl
@[simp] theorem State.modEmit_announces (f : Emitter → Emitter) : (s.modEmit n f).announces = s.announces := rfl
@[simp] theorem State.modEmit_packages (f : Emitter → Emitter) : (s.modEmit n f).packages = s.packages := rfl
@[simp] theorem State.modEmit_serialHigh (f : Emitter → Emitter) : (s.modEmit n f).serialHigh = s.serialHigh := rfl
@[simp] theorem State.modEmit_load (f : Emitter → Emitter) : (s.modEmit n f).load = s.load := rfl
@[simp] theorem State.modEmit_slot (f : Emitter → Emitter) : (s.modEmit n f).slot = s.slot := rfl
@[simp] theorem State.modEmit_flash (f : Emitter → Emitter) : (s.modEmit n f).flash = s.flash := rfl
@[simp] theorem State.modEmit_blocks (f : Emitter → Emitter) : (s.modEmit n f).blocks = s.blocks := rfl
@[simp] theorem State.modEmit_pageReg (f : Emitter → Emitter) : (s.modEmit n f).pageReg = s.pageReg := rfl
@[simp] theorem State.modEmit_flight (f : Emitter → Emitter) : (s.modEmit n f).flight = s.flight := rfl
@[simp] theorem State.modEmit_queue (f : Emitter → Emitter) : (s.modEmit n f).queue = s.queue := rfl
@[simp] theorem State.modEmit_scan (f : Emitter → Emitter) : (s.modEmit n f).scan = s.scan := rfl
@[simp] theorem State.modEmit_swi (f : Emitter → Emitter) : (s.modEmit n f).swi = s.swi := rfl
@[simp] theorem State.modEmit_shold (f : Emitter → Emitter) : (s.modEmit n f).shold = s.shold := rfl
@[simp] theorem State.modEmit_free (f : Emitter → Emitter) : (s.modEmit n f).free = s.free := rfl
@[simp] theorem State.modEmit_pending (f : Emitter → Emitter) : (s.modEmit n f).pending = s.pending := rfl

@[simp] theorem State.modEng_linkSel (f : TrackEngine → TrackEngine) : (s.modEng n t f).linkSel = s.linkSel := rfl
@[simp] theorem State.modEng_phase (f : TrackEngine → TrackEngine) : (s.modEng n t f).phase = s.phase := rfl
@[simp] theorem State.modEng_framer (f : TrackEngine → TrackEngine) : (s.modEng n t f).framer = s.framer := rfl
@[simp] theorem State.modEng_replyBuf (f : TrackEngine → TrackEngine) : (s.modEng n t f).replyBuf = s.replyBuf := rfl
@[simp] theorem State.modEng_refusal (f : TrackEngine → TrackEngine) : (s.modEng n t f).refusal = s.refusal := rfl
@[simp] theorem State.modEng_uartTx (f : TrackEngine → TrackEngine) : (s.modEng n t f).uartTx = s.uartTx := rfl
@[simp] theorem State.modEng_linkOut (f : TrackEngine → TrackEngine) : (s.modEng n t f).linkOut = s.linkOut := rfl
@[simp] theorem State.modEng_notices (f : TrackEngine → TrackEngine) : (s.modEng n t f).notices = s.notices := rfl
@[simp] theorem State.modEng_threshold (f : TrackEngine → TrackEngine) : (s.modEng n t f).threshold = s.threshold := rfl
@[simp] theorem State.modEng_attn (f : TrackEngine → TrackEngine) : (s.modEng n t f).attn = s.attn := rfl
@[simp] theorem State.modEng_announces (f : TrackEngine → TrackEngine) : (s.modEng n t f).announces = s.announces := rfl
@[simp] theorem State.modEng_packages (f : TrackEngine → TrackEngine) : (s.modEng n t f).packages = s.packages := rfl
@[simp] theorem State.modEng_serialHigh (f : TrackEngine → TrackEngine) : (s.modEng n t f).serialHigh = s.serialHigh := rfl
@[simp] theorem State.modEng_load (f : TrackEngine → TrackEngine) : (s.modEng n t f).load = s.load := rfl
@[simp] theorem State.modEng_slot (f : TrackEngine → TrackEngine) : (s.modEng n t f).slot = s.slot := rfl
@[simp] theorem State.modEng_flash (f : TrackEngine → TrackEngine) : (s.modEng n t f).flash = s.flash := rfl
@[simp] theorem State.modEng_blocks (f : TrackEngine → TrackEngine) : (s.modEng n t f).blocks = s.blocks := rfl
@[simp] theorem State.modEng_pageReg (f : TrackEngine → TrackEngine) : (s.modEng n t f).pageReg = s.pageReg := rfl
@[simp] theorem State.modEng_flight (f : TrackEngine → TrackEngine) : (s.modEng n t f).flight = s.flight := rfl
@[simp] theorem State.modEng_queue (f : TrackEngine → TrackEngine) : (s.modEng n t f).queue = s.queue := rfl
@[simp] theorem State.modEng_scan (f : TrackEngine → TrackEngine) : (s.modEng n t f).scan = s.scan := rfl
@[simp] theorem State.modEng_swi (f : TrackEngine → TrackEngine) : (s.modEng n t f).swi = s.swi := rfl
@[simp] theorem State.modEng_shold (f : TrackEngine → TrackEngine) : (s.modEng n t f).shold = s.shold := rfl
@[simp] theorem State.modEng_free (f : TrackEngine → TrackEngine) : (s.modEng n t f).free = s.free := rfl
@[simp] theorem State.modEng_pending (f : TrackEngine → TrackEngine) : (s.modEng n t f).pending = s.pending := rfl

@[simp] theorem State.modPlay_linkSel (f : Playout → Playout) : (s.modPlay n d f).linkSel = s.linkSel := rfl
@[simp] theorem State.modPlay_phase (f : Playout → Playout) : (s.modPlay n d f).phase = s.phase := rfl
@[simp] theorem State.modPlay_framer (f : Playout → Playout) : (s.modPlay n d f).framer = s.framer := rfl
@[simp] theorem State.modPlay_replyBuf (f : Playout → Playout) : (s.modPlay n d f).replyBuf = s.replyBuf := rfl
@[simp] theorem State.modPlay_refusal (f : Playout → Playout) : (s.modPlay n d f).refusal = s.refusal := rfl
@[simp] theorem State.modPlay_uartTx (f : Playout → Playout) : (s.modPlay n d f).uartTx = s.uartTx := rfl
@[simp] theorem State.modPlay_linkOut (f : Playout → Playout) : (s.modPlay n d f).linkOut = s.linkOut := rfl
@[simp] theorem State.modPlay_notices (f : Playout → Playout) : (s.modPlay n d f).notices = s.notices := rfl
@[simp] theorem State.modPlay_threshold (f : Playout → Playout) : (s.modPlay n d f).threshold = s.threshold := rfl
@[simp] theorem State.modPlay_attn (f : Playout → Playout) : (s.modPlay n d f).attn = s.attn := rfl
@[simp] theorem State.modPlay_announces (f : Playout → Playout) : (s.modPlay n d f).announces = s.announces := rfl
@[simp] theorem State.modPlay_packages (f : Playout → Playout) : (s.modPlay n d f).packages = s.packages := rfl
@[simp] theorem State.modPlay_serialHigh (f : Playout → Playout) : (s.modPlay n d f).serialHigh = s.serialHigh := rfl
@[simp] theorem State.modPlay_load (f : Playout → Playout) : (s.modPlay n d f).load = s.load := rfl
@[simp] theorem State.modPlay_slot (f : Playout → Playout) : (s.modPlay n d f).slot = s.slot := rfl
@[simp] theorem State.modPlay_flash (f : Playout → Playout) : (s.modPlay n d f).flash = s.flash := rfl
@[simp] theorem State.modPlay_blocks (f : Playout → Playout) : (s.modPlay n d f).blocks = s.blocks := rfl
@[simp] theorem State.modPlay_pageReg (f : Playout → Playout) : (s.modPlay n d f).pageReg = s.pageReg := rfl
@[simp] theorem State.modPlay_flight (f : Playout → Playout) : (s.modPlay n d f).flight = s.flight := rfl
@[simp] theorem State.modPlay_queue (f : Playout → Playout) : (s.modPlay n d f).queue = s.queue := rfl
@[simp] theorem State.modPlay_scan (f : Playout → Playout) : (s.modPlay n d f).scan = s.scan := rfl
@[simp] theorem State.modPlay_swi (f : Playout → Playout) : (s.modPlay n d f).swi = s.swi := rfl
@[simp] theorem State.modPlay_shold (f : Playout → Playout) : (s.modPlay n d f).shold = s.shold := rfl
@[simp] theorem State.modPlay_free (f : Playout → Playout) : (s.modPlay n d f).free = s.free := rfl
@[simp] theorem State.modPlay_pending (f : Playout → Playout) : (s.modPlay n d f).pending = s.pending := rfl

/-! ## Updates of one field -/

@[simp] theorem State.withNotices_linkSel (ns : List Notice) : (s.withNotices ns).linkSel = s.linkSel := rfl
@[simp] theorem State.withNotices_phase (ns : List Notice) : (s.withNotices ns).phase = s.phase := rfl
@[simp] theorem State.withNotices_framer (ns : List Notice) : (s.withNotices ns).framer = s.framer := rfl
@[simp] theorem State.withNotices_replyBuf (ns : List Notice) : (s.withNotices ns).replyBuf = s.replyBuf := rfl
@[simp] theorem State.withNotices_refusal (ns : List Notice) : (s.withNotices ns).refusal = s.refusal := rfl
@[simp] theorem State.withNotices_uartTx (ns : List Notice) : (s.withNotices ns).uartTx = s.uartTx := rfl
@[simp] theorem State.withNotices_linkOut (ns : List Notice) : (s.withNotices ns).linkOut = s.linkOut := rfl
@[simp] theorem State.withNotices_threshold (ns : List Notice) : (s.withNotices ns).threshold = s.threshold := rfl
@[simp] theorem State.withNotices_announces (ns : List Notice) : (s.withNotices ns).announces = s.announces := rfl
@[simp] theorem State.withNotices_packages (ns : List Notice) : (s.withNotices ns).packages = s.packages := rfl
@[simp] theorem State.withNotices_serialHigh (ns : List Notice) : (s.withNotices ns).serialHigh = s.serialHigh := rfl
@[simp] theorem State.withNotices_load (ns : List Notice) : (s.withNotices ns).load = s.load := rfl
@[simp] theorem State.withNotices_slot (ns : List Notice) : (s.withNotices ns).slot = s.slot := rfl
@[simp] theorem State.withNotices_flash (ns : List Notice) : (s.withNotices ns).flash = s.flash := rfl
@[simp] theorem State.withNotices_blocks (ns : List Notice) : (s.withNotices ns).blocks = s.blocks := rfl
@[simp] theorem State.withNotices_pageReg (ns : List Notice) : (s.withNotices ns).pageReg = s.pageReg := rfl
@[simp] theorem State.withNotices_flight (ns : List Notice) : (s.withNotices ns).flight = s.flight := rfl
@[simp] theorem State.withNotices_queue (ns : List Notice) : (s.withNotices ns).queue = s.queue := rfl
@[simp] theorem State.withNotices_scan (ns : List Notice) : (s.withNotices ns).scan = s.scan := rfl
@[simp] theorem State.withNotices_swi (ns : List Notice) : (s.withNotices ns).swi = s.swi := rfl
@[simp] theorem State.withNotices_shold (ns : List Notice) : (s.withNotices ns).shold = s.shold := rfl
@[simp] theorem State.withNotices_auds (ns : List Notice) : (s.withNotices ns).auds = s.auds := rfl
@[simp] theorem State.withNotices_free (ns : List Notice) : (s.withNotices ns).free = s.free := rfl
@[simp] theorem State.withNotices_pending (ns : List Notice) : (s.withNotices ns).pending = s.pending := rfl

@[simp] theorem State.raise_linkSel (src : Source) (k : NoticeKind) (x : List Byte) : (s.raise src k x).linkSel = s.linkSel := rfl
@[simp] theorem State.raise_phase (src : Source) (k : NoticeKind) (x : List Byte) : (s.raise src k x).phase = s.phase := rfl
@[simp] theorem State.raise_framer (src : Source) (k : NoticeKind) (x : List Byte) : (s.raise src k x).framer = s.framer := rfl
@[simp] theorem State.raise_replyBuf (src : Source) (k : NoticeKind) (x : List Byte) : (s.raise src k x).replyBuf = s.replyBuf := rfl
@[simp] theorem State.raise_refusal (src : Source) (k : NoticeKind) (x : List Byte) : (s.raise src k x).refusal = s.refusal := rfl
@[simp] theorem State.raise_uartTx (src : Source) (k : NoticeKind) (x : List Byte) : (s.raise src k x).uartTx = s.uartTx := rfl
@[simp] theorem State.raise_linkOut (src : Source) (k : NoticeKind) (x : List Byte) : (s.raise src k x).linkOut = s.linkOut := rfl
@[simp] theorem State.raise_threshold (src : Source) (k : NoticeKind) (x : List Byte) : (s.raise src k x).threshold = s.threshold := rfl
@[simp] theorem State.raise_announces (src : Source) (k : NoticeKind) (x : List Byte) : (s.raise src k x).announces = s.announces := rfl
@[simp] theorem State.raise_packages (src : Source) (k : NoticeKind) (x : List Byte) : (s.raise src k x).packages = s.packages := rfl
@[simp] theorem State.raise_serialHigh (src : Source) (k : NoticeKind) (x : List Byte) : (s.raise src k x).serialHigh = s.serialHigh := rfl
@[simp] theorem State.raise_load (src : Source) (k : NoticeKind) (x : List Byte) : (s.raise src k x).load = s.load := rfl
@[simp] theorem State.raise_slot (src : Source) (k : NoticeKind) (x : List Byte) : (s.raise src k x).slot = s.slot := rfl
@[simp] theorem State.raise_flash (src : Source) (k : NoticeKind) (x : List Byte) : (s.raise src k x).flash = s.flash := rfl
@[simp] theorem State.raise_blocks (src : Source) (k : NoticeKind) (x : List Byte) : (s.raise src k x).blocks = s.blocks := rfl
@[simp] theorem State.raise_pageReg (src : Source) (k : NoticeKind) (x : List Byte) : (s.raise src k x).pageReg = s.pageReg := rfl
@[simp] theorem State.raise_flight (src : Source) (k : NoticeKind) (x : List Byte) : (s.raise src k x).flight = s.flight := rfl
@[simp] theorem State.raise_queue (src : Source) (k : NoticeKind) (x : List Byte) : (s.raise src k x).queue = s.queue := rfl
@[simp] theorem State.raise_scan (src : Source) (k : NoticeKind) (x : List Byte) : (s.raise src k x).scan = s.scan := rfl
@[simp] theorem State.raise_swi (src : Source) (k : NoticeKind) (x : List Byte) : (s.raise src k x).swi = s.swi := rfl
@[simp] theorem State.raise_shold (src : Source) (k : NoticeKind) (x : List Byte) : (s.raise src k x).shold = s.shold := rfl
@[simp] theorem State.raise_auds (src : Source) (k : NoticeKind) (x : List Byte) : (s.raise src k x).auds = s.auds := rfl
@[simp] theorem State.raise_free (src : Source) (k : NoticeKind) (x : List Byte) : (s.raise src k x).free = s.free := rfl
@[simp] theorem State.raise_pending (src : Source) (k : NoticeKind) (x : List Byte) : (s.raise src k x).pending = s.pending := rfl

@[simp] theorem State.modBlock_linkSel (b : Nat) (f : BlockRec → BlockRec) : (s.modBlock b f).linkSel = s.linkSel := rfl
@[simp] theorem State.modBlock_phase (b : Nat) (f : BlockRec → BlockRec) : (s.modBlock b f).phase = s.phase := rfl
@[simp] theorem State.modBlock_framer (b : Nat) (f : BlockRec → BlockRec) : (s.modBlock b f).framer = s.framer := rfl
@[simp] theorem State.modBlock_replyBuf (b : Nat) (f : BlockRec → BlockRec) : (s.modBlock b f).replyBuf = s.replyBuf := rfl
@[simp] theorem State.modBlock_refusal (b : Nat) (f : BlockRec → BlockRec) : (s.modBlock b f).refusal = s.refusal := rfl
@[simp] theorem State.modBlock_uartTx (b : Nat) (f : BlockRec → BlockRec) : (s.modBlock b f).uartTx = s.uartTx := rfl
@[simp] theorem State.modBlock_linkOut (b : Nat) (f : BlockRec → BlockRec) : (s.modBlock b f).linkOut = s.linkOut := rfl
@[simp] theorem State.modBlock_notices (b : Nat) (f : BlockRec → BlockRec) : (s.modBlock b f).notices = s.notices := rfl
@[simp] theorem State.modBlock_threshold (b : Nat) (f : BlockRec → BlockRec) : (s.modBlock b f).threshold = s.threshold := rfl
@[simp] theorem State.modBlock_attn (b : Nat) (f : BlockRec → BlockRec) : (s.modBlock b f).attn = s.attn := rfl
@[simp] theorem State.modBlock_announces (b : Nat) (f : BlockRec → BlockRec) : (s.modBlock b f).announces = s.announces := rfl
@[simp] theorem State.modBlock_packages (b : Nat) (f : BlockRec → BlockRec) : (s.modBlock b f).packages = s.packages := rfl
@[simp] theorem State.modBlock_serialHigh (b : Nat) (f : BlockRec → BlockRec) : (s.modBlock b f).serialHigh = s.serialHigh := rfl
@[simp] theorem State.modBlock_load (b : Nat) (f : BlockRec → BlockRec) : (s.modBlock b f).load = s.load := rfl
@[simp] theorem State.modBlock_slot (b : Nat) (f : BlockRec → BlockRec) : (s.modBlock b f).slot = s.slot := rfl
@[simp] theorem State.modBlock_flash (b : Nat) (f : BlockRec → BlockRec) : (s.modBlock b f).flash = s.flash := rfl
@[simp] theorem State.modBlock_pageReg (b : Nat) (f : BlockRec → BlockRec) : (s.modBlock b f).pageReg = s.pageReg := rfl
@[simp] theorem State.modBlock_flight (b : Nat) (f : BlockRec → BlockRec) : (s.modBlock b f).flight = s.flight := rfl
@[simp] theorem State.modBlock_queue (b : Nat) (f : BlockRec → BlockRec) : (s.modBlock b f).queue = s.queue := rfl
@[simp] theorem State.modBlock_scan (b : Nat) (f : BlockRec → BlockRec) : (s.modBlock b f).scan = s.scan := rfl
@[simp] theorem State.modBlock_swi (b : Nat) (f : BlockRec → BlockRec) : (s.modBlock b f).swi = s.swi := rfl
@[simp] theorem State.modBlock_shold (b : Nat) (f : BlockRec → BlockRec) : (s.modBlock b f).shold = s.shold := rfl
@[simp] theorem State.modBlock_auds (b : Nat) (f : BlockRec → BlockRec) : (s.modBlock b f).auds = s.auds := rfl
@[simp] theorem State.modBlock_free (b : Nat) (f : BlockRec → BlockRec) : (s.modBlock b f).free = s.free := rfl
@[simp] theorem State.modBlock_pending (b : Nat) (f : BlockRec → BlockRec) : (s.modBlock b f).pending = s.pending := rfl

@[simp] theorem State.claim_linkSel (b : Nat) (c : BlockClass) (o : Nat) : (s.claim b c o).linkSel = s.linkSel := rfl
@[simp] theorem State.claim_phase (b : Nat) (c : BlockClass) (o : Nat) : (s.claim b c o).phase = s.phase := rfl
@[simp] theorem State.claim_framer (b : Nat) (c : BlockClass) (o : Nat) : (s.claim b c o).framer = s.framer := rfl
@[simp] theorem State.claim_replyBuf (b : Nat) (c : BlockClass) (o : Nat) : (s.claim b c o).replyBuf = s.replyBuf := rfl
@[simp] theorem State.claim_refusal (b : Nat) (c : BlockClass) (o : Nat) : (s.claim b c o).refusal = s.refusal := rfl
@[simp] theorem State.claim_uartTx (b : Nat) (c : BlockClass) (o : Nat) : (s.claim b c o).uartTx = s.uartTx := rfl
@[simp] theorem State.claim_linkOut (b : Nat) (c : BlockClass) (o : Nat) : (s.claim b c o).linkOut = s.linkOut := rfl
@[simp] theorem State.claim_notices (b : Nat) (c : BlockClass) (o : Nat) : (s.claim b c o).notices = s.notices := rfl
@[simp] theorem State.claim_threshold (b : Nat) (c : BlockClass) (o : Nat) : (s.claim b c o).threshold = s.threshold := rfl
@[simp] theorem State.claim_attn (b : Nat) (c : BlockClass) (o : Nat) : (s.claim b c o).attn = s.attn := rfl
@[simp] theorem State.claim_announces (b : Nat) (c : BlockClass) (o : Nat) : (s.claim b c o).announces = s.announces := rfl
@[simp] theorem State.claim_packages (b : Nat) (c : BlockClass) (o : Nat) : (s.claim b c o).packages = s.packages := rfl
@[simp] theorem State.claim_serialHigh (b : Nat) (c : BlockClass) (o : Nat) : (s.claim b c o).serialHigh = s.serialHigh := rfl
@[simp] theorem State.claim_load (b : Nat) (c : BlockClass) (o : Nat) : (s.claim b c o).load = s.load := rfl
@[simp] theorem State.claim_slot (b : Nat) (c : BlockClass) (o : Nat) : (s.claim b c o).slot = s.slot := rfl
@[simp] theorem State.claim_flash (b : Nat) (c : BlockClass) (o : Nat) : (s.claim b c o).flash = s.flash := rfl
@[simp] theorem State.claim_pageReg (b : Nat) (c : BlockClass) (o : Nat) : (s.claim b c o).pageReg = s.pageReg := rfl
@[simp] theorem State.claim_flight (b : Nat) (c : BlockClass) (o : Nat) : (s.claim b c o).flight = s.flight := rfl
@[simp] theorem State.claim_queue (b : Nat) (c : BlockClass) (o : Nat) : (s.claim b c o).queue = s.queue := rfl
@[simp] theorem State.claim_scan (b : Nat) (c : BlockClass) (o : Nat) : (s.claim b c o).scan = s.scan := rfl
@[simp] theorem State.claim_swi (b : Nat) (c : BlockClass) (o : Nat) : (s.claim b c o).swi = s.swi := rfl
@[simp] theorem State.claim_shold (b : Nat) (c : BlockClass) (o : Nat) : (s.claim b c o).shold = s.shold := rfl
@[simp] theorem State.claim_auds (b : Nat) (c : BlockClass) (o : Nat) : (s.claim b c o).auds = s.auds := rfl
@[simp] theorem State.claim_free (b : Nat) (c : BlockClass) (o : Nat) : (s.claim b c o).free = s.free := rfl
@[simp] theorem State.claim_pending (b : Nat) (c : BlockClass) (o : Nat) : (s.claim b c o).pending = s.pending := rfl

@[simp] theorem State.release_linkSel (b : Nat) (c : BlockClass) : (s.release b c).linkSel = s.linkSel := rfl
@[simp] theorem State.release_phase (b : Nat) (c : BlockClass) : (s.release b c).phase = s.phase := rfl
@[simp] theorem State.release_framer (b : Nat) (c : BlockClass) : (s.release b c).framer = s.framer := rfl
@[simp] theorem State.release_replyBuf (b : Nat) (c : BlockClass) : (s.release b c).replyBuf = s.replyBuf := rfl
@[simp] theorem State.release_refusal (b : Nat) (c : BlockClass) : (s.release b c).refusal = s.refusal := rfl
@[simp] theorem State.release_uartTx (b : Nat) (c : BlockClass) : (s.release b c).uartTx = s.uartTx := rfl
@[simp] theorem State.release_linkOut (b : Nat) (c : BlockClass) : (s.release b c).linkOut = s.linkOut := rfl
@[simp] theorem State.release_notices (b : Nat) (c : BlockClass) : (s.release b c).notices = s.notices := rfl
@[simp] theorem State.release_threshold (b : Nat) (c : BlockClass) : (s.release b c).threshold = s.threshold := rfl
@[simp] theorem State.release_attn (b : Nat) (c : BlockClass) : (s.release b c).attn = s.attn := rfl
@[simp] theorem State.release_announces (b : Nat) (c : BlockClass) : (s.release b c).announces = s.announces := rfl
@[simp] theorem State.release_packages (b : Nat) (c : BlockClass) : (s.release b c).packages = s.packages := rfl
@[simp] theorem State.release_serialHigh (b : Nat) (c : BlockClass) : (s.release b c).serialHigh = s.serialHigh := rfl
@[simp] theorem State.release_load (b : Nat) (c : BlockClass) : (s.release b c).load = s.load := rfl
@[simp] theorem State.release_slot (b : Nat) (c : BlockClass) : (s.release b c).slot = s.slot := rfl
@[simp] theorem State.release_flash (b : Nat) (c : BlockClass) : (s.release b c).flash = s.flash := rfl
@[simp] theorem State.release_pageReg (b : Nat) (c : BlockClass) : (s.release b c).pageReg = s.pageReg := rfl
@[simp] theorem State.release_flight (b : Nat) (c : BlockClass) : (s.release b c).flight = s.flight := rfl
@[simp] theorem State.release_queue (b : Nat) (c : BlockClass) : (s.release b c).queue = s.queue := rfl
@[simp] theorem State.release_scan (b : Nat) (c : BlockClass) : (s.release b c).scan = s.scan := rfl
@[simp] theorem State.release_swi (b : Nat) (c : BlockClass) : (s.release b c).swi = s.swi := rfl
@[simp] theorem State.release_shold (b : Nat) (c : BlockClass) : (s.release b c).shold = s.shold := rfl
@[simp] theorem State.release_auds (b : Nat) (c : BlockClass) : (s.release b c).auds = s.auds := rfl
@[simp] theorem State.release_free (b : Nat) (c : BlockClass) : (s.release b c).free = s.free := rfl
@[simp] theorem State.release_pending (b : Nat) (c : BlockClass) : (s.release b c).pending = s.pending := rfl

@[simp] theorem State.modPackage_linkSel (i : Nat) (f : Package → Package) : (s.modPackage i f).linkSel = s.linkSel := rfl
@[simp] theorem State.modPackage_phase (i : Nat) (f : Package → Package) : (s.modPackage i f).phase = s.phase := rfl
@[simp] theorem State.modPackage_framer (i : Nat) (f : Package → Package) : (s.modPackage i f).framer = s.framer := rfl
@[simp] theorem State.modPackage_replyBuf (i : Nat) (f : Package → Package) : (s.modPackage i f).replyBuf = s.replyBuf := rfl
@[simp] theorem State.modPackage_refusal (i : Nat) (f : Package → Package) : (s.modPackage i f).refusal = s.refusal := rfl
@[simp] theorem State.modPackage_uartTx (i : Nat) (f : Package → Package) : (s.modPackage i f).uartTx = s.uartTx := rfl
@[simp] theorem State.modPackage_linkOut (i : Nat) (f : Package → Package) : (s.modPackage i f).linkOut = s.linkOut := rfl
@[simp] theorem State.modPackage_notices (i : Nat) (f : Package → Package) : (s.modPackage i f).notices = s.notices := rfl
@[simp] theorem State.modPackage_threshold (i : Nat) (f : Package → Package) : (s.modPackage i f).threshold = s.threshold := rfl
@[simp] theorem State.modPackage_attn (i : Nat) (f : Package → Package) : (s.modPackage i f).attn = s.attn := rfl
@[simp] theorem State.modPackage_announces (i : Nat) (f : Package → Package) : (s.modPackage i f).announces = s.announces := rfl
@[simp] theorem State.modPackage_serialHigh (i : Nat) (f : Package → Package) : (s.modPackage i f).serialHigh = s.serialHigh := rfl
@[simp] theorem State.modPackage_load (i : Nat) (f : Package → Package) : (s.modPackage i f).load = s.load := rfl
@[simp] theorem State.modPackage_slot (i : Nat) (f : Package → Package) : (s.modPackage i f).slot = s.slot := rfl
@[simp] theorem State.modPackage_flash (i : Nat) (f : Package → Package) : (s.modPackage i f).flash = s.flash := rfl
@[simp] theorem State.modPackage_blocks (i : Nat) (f : Package → Package) : (s.modPackage i f).blocks = s.blocks := rfl
@[simp] theorem State.modPackage_pageReg (i : Nat) (f : Package → Package) : (s.modPackage i f).pageReg = s.pageReg := rfl
@[simp] theorem State.modPackage_flight (i : Nat) (f : Package → Package) : (s.modPackage i f).flight = s.flight := rfl
@[simp] theorem State.modPackage_queue (i : Nat) (f : Package → Package) : (s.modPackage i f).queue = s.queue := rfl
@[simp] theorem State.modPackage_scan (i : Nat) (f : Package → Package) : (s.modPackage i f).scan = s.scan := rfl
@[simp] theorem State.modPackage_swi (i : Nat) (f : Package → Package) : (s.modPackage i f).swi = s.swi := rfl
@[simp] theorem State.modPackage_shold (i : Nat) (f : Package → Package) : (s.modPackage i f).shold = s.shold := rfl
@[simp] theorem State.modPackage_auds (i : Nat) (f : Package → Package) : (s.modPackage i f).auds = s.auds := rfl
@[simp] theorem State.modPackage_free (i : Nat) (f : Package → Package) : (s.modPackage i f).free = s.free := rfl
@[simp] theorem State.modPackage_pending (i : Nat) (f : Package → Package) : (s.modPackage i f).pending = s.pending := rfl

@[simp] theorem State.setPkgState_linkSel (i : Nat) (st : PkgState) : (s.setPkgState i st).linkSel = s.linkSel := rfl
@[simp] theorem State.setPkgState_phase (i : Nat) (st : PkgState) : (s.setPkgState i st).phase = s.phase := rfl
@[simp] theorem State.setPkgState_framer (i : Nat) (st : PkgState) : (s.setPkgState i st).framer = s.framer := rfl
@[simp] theorem State.setPkgState_replyBuf (i : Nat) (st : PkgState) : (s.setPkgState i st).replyBuf = s.replyBuf := rfl
@[simp] theorem State.setPkgState_refusal (i : Nat) (st : PkgState) : (s.setPkgState i st).refusal = s.refusal := rfl
@[simp] theorem State.setPkgState_uartTx (i : Nat) (st : PkgState) : (s.setPkgState i st).uartTx = s.uartTx := rfl
@[simp] theorem State.setPkgState_linkOut (i : Nat) (st : PkgState) : (s.setPkgState i st).linkOut = s.linkOut := rfl
@[simp] theorem State.setPkgState_notices (i : Nat) (st : PkgState) : (s.setPkgState i st).notices = s.notices := rfl
@[simp] theorem State.setPkgState_threshold (i : Nat) (st : PkgState) : (s.setPkgState i st).threshold = s.threshold := rfl
@[simp] theorem State.setPkgState_attn (i : Nat) (st : PkgState) : (s.setPkgState i st).attn = s.attn := rfl
@[simp] theorem State.setPkgState_announces (i : Nat) (st : PkgState) : (s.setPkgState i st).announces = s.announces := rfl
@[simp] theorem State.setPkgState_serialHigh (i : Nat) (st : PkgState) : (s.setPkgState i st).serialHigh = s.serialHigh := rfl
@[simp] theorem State.setPkgState_load (i : Nat) (st : PkgState) : (s.setPkgState i st).load = s.load := rfl
@[simp] theorem State.setPkgState_slot (i : Nat) (st : PkgState) : (s.setPkgState i st).slot = s.slot := rfl
@[simp] theorem State.setPkgState_flash (i : Nat) (st : PkgState) : (s.setPkgState i st).flash = s.flash := rfl
@[simp] theorem State.setPkgState_blocks (i : Nat) (st : PkgState) : (s.setPkgState i st).blocks = s.blocks := rfl
@[simp] theorem State.setPkgState_pageReg (i : Nat) (st : PkgState) : (s.setPkgState i st).pageReg = s.pageReg := rfl
@[simp] theorem State.setPkgState_flight (i : Nat) (st : PkgState) : (s.setPkgState i st).flight = s.flight := rfl
@[simp] theorem State.setPkgState_queue (i : Nat) (st : PkgState) : (s.setPkgState i st).queue = s.queue := rfl
@[simp] theorem State.setPkgState_scan (i : Nat) (st : PkgState) : (s.setPkgState i st).scan = s.scan := rfl
@[simp] theorem State.setPkgState_swi (i : Nat) (st : PkgState) : (s.setPkgState i st).swi = s.swi := rfl
@[simp] theorem State.setPkgState_shold (i : Nat) (st : PkgState) : (s.setPkgState i st).shold = s.shold := rfl
@[simp] theorem State.setPkgState_auds (i : Nat) (st : PkgState) : (s.setPkgState i st).auds = s.auds := rfl
@[simp] theorem State.setPkgState_free (i : Nat) (st : PkgState) : (s.setPkgState i st).free = s.free := rfl
@[simp] theorem State.setPkgState_pending (i : Nat) (st : PkgState) : (s.setPkgState i st).pending = s.pending := rfl

@[simp] theorem State.dropPackage_linkSel (i : Nat) : (s.dropPackage i).linkSel = s.linkSel := rfl
@[simp] theorem State.dropPackage_phase (i : Nat) : (s.dropPackage i).phase = s.phase := rfl
@[simp] theorem State.dropPackage_framer (i : Nat) : (s.dropPackage i).framer = s.framer := rfl
@[simp] theorem State.dropPackage_replyBuf (i : Nat) : (s.dropPackage i).replyBuf = s.replyBuf := rfl
@[simp] theorem State.dropPackage_refusal (i : Nat) : (s.dropPackage i).refusal = s.refusal := rfl
@[simp] theorem State.dropPackage_uartTx (i : Nat) : (s.dropPackage i).uartTx = s.uartTx := rfl
@[simp] theorem State.dropPackage_linkOut (i : Nat) : (s.dropPackage i).linkOut = s.linkOut := rfl
@[simp] theorem State.dropPackage_notices (i : Nat) : (s.dropPackage i).notices = s.notices := rfl
@[simp] theorem State.dropPackage_threshold (i : Nat) : (s.dropPackage i).threshold = s.threshold := rfl
@[simp] theorem State.dropPackage_attn (i : Nat) : (s.dropPackage i).attn = s.attn := rfl
@[simp] theorem State.dropPackage_announces (i : Nat) : (s.dropPackage i).announces = s.announces := rfl
@[simp] theorem State.dropPackage_serialHigh (i : Nat) : (s.dropPackage i).serialHigh = s.serialHigh := rfl
@[simp] theorem State.dropPackage_load (i : Nat) : (s.dropPackage i).load = s.load := rfl
@[simp] theorem State.dropPackage_slot (i : Nat) : (s.dropPackage i).slot = s.slot := rfl
@[simp] theorem State.dropPackage_flash (i : Nat) : (s.dropPackage i).flash = s.flash := rfl
@[simp] theorem State.dropPackage_blocks (i : Nat) : (s.dropPackage i).blocks = s.blocks := rfl
@[simp] theorem State.dropPackage_pageReg (i : Nat) : (s.dropPackage i).pageReg = s.pageReg := rfl
@[simp] theorem State.dropPackage_flight (i : Nat) : (s.dropPackage i).flight = s.flight := rfl
@[simp] theorem State.dropPackage_queue (i : Nat) : (s.dropPackage i).queue = s.queue := rfl
@[simp] theorem State.dropPackage_scan (i : Nat) : (s.dropPackage i).scan = s.scan := rfl
@[simp] theorem State.dropPackage_swi (i : Nat) : (s.dropPackage i).swi = s.swi := rfl
@[simp] theorem State.dropPackage_shold (i : Nat) : (s.dropPackage i).shold = s.shold := rfl
@[simp] theorem State.dropPackage_auds (i : Nat) : (s.dropPackage i).auds = s.auds := rfl
@[simp] theorem State.dropPackage_free (i : Nat) : (s.dropPackage i).free = s.free := rfl
@[simp] theorem State.dropPackage_pending (i : Nat) : (s.dropPackage i).pending = s.pending := rfl

@[simp] theorem State.withdraw_linkSel (w : Requester) : (s.withdraw w).linkSel = s.linkSel := rfl
@[simp] theorem State.withdraw_phase (w : Requester) : (s.withdraw w).phase = s.phase := rfl
@[simp] theorem State.withdraw_framer (w : Requester) : (s.withdraw w).framer = s.framer := rfl
@[simp] theorem State.withdraw_replyBuf (w : Requester) : (s.withdraw w).replyBuf = s.replyBuf := rfl
@[simp] theorem State.withdraw_refusal (w : Requester) : (s.withdraw w).refusal = s.refusal := rfl
@[simp] theorem State.withdraw_uartTx (w : Requester) : (s.withdraw w).uartTx = s.uartTx := rfl
@[simp] theorem State.withdraw_linkOut (w : Requester) : (s.withdraw w).linkOut = s.linkOut := rfl
@[simp] theorem State.withdraw_notices (w : Requester) : (s.withdraw w).notices = s.notices := rfl
@[simp] theorem State.withdraw_threshold (w : Requester) : (s.withdraw w).threshold = s.threshold := rfl
@[simp] theorem State.withdraw_attn (w : Requester) : (s.withdraw w).attn = s.attn := rfl
@[simp] theorem State.withdraw_announces (w : Requester) : (s.withdraw w).announces = s.announces := rfl
@[simp] theorem State.withdraw_packages (w : Requester) : (s.withdraw w).packages = s.packages := rfl
@[simp] theorem State.withdraw_serialHigh (w : Requester) : (s.withdraw w).serialHigh = s.serialHigh := rfl
@[simp] theorem State.withdraw_load (w : Requester) : (s.withdraw w).load = s.load := rfl
@[simp] theorem State.withdraw_slot (w : Requester) : (s.withdraw w).slot = s.slot := rfl
@[simp] theorem State.withdraw_flash (w : Requester) : (s.withdraw w).flash = s.flash := rfl
@[simp] theorem State.withdraw_blocks (w : Requester) : (s.withdraw w).blocks = s.blocks := rfl
@[simp] theorem State.withdraw_pageReg (w : Requester) : (s.withdraw w).pageReg = s.pageReg := rfl
@[simp] theorem State.withdraw_flight (w : Requester) : (s.withdraw w).flight = s.flight := rfl
@[simp] theorem State.withdraw_scan (w : Requester) : (s.withdraw w).scan = s.scan := rfl
@[simp] theorem State.withdraw_swi (w : Requester) : (s.withdraw w).swi = s.swi := rfl
@[simp] theorem State.withdraw_shold (w : Requester) : (s.withdraw w).shold = s.shold := rfl
@[simp] theorem State.withdraw_auds (w : Requester) : (s.withdraw w).auds = s.auds := rfl
@[simp] theorem State.withdraw_free (w : Requester) : (s.withdraw w).free = s.free := rfl
@[simp] theorem State.withdraw_pending (w : Requester) : (s.withdraw w).pending = s.pending := rfl

@[simp] theorem State.setOp_linkSel (o : HostOp) : (s.setOp o).linkSel = s.linkSel := rfl
@[simp] theorem State.setOp_phase (o : HostOp) : (s.setOp o).phase = s.phase := rfl
@[simp] theorem State.setOp_framer (o : HostOp) : (s.setOp o).framer = s.framer := rfl
@[simp] theorem State.setOp_replyBuf (o : HostOp) : (s.setOp o).replyBuf = s.replyBuf := rfl
@[simp] theorem State.setOp_refusal (o : HostOp) : (s.setOp o).refusal = s.refusal := rfl
@[simp] theorem State.setOp_uartTx (o : HostOp) : (s.setOp o).uartTx = s.uartTx := rfl
@[simp] theorem State.setOp_linkOut (o : HostOp) : (s.setOp o).linkOut = s.linkOut := rfl
@[simp] theorem State.setOp_notices (o : HostOp) : (s.setOp o).notices = s.notices := rfl
@[simp] theorem State.setOp_threshold (o : HostOp) : (s.setOp o).threshold = s.threshold := rfl
@[simp] theorem State.setOp_attn (o : HostOp) : (s.setOp o).attn = s.attn := rfl
@[simp] theorem State.setOp_announces (o : HostOp) : (s.setOp o).announces = s.announces := rfl
@[simp] theorem State.setOp_packages (o : HostOp) : (s.setOp o).packages = s.packages := rfl
@[simp] theorem State.setOp_serialHigh (o : HostOp) : (s.setOp o).serialHigh = s.serialHigh := rfl
@[simp] theorem State.setOp_load (o : HostOp) : (s.setOp o).load = s.load := rfl
@[simp] theorem State.setOp_flash (o : HostOp) : (s.setOp o).flash = s.flash := rfl
@[simp] theorem State.setOp_blocks (o : HostOp) : (s.setOp o).blocks = s.blocks := rfl
@[simp] theorem State.setOp_pageReg (o : HostOp) : (s.setOp o).pageReg = s.pageReg := rfl
@[simp] theorem State.setOp_flight (o : HostOp) : (s.setOp o).flight = s.flight := rfl
@[simp] theorem State.setOp_queue (o : HostOp) : (s.setOp o).queue = s.queue := rfl
@[simp] theorem State.setOp_scan (o : HostOp) : (s.setOp o).scan = s.scan := rfl
@[simp] theorem State.setOp_swi (o : HostOp) : (s.setOp o).swi = s.swi := rfl
@[simp] theorem State.setOp_shold (o : HostOp) : (s.setOp o).shold = s.shold := rfl
@[simp] theorem State.setOp_auds (o : HostOp) : (s.setOp o).auds = s.auds := rfl
@[simp] theorem State.setOp_free (o : HostOp) : (s.setOp o).free = s.free := rfl
@[simp] theorem State.setOp_pending (o : HostOp) : (s.setOp o).pending = s.pending := rfl

@[simp] theorem State.endOp_linkSel : (s.endOp).linkSel = s.linkSel := rfl
@[simp] theorem State.endOp_phase : (s.endOp).phase = s.phase := rfl
@[simp] theorem State.endOp_framer : (s.endOp).framer = s.framer := rfl
@[simp] theorem State.endOp_replyBuf : (s.endOp).replyBuf = s.replyBuf := rfl
@[simp] theorem State.endOp_refusal : (s.endOp).refusal = s.refusal := rfl
@[simp] theorem State.endOp_uartTx : (s.endOp).uartTx = s.uartTx := rfl
@[simp] theorem State.endOp_linkOut : (s.endOp).linkOut = s.linkOut := rfl
@[simp] theorem State.endOp_notices : (s.endOp).notices = s.notices := rfl
@[simp] theorem State.endOp_threshold : (s.endOp).threshold = s.threshold := rfl
@[simp] theorem State.endOp_attn : (s.endOp).attn = s.attn := rfl
@[simp] theorem State.endOp_announces : (s.endOp).announces = s.announces := rfl
@[simp] theorem State.endOp_packages : (s.endOp).packages = s.packages := rfl
@[simp] theorem State.endOp_serialHigh : (s.endOp).serialHigh = s.serialHigh := rfl
@[simp] theorem State.endOp_load : (s.endOp).load = s.load := rfl
@[simp] theorem State.endOp_flash : (s.endOp).flash = s.flash := rfl
@[simp] theorem State.endOp_blocks : (s.endOp).blocks = s.blocks := rfl
@[simp] theorem State.endOp_flight : (s.endOp).flight = s.flight := rfl
@[simp] theorem State.endOp_queue : (s.endOp).queue = s.queue := rfl
@[simp] theorem State.endOp_scan : (s.endOp).scan = s.scan := rfl
@[simp] theorem State.endOp_swi : (s.endOp).swi = s.swi := rfl
@[simp] theorem State.endOp_shold : (s.endOp).shold = s.shold := rfl
@[simp] theorem State.endOp_auds : (s.endOp).auds = s.auds := rfl
@[simp] theorem State.endOp_free : (s.endOp).free = s.free := rfl
@[simp] theorem State.endOp_pending : (s.endOp).pending = s.pending := rfl

@[simp] theorem State.storeFail_linkSel (i o c : Nat) : (s.storeFail i o c).linkSel = s.linkSel := rfl
@[simp] theorem State.storeFail_phase (i o c : Nat) : (s.storeFail i o c).phase = s.phase := rfl
@[simp] theorem State.storeFail_framer (i o c : Nat) : (s.storeFail i o c).framer = s.framer := rfl
@[simp] theorem State.storeFail_replyBuf (i o c : Nat) : (s.storeFail i o c).replyBuf = s.replyBuf := rfl
@[simp] theorem State.storeFail_refusal (i o c : Nat) : (s.storeFail i o c).refusal = s.refusal := rfl
@[simp] theorem State.storeFail_uartTx (i o c : Nat) : (s.storeFail i o c).uartTx = s.uartTx := rfl
@[simp] theorem State.storeFail_linkOut (i o c : Nat) : (s.storeFail i o c).linkOut = s.linkOut := rfl
@[simp] theorem State.storeFail_threshold (i o c : Nat) : (s.storeFail i o c).threshold = s.threshold := rfl
@[simp] theorem State.storeFail_announces (i o c : Nat) : (s.storeFail i o c).announces = s.announces := rfl
@[simp] theorem State.storeFail_packages (i o c : Nat) : (s.storeFail i o c).packages = s.packages := rfl
@[simp] theorem State.storeFail_serialHigh (i o c : Nat) : (s.storeFail i o c).serialHigh = s.serialHigh := rfl
@[simp] theorem State.storeFail_load (i o c : Nat) : (s.storeFail i o c).load = s.load := rfl
@[simp] theorem State.storeFail_slot (i o c : Nat) : (s.storeFail i o c).slot = s.slot := rfl
@[simp] theorem State.storeFail_flash (i o c : Nat) : (s.storeFail i o c).flash = s.flash := rfl
@[simp] theorem State.storeFail_blocks (i o c : Nat) : (s.storeFail i o c).blocks = s.blocks := rfl
@[simp] theorem State.storeFail_pageReg (i o c : Nat) : (s.storeFail i o c).pageReg = s.pageReg := rfl
@[simp] theorem State.storeFail_flight (i o c : Nat) : (s.storeFail i o c).flight = s.flight := rfl
@[simp] theorem State.storeFail_queue (i o c : Nat) : (s.storeFail i o c).queue = s.queue := rfl
@[simp] theorem State.storeFail_scan (i o c : Nat) : (s.storeFail i o c).scan = s.scan := rfl
@[simp] theorem State.storeFail_swi (i o c : Nat) : (s.storeFail i o c).swi = s.swi := rfl
@[simp] theorem State.storeFail_shold (i o c : Nat) : (s.storeFail i o c).shold = s.shold := rfl
@[simp] theorem State.storeFail_auds (i o c : Nat) : (s.storeFail i o c).auds = s.auds := rfl
@[simp] theorem State.storeFail_free (i o c : Nat) : (s.storeFail i o c).free = s.free := rfl
@[simp] theorem State.storeFail_pending (i o c : Nat) : (s.storeFail i o c).pending = s.pending := rfl

@[simp] theorem State.withPending_linkSel (cs : List Instr) : (s.withPending cs).linkSel = s.linkSel := rfl
@[simp] theorem State.withPending_phase (cs : List Instr) : (s.withPending cs).phase = s.phase := rfl
@[simp] theorem State.withPending_framer (cs : List Instr) : (s.withPending cs).framer = s.framer := rfl
@[simp] theorem State.withPending_replyBuf (cs : List Instr) : (s.withPending cs).replyBuf = s.replyBuf := rfl
@[simp] theorem State.withPending_refusal (cs : List Instr) : (s.withPending cs).refusal = s.refusal := rfl
@[simp] theorem State.withPending_uartTx (cs : List Instr) : (s.withPending cs).uartTx = s.uartTx := rfl
@[simp] theorem State.withPending_linkOut (cs : List Instr) : (s.withPending cs).linkOut = s.linkOut := rfl
@[simp] theorem State.withPending_notices (cs : List Instr) : (s.withPending cs).notices = s.notices := rfl
@[simp] theorem State.withPending_threshold (cs : List Instr) : (s.withPending cs).threshold = s.threshold := rfl
@[simp] theorem State.withPending_attn (cs : List Instr) : (s.withPending cs).attn = s.attn := rfl
@[simp] theorem State.withPending_announces (cs : List Instr) : (s.withPending cs).announces = s.announces := rfl
@[simp] theorem State.withPending_packages (cs : List Instr) : (s.withPending cs).packages = s.packages := rfl
@[simp] theorem State.withPending_serialHigh (cs : List Instr) : (s.withPending cs).serialHigh = s.serialHigh := rfl
@[simp] theorem State.withPending_load (cs : List Instr) : (s.withPending cs).load = s.load := rfl
@[simp] theorem State.withPending_slot (cs : List Instr) : (s.withPending cs).slot = s.slot := rfl
@[simp] theorem State.withPending_flash (cs : List Instr) : (s.withPending cs).flash = s.flash := rfl
@[simp] theorem State.withPending_blocks (cs : List Instr) : (s.withPending cs).blocks = s.blocks := rfl
@[simp] theorem State.withPending_pageReg (cs : List Instr) : (s.withPending cs).pageReg = s.pageReg := rfl
@[simp] theorem State.withPending_flight (cs : List Instr) : (s.withPending cs).flight = s.flight := rfl
@[simp] theorem State.withPending_queue (cs : List Instr) : (s.withPending cs).queue = s.queue := rfl
@[simp] theorem State.withPending_scan (cs : List Instr) : (s.withPending cs).scan = s.scan := rfl
@[simp] theorem State.withPending_swi (cs : List Instr) : (s.withPending cs).swi = s.swi := rfl
@[simp] theorem State.withPending_shold (cs : List Instr) : (s.withPending cs).shold = s.shold := rfl
@[simp] theorem State.withPending_auds (cs : List Instr) : (s.withPending cs).auds = s.auds := rfl
@[simp] theorem State.withPending_free (cs : List Instr) : (s.withPending cs).free = s.free := rfl

@[simp] theorem State.withNotices_notices (ns : List Notice) : (s.withNotices ns).notices = ns := rfl
@[simp] theorem State.withNotices_attn (ns : List Notice) : (s.withNotices ns).attn = attentionLevel s.threshold ns := rfl
@[simp] theorem State.raise_notices (src : Source) (k : NoticeKind) (x : List Byte) :
    (s.raise src k x).notices = addNotice src k x s.notices := rfl
@[simp] theorem State.setOp_slot (o : HostOp) : (s.setOp o).slot = some { op := o, waiting := none } := rfl
@[simp] theorem State.endOp_slot : s.endOp.slot = none := rfl
@[simp] theorem State.endOp_pageReg : s.endOp.pageReg = none := rfl
@[simp] theorem State.withPending_pending (cs : List Instr) : (s.withPending cs).pending = cs := rfl

/-! ## Reading an auditorium back -/

@[simp] theorem State.modAud_same (f : Auditorium → Auditorium) : (s.modAud n f).aud n = f (s.aud n) := by
  show (s.auds.set n.val (f (s.aud n)) n.isLt)[n.val] = f (s.aud n)
  simp

theorem State.modAud_other (f : Auditorium → Auditorium) (h : m ≠ n) : (s.modAud n f).aud m = s.aud m := by
  have h' : n.val ≠ m.val := fun x => h (Fin.ext x.symm)
  show (s.auds.set n.val (f (s.aud n)) n.isLt)[m.val] = s.auds[m.val]
  simp [h']

@[simp] theorem State.modInput_same (f : InputUnit → InputUnit) : (s.modInput n f).aud n = { s.aud n with input := f (s.aud n).input } :=
  s.modAud_same n _

theorem State.modInput_other (f : InputUnit → InputUnit) (h : m ≠ n) : (s.modInput n f).aud m = s.aud m := s.modAud_other n m _ h

@[simp] theorem State.modCtx_same (f : ShowCtx → ShowCtx) : (s.modCtx n f).aud n = { s.aud n with ctx := f (s.aud n).ctx } :=
  s.modAud_same n _

theorem State.modCtx_other (f : ShowCtx → ShowCtx) (h : m ≠ n) : (s.modCtx n f).aud m = s.aud m := s.modAud_other n m _ h

@[simp] theorem State.modAir_same (f : AirSched → AirSched) : (s.modAir n f).aud n = { s.aud n with air := f (s.aud n).air } :=
  s.modAud_same n _

theorem State.modAir_other (f : AirSched → AirSched) (h : m ≠ n) : (s.modAir n f).aud m = s.aud m := s.modAud_other n m _ h

@[simp] theorem State.modEmit_same (f : Emitter → Emitter) : (s.modEmit n f).aud n = { s.aud n with emit := f (s.aud n).emit } :=
  s.modAud_same n _

theorem State.modEmit_other (f : Emitter → Emitter) (h : m ≠ n) : (s.modEmit n f).aud m = s.aud m := s.modAud_other n m _ h

@[simp] theorem State.modEng_same (f : TrackEngine → TrackEngine) :
    (s.modEng n t f).aud n = { s.aud n with text := (s.aud n).text.set t.val (f ((s.aud n).text.get t)) t.isLt } :=
  s.modAud_same n _

theorem State.modEng_other (f : TrackEngine → TrackEngine) (h : m ≠ n) : (s.modEng n t f).aud m = s.aud m :=
  s.modAud_other n m _ h

@[simp] theorem State.modPlay_same (f : Playout → Playout) :
    (s.modPlay n d f).aud n = { s.aud n with sound := (s.aud n).sound.set d.val (f ((s.aud n).sound.get d)) d.isLt } :=
  s.modAud_same n _

theorem State.modPlay_other (f : Playout → Playout) (h : m ≠ n) : (s.modPlay n d f).aud m = s.aud m :=
  s.modAud_other n m _ h

@[simp] theorem State.modEng_eng (f : TrackEngine → TrackEngine) : (s.modEng n t f).eng n t = f (s.eng n t) := by
  simp [State.eng, Vector.get]

theorem State.modEng_eng_other (f : TrackEngine → TrackEngine) (h : u ≠ t) : (s.modEng n t f).eng n u = s.eng n u := by
  have h' : t.val ≠ u.val := fun x => h (Fin.ext x.symm)
  simp [State.eng, Vector.get, h']

@[simp] theorem State.modPlay_play (f : Playout → Playout) : (s.modPlay n d f).play n d = f (s.play n d) := by
  simp [State.play, Vector.get]

theorem State.modPlay_play_other (f : Playout → Playout) (h : e ≠ d) : (s.modPlay n d f).play n e = s.play n e := by
  have h' : d.val ≠ e.val := fun x => h (Fin.ext x.symm)
  simp only [State.play, State.modPlay_same]
  show ((s.aud n).sound.set d.val (f ((s.aud n).sound.get d)) d.isLt)[e.val] = (s.aud n).sound[e.val]
  simp [h']

/-! ## The other blocks of the auditorium -/

@[simp] theorem State.modInput_aud_ctx (f : InputUnit → InputUnit) : ((s.modInput n f).aud m).ctx = (s.aud m).ctx := by
  by_cases h : m = n
  · subst h; simp
  · rw [State.modInput_other s _ _ _ h]
@[simp] theorem State.modInput_aud_text (f : InputUnit → InputUnit) : ((s.modInput n f).aud m).text = (s.aud m).text := by
  by_cases h : m = n
  · subst h; simp
  · rw [State.modInput_other s _ _ _ h]
@[simp] theorem State.modInput_aud_sound (f : InputUnit → InputUnit) : ((s.modInput n f).aud m).sound = (s.aud m).sound := by
  by_cases h : m = n
  · subst h; simp
  · rw [State.modInput_other s _ _ _ h]
@[simp] theorem State.modInput_aud_air (f : InputUnit → InputUnit) : ((s.modInput n f).aud m).air = (s.aud m).air := by
  by_cases h : m = n
  · subst h; simp
  · rw [State.modInput_other s _ _ _ h]
@[simp] theorem State.modInput_aud_emit (f : InputUnit → InputUnit) : ((s.modInput n f).aud m).emit = (s.aud m).emit := by
  by_cases h : m = n
  · subst h; simp
  · rw [State.modInput_other s _ _ _ h]

@[simp] theorem State.modCtx_aud_input (f : ShowCtx → ShowCtx) : ((s.modCtx n f).aud m).input = (s.aud m).input := by
  by_cases h : m = n
  · subst h; simp
  · rw [State.modCtx_other s _ _ _ h]
@[simp] theorem State.modCtx_aud_text (f : ShowCtx → ShowCtx) : ((s.modCtx n f).aud m).text = (s.aud m).text := by
  by_cases h : m = n
  · subst h; simp
  · rw [State.modCtx_other s _ _ _ h]
@[simp] theorem State.modCtx_aud_sound (f : ShowCtx → ShowCtx) : ((s.modCtx n f).aud m).sound = (s.aud m).sound := by
  by_cases h : m = n
  · subst h; simp
  · rw [State.modCtx_other s _ _ _ h]
@[simp] theorem State.modCtx_aud_air (f : ShowCtx → ShowCtx) : ((s.modCtx n f).aud m).air = (s.aud m).air := by
  by_cases h : m = n
  · subst h; simp
  · rw [State.modCtx_other s _ _ _ h]
@[simp] theorem State.modCtx_aud_emit (f : ShowCtx → ShowCtx) : ((s.modCtx n f).aud m).emit = (s.aud m).emit := by
  by_cases h : m = n
  · subst h; simp
  · rw [State.modCtx_other s _ _ _ h]

@[simp] theorem State.modAir_aud_input (f : AirSched → AirSched) : ((s.modAir n f).aud m).input = (s.aud m).input := by
  by_cases h : m = n
  · subst h; simp
  · rw [State.modAir_other s _ _ _ h]
@[simp] theorem State.modAir_aud_ctx (f : AirSched → AirSched) : ((s.modAir n f).aud m).ctx = (s.aud m).ctx := by
  by_cases h : m = n
  · subst h; simp
  · rw [State.modAir_other s _ _ _ h]
@[simp] theorem State.modAir_aud_text (f : AirSched → AirSched) : ((s.modAir n f).aud m).text = (s.aud m).text := by
  by_cases h : m = n
  · subst h; simp
  · rw [State.modAir_other s _ _ _ h]
@[simp] theorem State.modAir_aud_sound (f : AirSched → AirSched) : ((s.modAir n f).aud m).sound = (s.aud m).sound := by
  by_cases h : m = n
  · subst h; simp
  · rw [State.modAir_other s _ _ _ h]
@[simp] theorem State.modAir_aud_emit (f : AirSched → AirSched) : ((s.modAir n f).aud m).emit = (s.aud m).emit := by
  by_cases h : m = n
  · subst h; simp
  · rw [State.modAir_other s _ _ _ h]

@[simp] theorem State.modEmit_aud_input (f : Emitter → Emitter) : ((s.modEmit n f).aud m).input = (s.aud m).input := by
  by_cases h : m = n
  · subst h; simp
  · rw [State.modEmit_other s _ _ _ h]
@[simp] theorem State.modEmit_aud_ctx (f : Emitter → Emitter) : ((s.modEmit n f).aud m).ctx = (s.aud m).ctx := by
  by_cases h : m = n
  · subst h; simp
  · rw [State.modEmit_other s _ _ _ h]
@[simp] theorem State.modEmit_aud_text (f : Emitter → Emitter) : ((s.modEmit n f).aud m).text = (s.aud m).text := by
  by_cases h : m = n
  · subst h; simp
  · rw [State.modEmit_other s _ _ _ h]
@[simp] theorem State.modEmit_aud_sound (f : Emitter → Emitter) : ((s.modEmit n f).aud m).sound = (s.aud m).sound := by
  by_cases h : m = n
  · subst h; simp
  · rw [State.modEmit_other s _ _ _ h]
@[simp] theorem State.modEmit_aud_air (f : Emitter → Emitter) : ((s.modEmit n f).aud m).air = (s.aud m).air := by
  by_cases h : m = n
  · subst h; simp
  · rw [State.modEmit_other s _ _ _ h]

@[simp] theorem State.modEng_aud_input (f : TrackEngine → TrackEngine) : ((s.modEng n t f).aud m).input = (s.aud m).input := by
  by_cases h : m = n
  · subst h; simp
  · rw [State.modEng_other s _ _ _ _ h]
@[simp] theorem State.modEng_aud_ctx (f : TrackEngine → TrackEngine) : ((s.modEng n t f).aud m).ctx = (s.aud m).ctx := by
  by_cases h : m = n
  · subst h; simp
  · rw [State.modEng_other s _ _ _ _ h]
@[simp] theorem State.modEng_aud_sound (f : TrackEngine → TrackEngine) : ((s.modEng n t f).aud m).sound = (s.aud m).sound := by
  by_cases h : m = n
  · subst h; simp
  · rw [State.modEng_other s _ _ _ _ h]
@[simp] theorem State.modEng_aud_air (f : TrackEngine → TrackEngine) : ((s.modEng n t f).aud m).air = (s.aud m).air := by
  by_cases h : m = n
  · subst h; simp
  · rw [State.modEng_other s _ _ _ _ h]
@[simp] theorem State.modEng_aud_emit (f : TrackEngine → TrackEngine) : ((s.modEng n t f).aud m).emit = (s.aud m).emit := by
  by_cases h : m = n
  · subst h; simp
  · rw [State.modEng_other s _ _ _ _ h]

@[simp] theorem State.modPlay_aud_input (f : Playout → Playout) : ((s.modPlay n d f).aud m).input = (s.aud m).input := by
  by_cases h : m = n
  · subst h; simp
  · rw [State.modPlay_other s _ _ _ _ h]
@[simp] theorem State.modPlay_aud_ctx (f : Playout → Playout) : ((s.modPlay n d f).aud m).ctx = (s.aud m).ctx := by
  by_cases h : m = n
  · subst h; simp
  · rw [State.modPlay_other s _ _ _ _ h]
@[simp] theorem State.modPlay_aud_text (f : Playout → Playout) : ((s.modPlay n d f).aud m).text = (s.aud m).text := by
  by_cases h : m = n
  · subst h; simp
  · rw [State.modPlay_other s _ _ _ _ h]
@[simp] theorem State.modPlay_aud_air (f : Playout → Playout) : ((s.modPlay n d f).aud m).air = (s.aud m).air := by
  by_cases h : m = n
  · subst h; simp
  · rw [State.modPlay_other s _ _ _ _ h]
@[simp] theorem State.modPlay_aud_emit (f : Playout → Playout) : ((s.modPlay n d f).aud m).emit = (s.aud m).emit := by
  by_cases h : m = n
  · subst h; simp
  · rw [State.modPlay_other s _ _ _ _ h]

end Sys2Proof.Machine
end

