-- ==== Sys2Proof/Laws/Ops.lean ====
section
/-! SUPPORT. What each shared operation over the flash, the notices, the request queue, a taken command and the emitter lines can do, said once. -/

namespace Sys2Proof.Machine

/-! ## The flash: a read after a write, and the canonical form -/

theorem flashGet_insert_self (a : Nat) (c : PageCell) (fl : List (Nat × PageCell)) :
    flashGet (flashInsert a c fl) a = some c := by
  induction fl with
  | nil => simp [flashInsert, flashGet]
  | cons x xs ih =>
    obtain ⟨b, d⟩ := x
    by_cases h : a = b
    · simp [flashInsert, flashGet, h]
    · by_cases h' : a < b
      · simp [flashInsert, flashGet, h, h']
      · simp [flashInsert, flashGet, h, h', ih]

theorem flashGet_insert_other {a x : Nat} (c : PageCell) (fl : List (Nat × PageCell)) (h : x ≠ a) :
    flashGet (flashInsert a c fl) x = flashGet fl x := by
  induction fl with
  | nil => simp [flashInsert, flashGet, h]
  | cons y ys ih =>
    obtain ⟨b, d⟩ := y
    by_cases h1 : a = b
    · subst h1; simp [flashInsert, flashGet, h]
    · by_cases h2 : a < b
      · simp [flashInsert, flashGet, h1, h2, h]
      · simp [flashInsert, flashGet, h1, h2, ih]

/-- A page written reads back. -/
theorem flashGet_put_self {a : Nat} (c : PageCell) (fl : List (Nat × PageCell)) (h : a < flashPages) :
    flashGet (flashPut a c fl) a = some c := by
  simp [flashPut, h, flashGet_insert_self]

/-- Writing a page leaves every other page as it was. -/
theorem flashGet_put_other {a x : Nat} (c : PageCell) (fl : List (Nat × PageCell)) (h : x ≠ a) :
    flashGet (flashPut a c fl) x = flashGet fl x := by
  unfold flashPut; split
  · exact flashGet_insert_other c fl h
  · rfl

/-- An erase returns every page of its block to erased (R25). -/
theorem flashGet_erase_inside {block x : Nat} (fl : List (Nat × PageCell)) (h : x / Config.pagesPerBlock = block) :
    flashGet (flashErase block fl) x = none := by
  induction fl with
  | nil => rfl
  | cons y ys ih =>
    obtain ⟨b, d⟩ := y
    have ih' : flashGet (ys.filter fun p => decide (p.1 / Config.pagesPerBlock ≠ block)) x = none := ih
    by_cases hb : b / Config.pagesPerBlock = block
    · simpa [flashErase, hb] using ih'
    · have : x ≠ b := fun e => hb (e ▸ h)
      simpa [flashErase, hb, flashGet, this] using ih'

/-- An erase leaves every page of the other blocks as it was. -/
theorem flashGet_erase_outside {block x : Nat} (fl : List (Nat × PageCell)) (h : x / Config.pagesPerBlock ≠ block) :
    flashGet (flashErase block fl) x = flashGet fl x := by
  induction fl with
  | nil => rfl
  | cons y ys ih =>
    obtain ⟨b, d⟩ := y
    have ih' : flashGet (ys.filter fun p => decide (p.1 / Config.pagesPerBlock ≠ block)) x = flashGet ys x := ih
    by_cases hb : b / Config.pagesPerBlock = block
    · have : x ≠ b := fun e => h (e ▸ hb)
      simpa [flashErase, hb, flashGet, this] using ih'
    · by_cases hx : x = b
      · subst hx; simp [flashErase, hb, flashGet]
      · simpa [flashErase, hb, flashGet, hx] using ih'

theorem flashGet_foldPut_outside (block k : Nat) (l : List Nat) :
    ∀ (fl : List (Nat × PageCell)) {x : Nat}, (∀ i ∈ l, x ≠ pageAddr block i) →
      flashGet (l.foldl (fun fl i => flashPut (pageAddr block i) (.torn (k + i)) fl) fl) x = flashGet fl x := by
  induction l with
  | nil => intro fl x _; rfl
  | cons i is ih =>
    intro fl x h
    rw [List.foldl_cons, ih _ (fun j hj => h j (List.mem_cons_of_mem _ hj)), flashGet_put_other _ _ (h i (List.mem_cons_self ..))]

/-- A torn block leaves every page of the other blocks as it was. -/
theorem flashGet_tear_outside {block x : Nat} (k : Nat) (fl : List (Nat × PageCell)) (h : x / Config.pagesPerBlock ≠ block) :
    flashGet (flashTear block k fl) x = flashGet fl x := by
  unfold flashTear
  rw [flashGet_foldPut_outside, flashGet_erase_outside fl h]
  intro i hi hx
  have hi' : i < 64 := by simpa [Config.pagesPerBlock] using hi
  apply h; subst hx
  simp only [pageAddr, Config.pagesPerBlock]; omega

/-- The canonical form in the words of lists. -/
theorem flashWf_iff (fl : List (Nat × PageCell)) :
    flashWf fl = true ↔ fl.Pairwise (fun p q => p.1 < q.1) ∧ ∀ p ∈ fl, p.1 < flashPages := by
  induction fl with
  | nil => simp [flashWf]
  | cons x xs ih =>
    obtain ⟨a, c⟩ := x
    cases xs with
    | nil => simp [flashWf]
    | cons y ys =>
      obtain ⟨b, d⟩ := y
      rw [flashWf]
      simp only [Bool.and_eq_true, decide_eq_true_eq, ih, List.pairwise_cons, List.mem_cons]
      constructor
      · rintro ⟨⟨ha, hab⟩, ⟨hb, hp⟩, hm⟩
        refine ⟨⟨?_, hb, hp⟩, ?_⟩
        · rintro p (rfl | hp')
          · exact hab
          · exact lt_trans hab (hb p hp')
        · rintro p (rfl | hp')
          · exact ha
          · exact hm p hp'
      · rintro ⟨⟨h1, hb, hp⟩, hm⟩
        exact ⟨⟨hm _ (Or.inl rfl), h1 _ (Or.inl rfl)⟩, ⟨hb, hp⟩, fun p hp' => hm p (Or.inr hp')⟩

theorem mem_flashInsert {a : Nat} {c : PageCell} {fl : List (Nat × PageCell)} {p : Nat × PageCell}
    (h : p ∈ flashInsert a c fl) : p = (a, c) ∨ p ∈ fl := by
  induction fl with
  | nil => simpa [flashInsert] using h
  | cons y ys ih =>
    obtain ⟨b, d⟩ := y
    by_cases h1 : a = b
    · subst h1; simp [flashInsert] at h; rcases h with h | h
      · exact Or.inl h
      · exact Or.inr (List.mem_cons_of_mem _ h)
    · by_cases h2 : a < b
      · simp [flashInsert, h1, h2] at h; rcases h with h | h | h
        · exact Or.inl h
        · exact Or.inr (h ▸ List.mem_cons_self ..)
        · exact Or.inr (List.mem_cons_of_mem _ h)
      · simp [flashInsert, h1, h2] at h; rcases h with h | h
        · exact Or.inr (h ▸ List.mem_cons_self ..)
        · rcases ih h with h | h
          · exact Or.inl h
          · exact Or.inr (List.mem_cons_of_mem _ h)

theorem flashInsert_rising {a : Nat} (c : PageCell) {fl : List (Nat × PageCell)} (h : fl.Pairwise (fun p q => p.1 < q.1)) :
    (flashInsert a c fl).Pairwise (fun p q => p.1 < q.1) := by
  induction fl with
  | nil => simp [flashInsert]
  | cons y ys ih =>
    obtain ⟨b, d⟩ := y
    rw [List.pairwise_cons] at h
    by_cases h1 : a = b
    · subst h1; simpa [flashInsert, List.pairwise_cons] using h
    · by_cases h2 : a < b
      · simp only [flashInsert, h1, h2, if_true, if_false, List.pairwise_cons]
        refine ⟨?_, h⟩
        intro p hp
        rcases List.mem_cons.mp hp with rfl | hp
        · exact h2
        · exact lt_trans h2 (h.1 p hp)
      · simp only [flashInsert, h1, h2, if_false, List.pairwise_cons]
        refine ⟨?_, ih h.2⟩
        intro p hp
        rcases mem_flashInsert hp with rfl | hp
        · show b < a; omega
        · exact h.1 p hp

/-- Writing a page keeps the canonical form. -/
theorem flashWf_put (a : Nat) (c : PageCell) {fl : List (Nat × PageCell)} (h : flashWf fl = true) : flashWf (flashPut a c fl) = true := by
  rw [flashWf_iff] at h
  unfold flashPut; split
  · rename_i ha
    rw [flashWf_iff]
    refine ⟨flashInsert_rising c h.1, fun p hp => ?_⟩
    rcases mem_flashInsert hp with rfl | hp
    · exact ha
    · exact h.2 p hp
  · exact (flashWf_iff fl).mpr h

/-- Erasing a block keeps the canonical form. -/
theorem flashWf_erase (block : Nat) {fl : List (Nat × PageCell)} (h : flashWf fl = true) : flashWf (flashErase block fl) = true := by
  rw [flashWf_iff] at h ⊢
  exact ⟨h.1.filter _, fun p hp => h.2 p (List.mem_filter.mp hp).1⟩

/-- Tearing a block keeps the canonical form. -/
theorem flashWf_tear (block k : Nat) {fl : List (Nat × PageCell)} (h : flashWf fl = true) : flashWf (flashTear block k fl) = true := by
  have key : ∀ (l : List Nat) (fl : List (Nat × PageCell)), flashWf fl = true →
      flashWf (l.foldl (fun fl i => flashPut (pageAddr block i) (.torn (k + i)) fl) fl) = true := by
    intro l
    induction l with
    | nil => intro fl h; exact h
    | cons i is ih => intro fl h; exact ih _ (flashWf_put _ _ h)
  exact key _ _ (flashWf_erase block h)

/-! ## Tags after a program (R26, R39, R40) -/

/-- The tag of a page programmed without failure reads as it was written, or unreadable where its check value does not match. -/
theorem readTag_programmed (fl : List (Nat × PageCell)) (a : Nat) (damaged : Bool) (tag : PageTag) (body : PageBody)
    (h : flashGet fl a = some (.programmed tag body)) : readTag fl a damaged = if damaged then .unreadable else .readable tag := by
  simp [readTag, h]

/-- The tag of a page that a failed RETIRE program left is unreadable (R40). -/
theorem readTag_unrecognised (fl : List (Nat × PageCell)) (a k : Nat) (damaged : Bool) (h : flashGet fl a = some (.unrecognised k)) :
    readTag fl a damaged = .unreadable := by
  simp [readTag, h]

/-- A failed program of a RETIRE tag leaves its page unrecognised, and any other leaves it torn. -/
theorem failedCell_cases (img : Option PageImage) (k : Nat) :
    ((∃ i, img = some i ∧ i.tag.role = .retire) ∧ failedCell img k = .unrecognised k)
      ∨ ((∀ i, img = some i → i.tag.role ≠ .retire) ∧ failedCell img k = .torn k) := by
  cases img with
  | none => exact .inr ⟨fun _ h => (nomatch h), rfl⟩
  | some i =>
    by_cases h : i.tag.role = .retire
    · exact .inl ⟨⟨i, rfl, h⟩, by simp [failedCell, h]⟩
    · exact .inr ⟨fun j hj => by cases hj; exact h, by simp [failedCell, h]⟩

/-- A program's completion keeps the canonical form. -/
theorem programmed_flashOk (s : State) (b p : Nat) (ok : Bool) (h : s.FlashOk) : (s.programmed b p ok).FlashOk := by
  unfold State.programmed State.FlashOk; simp only
  split
  · exact flashWf_put _ _ h
  · exact flashWf_put _ _ h

/-- An erase's completion keeps the canonical form. -/
theorem erased_flashOk (s : State) (b : Nat) (ok : Bool) (h : s.FlashOk) : (s.erased b ok).FlashOk := by
  unfold State.erased State.FlashOk; simp only
  split
  · exact flashWf_erase _ h
  · exact flashWf_tear _ _ h

/-- A reset's cut of the operation in flight keeps the canonical form. -/
theorem cutOff_flashOk (s : State) (h : s.FlashOk) : s.cutOff.FlashOk := by
  unfold State.cutOff
  split
  · split
    · exact flashWf_put _ _ h
    · exact flashWf_tear _ _ h
    · exact h
  · exact h

/-- The blank flash of State.reset has the canonical form. -/
theorem reset_flashOk : State.reset.FlashOk := rfl

/-! ## The notices (R166) -/

theorem mem_addNotice {src : Source} {k : NoticeKind} {x : List Byte} {ns : List Notice} {y : Notice}
    (h : y ∈ addNotice src k x ns) : y.rank = noticeRank src k ∨ y ∈ ns := by
  induction ns with
  | nil => simp [addNotice] at h; subst h; exact Or.inl rfl
  | cons z zs ih =>
    by_cases h1 : noticeRank src k = z.rank
    · simp only [addNotice, h1, if_true] at h
      rcases List.mem_cons.mp h with rfl | h
      · exact Or.inl h1.symm
      · exact Or.inr (List.mem_cons_of_mem _ h)
    · by_cases h2 : noticeRank src k < z.rank
      · simp only [addNotice, h1, h2, if_true, if_false] at h
        rcases List.mem_cons.mp h with rfl | h
        · exact Or.inl rfl
        · exact Or.inr h
      · simp only [addNotice, h1, h2, if_false] at h
        rcases List.mem_cons.mp h with rfl | h
        · exact Or.inr (List.mem_cons_self ..)
        · rcases ih h with h | h
          · exact Or.inl h
          · exact Or.inr (List.mem_cons_of_mem _ h)

/-- A raised notice keeps the taking order. -/
theorem addNotice_rising (src : Source) (k : NoticeKind) (x : List Byte) {ns : List Notice}
    (h : ns.Pairwise (fun a b => a.rank < b.rank)) : (addNotice src k x ns).Pairwise (fun a b => a.rank < b.rank) := by
  induction ns with
  | nil => simp [addNotice]
  | cons z zs ih =>
    rw [List.pairwise_cons] at h
    by_cases h1 : noticeRank src k = z.rank
    · simp only [addNotice, h1, if_true, List.pairwise_cons]
      exact ⟨fun y hy => h.1 y hy, h.2⟩
    · by_cases h2 : noticeRank src k < z.rank
      · simp only [addNotice, h1, h2, if_true, if_false, List.pairwise_cons]
        refine ⟨fun y hy => ?_, h⟩
        rcases List.mem_cons.mp hy with rfl | hy
        · exact h2
        · exact lt_trans h2 (h.1 y hy)
      · simp only [addNotice, h1, h2, if_false, List.pairwise_cons]
        refine ⟨fun y hy => ?_, ih h.2⟩
        rcases mem_addNotice hy with hy | hy
        · rw [hy]; omega
        · exact h.1 y hy

/-- A raised notice keeps the counts within 1 to 255. -/
theorem addNotice_counts (src : Source) (k : NoticeKind) (x : List Byte) {ns : List Notice}
    (h : ∀ y ∈ ns, 1 ≤ y.count ∧ y.count ≤ 255) : ∀ y ∈ addNotice src k x ns, 1 ≤ y.count ∧ y.count ≤ 255 := by
  induction ns with
  | nil => simp [addNotice]
  | cons z zs ih =>
    have hz := h z (List.mem_cons_self ..)
    have hs : ∀ y ∈ zs, 1 ≤ y.count ∧ y.count ≤ 255 := fun y hy => h y (List.mem_cons_of_mem _ hy)
    intro y hy
    by_cases h1 : noticeRank src k = z.rank
    · simp only [addNotice, h1, if_true] at hy
      rcases List.mem_cons.mp hy with rfl | hy
      · simp only [satAdd]; omega
      · exact hs y hy
    · by_cases h2 : noticeRank src k < z.rank
      · simp only [addNotice, h1, h2, if_true, if_false] at hy
        rcases List.mem_cons.mp hy with rfl | hy
        · simp
        · exact h y hy
      · simp only [addNotice, h1, h2, if_false] at hy
        rcases List.mem_cons.mp hy with rfl | hy
        · exact hz
        · exact ih hs y hy

/-- Raising a notice keeps the laws of the pending-notice set. -/
theorem raise_noticesOk (s : State) (src : Source) (k : NoticeKind) (x : List Byte) (h : s.NoticesOk) : (s.raise src k x).NoticesOk :=
  ⟨addNotice_rising src k x h.1, addNotice_counts src k x h.2.1, rfl⟩

/-! ## The request queue (R30 to R32) -/

theorem withdraw_queueOk (s : State) (w : Requester) (h : s.QueueOk) : (s.withdraw w).QueueOk :=
  ⟨h.1.filter _, fun hf => by simp [State.withdraw, h.2 hf]⟩

theorem start_queue (s : State) (r : Request) : (s.start r).queue = s.queue := by
  unfold State.start; split <;> rfl

theorem start_flight (s : State) (r : Request) : (s.start r).flight = some { req := r, addr := s.resolve r.op } := by
  unfold State.start; split <;> rfl

/-- A request starts on an idle engine, or joins the queue behind the others in place of its requester's own (R31, R32). -/
theorem request_queueOk (s : State) (r : Request) (h : s.QueueOk) : (s.request r).QueueOk := by
  have hw := withdraw_queueOk s r.who h
  unfold State.request
  simp only
  split
  · rename_i hf
    refine ⟨by rw [start_queue]; exact hw.1, fun hn => ?_⟩
    rw [start_flight] at hn; exact absurd hn (by simp)
  · rename_i f hf
    refine ⟨?_, fun hn => ?_⟩
    · simp only [List.pairwise_append, List.pairwise_cons, List.mem_singleton]
      refine ⟨hw.1, ⟨by simp, List.Pairwise.nil⟩, ?_⟩
      rintro a ha b rfl
      simpa using (List.mem_filter.mp ha).2
    · simp only at hn; rw [hf] at hn; exact absurd hn (by simp)

theorem bestRequest_none {q : List Request} (h : bestRequest q = none) : q = [] := by
  cases q with
  | nil => rfl
  | cons r rs => simp only [bestRequest] at h; split at h <;> (try split at h) <;> simp at h

/-- A completion hands over to the highest-ranked waiting request, or leaves the engine idle with nothing waiting (R31). -/
theorem startNext_queueOk (s : State) (h : s.queue.Pairwise (fun a b => a.who ≠ b.who)) : s.startNext.QueueOk := by
  unfold State.startNext
  simp only
  split
  · refine ⟨by rw [start_queue]; exact h.filter _, fun hn => ?_⟩
    rw [start_flight] at hn; exact absurd hn (by simp)
  · rename_i hb
    exact ⟨h, fun _ => bestRequest_none hb⟩

/-! ## The steps of a host operation -/

/-- The rest of the state is kept where a request is made: it joins the queue, or is in flight. -/
theorem request_keeps (s : State) (r : Request) :
    (s.request r).slot = s.slot ∧ (s.request r).load = s.load ∧ (s.request r).packages = s.packages ∧ (s.request r).pageReg = s.pageReg
      ∧ (s.request r).notices = s.notices ∧ (s.request r).blocks = s.blocks ∧ (s.request r).flash = s.flash
      ∧ (s.request r).swi = s.swi := by
  simp only [State.request]
  split
  · simp only [State.start]
    split <;> exact ⟨rfl, rfl, rfl, rfl, rfl, rfl, rfl, rfl⟩
  · exact ⟨rfl, rfl, rfl, rfl, rfl, rfl, rfl, rfl⟩

/-- A program or an erase step changes the slot's wait alone, or is requested (R41). -/
theorem hostWrite_keeps (s : State) (op : StoreOp) :
    (s.hostWrite op).load = s.load ∧ (s.hostWrite op).packages = s.packages ∧ (s.hostWrite op).pageReg = s.pageReg
      ∧ (s.hostWrite op).notices = s.notices ∧ (s.hostWrite op).blocks = s.blocks ∧ (s.hostWrite op).flash = s.flash
      ∧ (s.hostWrite op).swi = s.swi := by
  unfold State.hostWrite
  split
  · exact ⟨rfl, rfl, rfl, rfl, rfl, rfl, rfl⟩
  · exact (request_keeps s _).2

/-- A step of a seal leaves the load in progress, the directory, the notices, the block records and the flash as they are (R15). -/
theorem sealStep_keeps (s : State) (id step : Nat) (l : Load) :
    (s.sealStep id step l).load = s.load ∧ (s.sealStep id step l).packages = s.packages ∧ (s.sealStep id step l).notices = s.notices
      ∧ (s.sealStep id step l).blocks = s.blocks ∧ (s.sealStep id step l).flash = s.flash := by
  unfold State.sealStep
  split
  · split
    · obtain ⟨h1, h2, -, h4, h5, h6, -⟩ := hostWrite_keeps { s.setOp (.sealing id step l) with pageReg := _ } (.program _ _)
      exact ⟨h1, h2, h4, h5, h6⟩
    · exact ⟨rfl, rfl, rfl, rfl, rfl⟩
  · exact ⟨rfl, rfl, rfl, rfl, rfl⟩

/-! ## The search of an index page -/

/-- The last element that meets a test stands before elements that do not. -/
theorem getLast?_filter_split {α : Type} (p : α → Bool) (front rear : List α) (x : α) (hx : p x = true) (hr : ∀ y ∈ rear, p y = false) :
    ((front ++ x :: rear).filter p).getLast? = some x := by
  have : rear.filter p = [] := List.filter_eq_nil_iff.mpr fun y hy => by simp [hr y hy]
  simp [List.filter_append, hx, this]

/-- The search finds the last entry of the page that does not exceed the cue, or keeps the one before (R19, R36). -/
theorem searchIndex_foundOn (p : Package) (t : TextTrack) (cue ordinal : Nat) (before : Option IndexEntry) (bs : List Byte) :
    FoundOn (indexEntries (entriesOnPage (p.pageCounts.get t) ordinal) bs) cue before (searchIndex p t cue ordinal before bs).1 := by
  refine ⟨fun front en rear h hc hr => ?_, fun h => ?_⟩
  · have k : lastEntryFor (indexEntries (entriesOnPage (p.pageCounts.get t) ordinal) bs) cue = some en := by
      rw [h]
      exact getLast?_filter_split _ front rear en (by simpa using hc) fun y hy => by simpa using hr y hy
    simp [searchIndex, k]
  · have k : lastEntryFor (indexEntries (entriesOnPage (p.pageCounts.get t) ordinal) bs) cue = none := by
      have : (indexEntries (entriesOnPage (p.pageCounts.get t) ordinal) bs).filter (fun e => decide (e.firstCue ≤ cue)) = [] :=
        List.filter_eq_nil_iff.mpr fun x hx => by simpa using h x hx
      simp [lastEntryFor, this]
    simp [searchIndex, k]

/-! ## The taking of a command (R162, R163) -/

/-- A reply is owed: LINK_BUSY, and nothing else (R162 b). -/
theorem take_owed (s : State) (kind tag : Byte) (st : Bool) (act : Option (State → Done)) (h : s.replyBuf.owed = true) :
    s.take kind tag st act = s.taken.refuse { kind := replyKind kind, tag := tag, code := .linkBusy, vals := [] } := by
  unfold State.take State.taken; simp [h]

/-- The phase is STARTING: the reply STARTING, and nothing else (R162 d). -/
theorem take_starting (s : State) (kind tag : Byte) (act : Option (State → Done)) (h : s.replyBuf.owed = false)
    (hp : s.phase = .starting) : s.take kind tag false act = s.taken.replied kind tag .starting [] := by
  unfold State.take State.taken; simp [h, hp, State.answer, refused, refusal, State.replied]

/-- A body of a length the kind does not allow: the reply RANGE, and nothing else (R162 e). -/
theorem take_badLength (s : State) (kind tag : Byte) (st : Bool) (h : s.Accepts) :
    s.take kind tag st none = s.taken.replied kind tag .range [] := by
  unfold State.take State.taken; simp [h.1, h.2, ReplyBuf.owed, State.answer, refused, refusal, State.replied]

/-- Otherwise the command's owner acts, and its answer becomes the reply (R162 f, R163). -/
theorem take_runs (s : State) (kind tag : Byte) (st : Bool) (act : State → Done) (h : s.Accepts) :
    s.take kind tag st (some act) = State.answer kind tag (act s.taken) := by
  unfold State.take State.taken; simp [h.1, h.2, ReplyBuf.owed]

/-- A command that both phases take (R164). -/
theorem take_runs_always (s : State) (kind tag : Byte) (act : State → Done) (h : s.replyBuf = .empty) :
    s.take kind tag true (some act) = State.answer kind tag (act s.taken) := by
  unfold State.take State.taken; simp [h, ReplyBuf.owed]

/-- An answer at once becomes the reply. -/
@[simp] theorem answer_done (kind tag : Byte) (s : State) (c : Code) (vals : List Byte) :
    State.answer kind tag (done s c vals) = s.replied kind tag c vals := rfl

/-- A refusal becomes the reply, and the state is the one the command met. -/
@[simp] theorem answer_refused (kind tag : Byte) (s : State) (c : Code) :
    State.answer kind tag (refused s c) = s.replied kind tag c [] := rfl

/-! ## The emitter lines -/

/-- The levels of the lines while a frame is sent follow from the transmission alone (R150, R151). -/
theorem Emitter.lines_sending {u : Emitter} {t : Transmission} (h : u.tx = some t) :
    u.inForce = t.lines ∧ u.lineA = lineLevel (t.lines.modeA.drive t.signal) t.lines.pullA
      ∧ (t.lines.pairing = .independent → u.lineB = lineLevel .released t.lines.pullB)
      ∧ (t.lines.pairing = .tracking → u.lineB = lineLevel (t.lines.modeB.drive t.signal) t.lines.pullB)
      ∧ (t.lines.pairing = .antivalent → u.lineB = lineLevel (t.lines.modeB.drive (!t.signal)) t.lines.pullB) := by
  unfold Emitter.lineA Emitter.lineB Emitter.inForce Emitter.driveA Emitter.driveB
  rw [h]
  exact ⟨rfl, rfl, fun k => by simp only [k], fun k => by simp only [k], fun k => by simp only [k]⟩

/-- At every other moment both lines are released to the rest pulls of the active settings (R150). -/
theorem Emitter.lines_resting {u : Emitter} (h : u.tx = none) :
    u.lineA = lineLevel .released u.current.pullA ∧ u.lineB = lineLevel .released u.current.pullB := by
  unfold Emitter.lineA Emitter.lineB Emitter.inForce Emitter.driveA Emitter.driveB
  rw [h]
  exact ⟨rfl, rfl⟩

end Sys2Proof.Machine
end

