-- ==== Sys2Proof/Laws/Auditorium.lean ====
section
/-! SUPPORT. How far an operation of one auditorium reaches: the shared operations of the event list, the track engines and the show
timeline change that auditorium, the notices and the store's requests, and nothing else. -/

namespace Sys2Proof.Machine

/-- `t` differs from `s` at most in auditorium `n`, the notices with the attention line, and the store engine's requests. -/
structure OnlyAud (n : Aud) (s t : State) : Prop where
  linkSel : t.linkSel = s.linkSel
  phase : t.phase = s.phase
  framer : t.framer = s.framer
  replyBuf : t.replyBuf = s.replyBuf
  refusal : t.refusal = s.refusal
  uartTx : t.uartTx = s.uartTx
  linkOut : t.linkOut = s.linkOut
  threshold : t.threshold = s.threshold
  announces : t.announces = s.announces
  packages : t.packages = s.packages
  serialHigh : t.serialHigh = s.serialHigh
  load : t.load = s.load
  slot : t.slot = s.slot
  flash : t.flash = s.flash
  blocks : t.blocks = s.blocks
  pageReg : t.pageReg = s.pageReg
  scan : t.scan = s.scan
  swi : t.swi = s.swi
  shold : t.shold = s.shold
  free : t.free = s.free
  pending : t.pending = s.pending
  auds : ∀ m, m ≠ n → t.aud m = s.aud m

theorem OnlyAud.refl (n : Aud) (s : State) : OnlyAud n s s := by
  constructor <;> first | rfl | exact fun _ _ => rfl

theorem OnlyAud.trans {n : Aud} {s t u : State} (h : OnlyAud n s t) (k : OnlyAud n t u) : OnlyAud n s u where
  linkSel := k.linkSel.trans h.linkSel
  phase := k.phase.trans h.phase
  framer := k.framer.trans h.framer
  replyBuf := k.replyBuf.trans h.replyBuf
  refusal := k.refusal.trans h.refusal
  uartTx := k.uartTx.trans h.uartTx
  linkOut := k.linkOut.trans h.linkOut
  threshold := k.threshold.trans h.threshold
  announces := k.announces.trans h.announces
  packages := k.packages.trans h.packages
  serialHigh := k.serialHigh.trans h.serialHigh
  load := k.load.trans h.load
  slot := k.slot.trans h.slot
  flash := k.flash.trans h.flash
  blocks := k.blocks.trans h.blocks
  pageReg := k.pageReg.trans h.pageReg
  scan := k.scan.trans h.scan
  swi := k.swi.trans h.swi
  shold := k.shold.trans h.shold
  free := k.free.trans h.free
  pending := k.pending.trans h.pending
  auds := fun m hm => (k.auds m hm).trans (h.auds m hm)

/-! ## The updates -/

theorem modAud_only (s : State) (n : Aud) (f : Auditorium → Auditorium) : OnlyAud n s (s.modAud n f) := by
  constructor <;> first | rfl | exact fun m hm => s.modAud_other n m f hm

theorem modInput_only (s : State) (n : Aud) (f : InputUnit → InputUnit) : OnlyAud n s (s.modInput n f) := modAud_only s n _
theorem modCtx_only (s : State) (n : Aud) (f : ShowCtx → ShowCtx) : OnlyAud n s (s.modCtx n f) := modAud_only s n _
theorem modAir_only (s : State) (n : Aud) (f : AirSched → AirSched) : OnlyAud n s (s.modAir n f) := modAud_only s n _
theorem modEmit_only (s : State) (n : Aud) (f : Emitter → Emitter) : OnlyAud n s (s.modEmit n f) := modAud_only s n _
theorem modEng_only (s : State) (n : Aud) (t : TextTrack) (f : TrackEngine → TrackEngine) : OnlyAud n s (s.modEng n t f) :=
  modAud_only s n _
theorem modPlay_only (s : State) (n : Aud) (t : SoundTrack) (f : Playout → Playout) : OnlyAud n s (s.modPlay n t f) :=
  modAud_only s n _

theorem raise_only (n : Aud) (s : State) (src : Source) (k : NoticeKind) (x : List Byte) : OnlyAud n s (s.raise src k x) := by
  constructor <;> first | rfl | exact fun _ _ => rfl

theorem withdraw_only (n : Aud) (s : State) (w : Requester) : OnlyAud n s (s.withdraw w) := by
  constructor <;> first | rfl | exact fun _ _ => rfl

theorem flight_only (n : Aud) (s : State) (f : Option Flight) : OnlyAud n s { s with flight := f } := by
  constructor <;> first | rfl | exact fun _ _ => rfl

theorem queue_only (n : Aud) (s : State) (q : List Request) : OnlyAud n s { s with queue := q } := by
  constructor <;> first | rfl | exact fun _ _ => rfl

/-- Starting a request changes, outside the engine and the queue, only the outstanding read of its own track engine. -/
theorem start_only {n : Aud} (s : State) (r : Request) (h : ∀ m t, r.who = .engine m t → m = n) : OnlyAud n s (s.start r) := by
  unfold State.start
  split
  · rename_i m t hw
    rw [h m t hw]
    exact (flight_only n s _).trans (modEng_only _ _ _ _)
  · exact flight_only n s _

theorem request_only {n : Aud} (s : State) (r : Request) (h : ∀ m t, r.who = .engine m t → m = n) : OnlyAud n s (s.request r) := by
  unfold State.request
  simp only
  split
  · exact (withdraw_only n s _).trans (start_only _ _ h)
  · exact (withdraw_only n s _).trans (queue_only n _ _)

/-! ## Folds over the tracks -/

theorem foldl_only {α : Type} {n : Aud} (f : State → α → State) (hf : ∀ s a, OnlyAud n s (f s a)) (l : List α) :
    ∀ s, OnlyAud n s (l.foldl f s) := by
  induction l with
  | nil => exact fun s => .refl n s
  | cons a as ih => exact fun s => (hf s a).trans (ih _)

/-! ## The pending event list -/

theorem overflow_only (s : State) (n : Aud) : OnlyAud n s (s.overflow n) := by
  unfold State.overflow
  exact modAir_only s n _

/-- A submission changes the pending list and the overflow count of its auditorium only (R135, R137). -/
theorem submit_only (s : State) (n : Aud) (e : Event) : OnlyAud n s (s.submit n e) := by
  unfold State.submit
  split
  · exact modAir_only s n _
  · exact overflow_only s n

theorem submitRestore_only (n : Aud) (es : List Event) : ∀ s : State, OnlyAud n s (s.submitRestore n es) := by
  induction es with
  | nil => exact fun s => .refl n s
  | cons e es ih =>
    intro s
    unfold State.submitRestore
    split
    · exact (modAir_only s n _).trans (ih _)
    · exact overflow_only s n

theorem restoreAll_only (s : State) (n : Aud) : OnlyAud n s (s.restoreAll n) := by
  unfold State.restoreAll
  exact submitRestore_only n _ s

theorem restoreTrack_only (s : State) (n : Aud) (t : TextTrack) : OnlyAud n s (s.restoreTrack n t) := by
  unfold State.restoreTrack
  split
  · exact .refl n s
  · exact submitRestore_only n _ s

theorem endAnnouncement_only (s : State) (n : Aud) : OnlyAud n s (s.endAnnouncement n) := by
  unfold State.endAnnouncement
  exact (modAir_only s n _).trans (submit_only _ n _)

/-! ## The track engines -/

theorem engineRead_only (s : State) (n : Aud) (t : TextTrack) (k : ReadKind) (l need : Nat) :
    OnlyAud n s (s.engineRead n t k l need) := by
  unfold State.engineRead
  exact (modEng_only s n t _).trans (request_only _ _ (fun m u h => by simp only [Requester.engine.injEq] at h; exact h.1.symm))

theorem fetchTest_only (s : State) (n : Aud) (t : TextTrack) : OnlyAud n s (s.fetchTest n t) := by
  unfold State.fetchTest
  simp only
  split
  · split
    · exact engineRead_only s n t _ _ _
    · exact .refl n s
  · exact .refl n s

theorem dropWaiting_only (s : State) (n : Aud) (t : TextTrack) : OnlyAud n s (s.dropWaiting n t) := by
  unfold State.dropWaiting
  split
  · exact (withdraw_only n s _).trans (modEng_only _ n t _)
  · exact .refl n s

theorem missCues_only (s : State) (n : Aud) (t : TextTrack) (a b c : Nat) : OnlyAud n s (s.missCues n t a b c) := by
  unfold State.missCues
  exact (modEng_only s n t _).trans (raise_only n _ _ _ _)

theorem completeSeek_only (s : State) (n : Aud) (t : TextTrack) : OnlyAud n s (s.completeSeek n t) := by
  unfold State.completeSeek
  exact ((modEng_only s n t _).trans (restoreTrack_only _ n t)).trans (fetchTest_only _ n t)

theorem seekRead_only (s : State) (n : Aud) (t : TextTrack) : OnlyAud n s (s.seekRead n t) := by
  unfold State.seekRead
  simp only
  split
  · exact engineRead_only s n t _ _ _
  · exact .refl n s

theorem startSeek_only (s : State) (n : Aud) (t : TextTrack) (q : Nat) : OnlyAud n s (s.startSeek n t q) := by
  unfold State.startSeek
  simp only
  split
  · exact (((modEng_only s n t _).trans (dropWaiting_only _ n t)).trans (modEng_only _ n t _)).trans (completeSeek_only _ n t)
  · split
    · exact modEng_only s n t _
    · exact (modEng_only s n t _).trans (seekRead_only _ n t)

theorem textWait_only (s : State) (n : Aud) (t : TextTrack) : OnlyAud n s (s.textWait n t) := by
  unfold State.textWait
  exact ((dropWaiting_only s n t).trans (modEng_only _ n t _)).trans (submit_only _ n _)

theorem textFinish_only (s : State) (n : Aud) (t : TextTrack) : OnlyAud n s (s.textFinish n t) := by
  unfold State.textFinish
  exact ((dropWaiting_only s n t).trans (modEng_only _ n t _)).trans (submit_only _ n _)

theorem textOff_only (s : State) (n : Aud) (t : TextTrack) : OnlyAud n s (s.textOff n t) := by
  unfold State.textOff
  exact (((dropWaiting_only s n t).trans (modEng_only _ n t _)).trans (submit_only _ n _)).trans (modEng_only _ n t _)

theorem textUnbind_only (s : State) (n : Aud) (t : TextTrack) : OnlyAud n s (s.textUnbind n t) := by
  unfold State.textUnbind
  exact (textOff_only s n t).trans (modEng_only _ n t _)

theorem textSeek_only (p : Nat) (s : State) (n : Aud) (t : TextTrack) : OnlyAud n s (State.textSeek p s n t) := by
  unfold State.textSeek
  exact startSeek_only s n t _

/-- A signal to the text tracks reaches its own auditorium only (R86). -/
theorem textSignal_only (s : State) (n : Aud) (f : State → Aud → TextTrack → State) (hf : ∀ s t, OnlyAud n s (f s n t)) :
    OnlyAud n s (s.textSignal n f) := by
  unfold State.textSignal
  refine foldl_only _ (fun s t => ?_) _ s
  split
  · exact hf s t
  · exact .refl n s

/-- A signal to the sound tracks reaches its own auditorium only (R86). -/
theorem soundSignal_only (s : State) (n : Aud) (f : Playout → Playout) : OnlyAud n s (s.soundSignal n f) := by
  unfold State.soundSignal
  exact foldl_only _ (fun s t => modPlay_only s n t f) _ s

/-! ## The show timeline -/

theorem finish_only (s : State) (n : Aud) : OnlyAud n s (s.finish n) := by
  unfold State.finish
  exact (((modCtx_only s n _).trans (raise_only n _ _ _ _)).trans (textSignal_only _ n _ (fun s t => textFinish_only s n t))).trans
    (soundSignal_only _ n _)

theorem finishTest_only (s : State) (n : Aud) : OnlyAud n s (s.finishTest n) := by
  unfold State.finishTest
  split
  · exact finish_only s n
  · exact .refl n s

theorem gainLock_only (s : State) (n : Aud) : OnlyAud n s (s.gainLock n) := by
  unfold State.gainLock
  split
  · exact finish_only s n
  · exact (((modCtx_only s n _).trans (raise_only n _ _ _ _)).trans
      (textSignal_only _ n _ (fun s t => textSeek_only _ s n t))).trans (soundSignal_only _ n _)

theorem hold_only (s : State) (n : Aud) : OnlyAud n s (s.hold n) := by
  unfold State.hold
  simp only
  split
  · exact (finish_only s n).trans (modInput_only _ n _)
  · exact ((((modCtx_only s n _).trans (modInput_only _ n _)).trans (raise_only n _ _ _ _)).trans
      (textSignal_only _ n _ (fun s t => textWait_only s n t))).trans (soundSignal_only _ n _)

theorem adopt_only (s : State) (n : Aud) : OnlyAud n s (s.adopt n) := by
  unfold State.adopt
  exact modAud_only s n _

end Sys2Proof.Machine
end

