-- ==== Sys2Proof/Laws/PerInstr.lean ====
section
/-! SUPPORT. One fact about each command and event as syntax: a well-formed step that a complete frame delivers is the step that the kind, the tag
and the body of its frame name (R171). -/

namespace Sys2Proof.Laws.Round

/-- The frame of a well-formed step names that step. -/
def Statement (i : Instr) : Prop :=
  i.wellFormed = true → ∀ p, i.frameParts = some p → Instr.ofKind p.1 p.2.1 p.2.2 = i

theorem powerOnReset (linksel : Bool) : Statement (.powerOnReset linksel) := fun _ _ hp => by cases hp

theorem lineReset (linksel : Bool) : Statement (.lineReset linksel) := fun _ _ hp => by cases hp

theorem partReset (tag : Byte) (body : List Byte) : Statement (.partReset tag body) := fun _ _ hp => by cases hp; rfl

theorem partInfo (tag : Byte) (body : List Byte) : Statement (.partInfo tag body) := fun _ _ hp => by cases hp; rfl

theorem linkStatus (tag : Byte) (body : List Byte) : Statement (.linkStatus tag body) := fun _ _ hp => by cases hp; rfl

theorem takeNotices (tag : Byte) (body : List Byte) : Statement (.takeNotices tag body) := fun _ _ hp => by cases hp; rfl

theorem noticeSet (tag : Byte) (body : List Byte) : Statement (.noticeSet tag body) := fun _ _ hp => by cases hp; rfl

theorem packageOpen (tag : Byte) (body : List Byte) : Statement (.packageOpen tag body) := fun _ _ hp => by cases hp; rfl

theorem cueAppend (tag : Byte) (body : List Byte) : Statement (.cueAppend tag body) := fun _ _ hp => by cases hp; rfl

theorem packageSeal (tag : Byte) (body : List Byte) : Statement (.packageSeal tag body) := fun _ _ hp => by cases hp; rfl

theorem packageDelete (tag : Byte) (body : List Byte) : Statement (.packageDelete tag body) := fun _ _ hp => by cases hp; rfl

theorem packageProtect (tag : Byte) (body : List Byte) : Statement (.packageProtect tag body) := fun _ _ hp => by cases hp; rfl

theorem packageInfo (tag : Byte) (body : List Byte) : Statement (.packageInfo tag body) := fun _ _ hp => by cases hp; rfl

theorem packageList (tag : Byte) (body : List Byte) : Statement (.packageList tag body) := fun _ _ hp => by cases hp; rfl

theorem cueAmend (tag : Byte) (body : List Byte) : Statement (.cueAmend tag body) := fun _ _ hp => by cases hp; rfl

theorem cueRead (tag : Byte) (body : List Byte) : Statement (.cueRead tag body) := fun _ _ hp => by cases hp; rfl

theorem storeInfo (tag : Byte) (body : List Byte) : Statement (.storeInfo tag body) := fun _ _ hp => by cases hp; rfl

theorem storeReclaim (tag : Byte) (body : List Byte) : Statement (.storeReclaim tag body) := fun _ _ hp => by cases hp; rfl

theorem gateSet (tag : Byte) (body : List Byte) : Statement (.gateSet tag body) := fun _ _ hp => by cases hp; rfl

theorem timingSet (tag : Byte) (body : List Byte) : Statement (.timingSet tag body) := fun _ _ hp => by cases hp; rfl

theorem showBind (tag : Byte) (body : List Byte) : Statement (.showBind tag body) := fun _ _ hp => by cases hp; rfl

theorem showUnbind (tag : Byte) (body : List Byte) : Statement (.showUnbind tag body) := fun _ _ hp => by cases hp; rfl

theorem showStart (tag : Byte) (body : List Byte) : Statement (.showStart tag body) := fun _ _ hp => by cases hp; rfl

theorem positionReport (tag : Byte) (body : List Byte) : Statement (.positionReport tag body) := fun _ _ hp => by cases hp; rfl

theorem trackSet (tag : Byte) (body : List Byte) : Statement (.trackSet tag body) := fun _ _ hp => by cases hp; rfl

theorem showStatus (tag : Byte) (body : List Byte) : Statement (.showStatus tag body) := fun _ _ hp => by cases hp; rfl

theorem soundBlock (tag : Byte) (body : List Byte) : Statement (.soundBlock tag body) := fun _ _ hp => by cases hp; rfl

theorem soundFlush (tag : Byte) (body : List Byte) : Statement (.soundFlush tag body) := fun _ _ hp => by cases hp; rfl

theorem airSet (tag : Byte) (body : List Byte) : Statement (.airSet tag body) := fun _ _ hp => by cases hp; rfl

theorem announce (tag : Byte) (body : List Byte) : Statement (.announce tag body) := fun _ _ hp => by cases hp; rfl

theorem announceCancel (tag : Byte) (body : List Byte) : Statement (.announceCancel tag body) := fun _ _ hp => by cases hp; rfl

theorem emitterSet (tag : Byte) (body : List Byte) : Statement (.emitterSet tag body) := fun _ _ hp => by cases hp; rfl

theorem frameError : Statement .frameError := fun _ _ hp => by cases hp

theorem unknownKind (kind tag : Byte) : Statement (.unknownKind kind tag) := by
  intro h p hp
  obtain rfl : (kind, tag, []) = p := by simpa [Instr.frameParts] using hp
  have hk : (!catalogue.contains kind.toNat) = true := by
    simpa [Instr.wellFormed, Instr.bodyOk, Instr.frameParts, Instr.kindOk] using h
  have hall : ∀ k : Byte, (!catalogue.contains k.toNat) = true → Instr.ofKind k tag [] = .unknownKind k tag := by
    intro k hk
    unfold Instr.ofKind
    split <;> first | rfl | (rename_i e; simp [e, catalogue] at hk)
  exact hall kind hk

theorem collectReply (n : Nat) : Statement (.collectReply n) := fun _ _ hp => by cases hp

theorem readLinkStatus (code : Byte) (sent : List Byte) : Statement (.readLinkStatus code sent) := fun _ _ hp => by cases hp

theorem uartFrameTimeout : Statement .uartFrameTimeout := fun _ _ hp => by cases hp

theorem replySent : Statement .replySent := fun _ _ hp => by cases hp

theorem fetchReadDone (errs : Nat) : Statement (.fetchReadDone errs) := fun _ _ hp => by cases hp

theorem seekReadDone (errs : Nat) : Statement (.seekReadDone errs) := fun _ _ hp => by cases hp

theorem bindIndexReadDone (errs : Nat) : Statement (.bindIndexReadDone errs) := fun _ _ hp => by cases hp

theorem cueReadStepDone (errs : Nat) : Statement (.cueReadStepDone errs) := fun _ _ hp => by cases hp

theorem loadPageProgramDone (ok : Bool) : Statement (.loadPageProgramDone ok) := fun _ _ hp => by cases hp

theorem sealStepDone (ok : Bool) : Statement (.sealStepDone ok) := fun _ _ hp => by cases hp

theorem amendReadDone (errs : Nat) : Statement (.amendReadDone errs) := fun _ _ hp => by cases hp

theorem amendProgramDone (ok : Bool) : Statement (.amendProgramDone ok) := fun _ _ hp => by cases hp

theorem deleteEraseDone (ok : Bool) : Statement (.deleteEraseDone ok) := fun _ _ hp => by cases hp

theorem reclaimEraseDone (ok : Bool) : Statement (.reclaimEraseDone ok) := fun _ _ hp => by cases hp

theorem retireTagProgramDone (ok : Bool) : Statement (.retireTagProgramDone ok) := fun _ _ hp => by cases hp

theorem scanTagReadDone (damaged : Bool) : Statement (.scanTagReadDone damaged) := fun _ _ hp => by cases hp

theorem scanSealReadDone (errs : Nat) : Statement (.scanSealReadDone errs) := fun _ _ hp => by cases hp

theorem swiInactive (after : Bool) : Statement (.swiInactive after) := fun _ _ hp => by cases hp

theorem framePulseRisingEdge (n : Aud) : Statement (.framePulseRisingEdge n) := fun _ _ hp => by cases hp

theorem framePulseFallingEdge (n : Aud) : Statement (.framePulseFallingEdge n) := fun _ _ hp => by cases hp

theorem qualifyingCountReached (n : Aud) : Statement (.qualifyingCountReached n) := fun _ _ hp => by cases hp

theorem missingPulseDeadline (n : Aud) : Statement (.missingPulseDeadline n) := fun _ _ hp => by cases hp

theorem contactLevelChange (line : ContactLine) (active : Bool) : Statement (.contactLevelChange line active) := fun _ _ hp => by cases hp

theorem debounceSettled (line : ContactLine) : Statement (.debounceSettled line) := fun _ _ hp => by cases hp

theorem cycleExpiry (n : Aud) : Statement (.cycleExpiry n) := fun _ _ hp => by cases hp

theorem transmissionEnd (n : Aud) : Statement (.transmissionEnd n) := fun _ _ hp => by cases hp

theorem overcurrentFault (n : Aud) (after : Bool) : Statement (.overcurrentFault n after) := fun _ _ hp => by cases hp

theorem coolingEnd (n : Aud) : Statement (.coolingEnd n) := fun _ _ hp => by cases hp

theorem retireEraseDone (ok : Bool) : Statement (.retireEraseDone ok) := fun _ _ hp => by cases hp

theorem uartSyncByteReceived (b : Byte) (stopOk : Bool) : Statement (.uartSyncByteReceived b stopOk) := fun _ _ hp => by cases hp

end Sys2Proof.Laws.Round
end

