-- ==== Sys2Proof/Laws/Receive.lean ====
section
/-! SUPPORT. What the receive framer and the SPI transfers can do, said once: the command of a kind is the arm of its constructor, and a
frame in reception runs the step that its bytes make. -/

namespace Sys2Proof.Machine

/-! ## The command of a frame -/

/-- Running a kind with a tag and a body is running the step of that kind. -/
theorem exec_ofKind (kind tag : Byte) (body : List Byte) (s : State) :
    exec (Instr.ofKind kind tag body) s = execKind kind tag body s := by
  unfold Instr.ofKind execKind
  split <;> first
    | rfl
    | (rename_i e; simp only [e]; rfl)

/-- Running the bytes of a frame is running the step that they decode to. -/
theorem execFrame_eq (bytes : List Byte) (s : State) : execFrame bytes s = exec (decodeFrame bytes) s := by
  unfold execFrame decodeFrame
  rcases openFrame bytes with _ | ⟨kind, tag, body⟩
  · rfl
  · exact (exec_ofKind kind tag body s).symm

/-! ## The framer -/

/-- In SPI operation the framer sees no byte (R159). -/
theorem uartByte_spi (b : Byte) (stopOk : Bool) (s : State) (h : s.linkSel = .spi) :
    execUartSyncByteReceived s b stopOk = .next s := by
  simp [execUartSyncByteReceived, h]

/-- A byte received with a stop-bit error is discarded (R161). -/
theorem uartByte_stopError (b : Byte) (s : State) : execUartSyncByteReceived s b false = .next s := by
  unfold execUartSyncByteReceived
  split <;> first | rfl | contradiction

/-- On the UART a byte within a frame joins it (R161). -/
theorem uartByte_receiving (b : Byte) (s : State) (bytes : List Byte) (gap : Nat) (h : s.linkSel = .uart)
    (hf : s.framer = .receiving bytes gap) : execUartSyncByteReceived s b = s.frameByte (bytes ++ [b]) := by
  simp [execUartSyncByteReceived, State.byteReceived, h, hf]

/-- In UART operation no transfer has an effect (R159). -/
theorem transfer_uart (code : Byte) (sent : List Byte) (s : State) (h : s.linkSel = .uart) : execReadLinkStatus code s sent = .next s := by
  simp [execReadLinkStatus, h]

/-! ## Small lemmas of clockOut -/

section
variable (s : State) (out : List Byte)

@[simp] theorem State.clockOut_linkOut : (s.clockOut out).linkOut = out := rfl
@[simp] theorem State.clockOut_linkSel : (s.clockOut out).linkSel = s.linkSel := rfl
@[simp] theorem State.clockOut_phase : (s.clockOut out).phase = s.phase := rfl
@[simp] theorem State.clockOut_framer : (s.clockOut out).framer = s.framer := rfl
@[simp] theorem State.clockOut_replyBuf : (s.clockOut out).replyBuf = s.replyBuf := rfl
@[simp] theorem State.clockOut_refusal : (s.clockOut out).refusal = s.refusal := rfl
@[simp] theorem State.clockOut_notices : (s.clockOut out).notices = s.notices := rfl
@[simp] theorem State.clockOut_attn : (s.clockOut out).attn = s.attn := rfl
@[simp] theorem State.clockOut_threshold : (s.clockOut out).threshold = s.threshold := rfl
@[simp] theorem State.clockOut_packages : (s.clockOut out).packages = s.packages := rfl
@[simp] theorem State.clockOut_load : (s.clockOut out).load = s.load := rfl
@[simp] theorem State.clockOut_slot : (s.clockOut out).slot = s.slot := rfl
@[simp] theorem State.clockOut_flash : (s.clockOut out).flash = s.flash := rfl
@[simp] theorem State.clockOut_blocks : (s.clockOut out).blocks = s.blocks := rfl
@[simp] theorem State.clockOut_queue : (s.clockOut out).queue = s.queue := rfl
@[simp] theorem State.clockOut_flight : (s.clockOut out).flight = s.flight := rfl
@[simp] theorem State.clockOut_scan : (s.clockOut out).scan = s.scan := rfl
@[simp] theorem State.clockOut_auds : (s.clockOut out).auds = s.auds := rfl
@[simp] theorem State.clockOut_aud (n : Aud) : (s.clockOut out).aud n = s.aud n := rfl
@[simp] theorem State.clockOut_pending : (s.clockOut out).pending = s.pending := rfl

end

end Sys2Proof.Machine
end

