-- ==== Sys2Proof/Tests/Slice0.lean ====
section
/-! SUPPORT. Tests on small states. The first parts check the model against values that the manual states (its worked examples and tables); the last
shows, for each statement with hypotheses, a state and operands that meet them. -/

namespace Sys2Proof.Tests

/- One test at a time: each waits for the kernel, and a hundred that wait together are a hundred threads. -/
set_option Elab.async false

open Sys2Proof Sys2Proof.Machine

/-! ## Small states -/

/-- The part in RUNNING with an idle store engine. -/
def up : State := { State.reset with phase := .running, scan := none, flight := none }

/-- The state a step leaves. -/
def after (o : Host.Outcome State Fault Refusal) : State := match o with | .next t => t | _ => .reset

/-- What a package of one caption track and one sound track carries. -/
def info : PkgInfo :=
  { title := [0x45], rate := .fps24, duration := 7200000, text := [{ label := [0x65, 0x6E, 0x67], kind := .captions }]
    sound := [[0x65, 0x6E, 0x67]], cueCounts := #v[1, 0, 0, 0] }

/-- Package 5, on block 9, one data page and one index page. -/
def pk (st : PkgState) : Package :=
  { id := 5, serial := 1, state := st, info := some info, pageCounts := #v[1, 0, 0, 0], blocks := [9]
    indexLoc := #v[some { first := 1, count := 1 }, none, none, none], amend := none, protection := .unprotected, binds := 0, map := [] }

/-- The load of package 5, a record staged. -/
def ld : Load :=
  { pkg := 5, staging := List.replicate 900 0, track := some 0, lastStart := 100, index := #v[[⟨0, 0, 100⟩], [], [], []], handed := 0 }

/-- The store with package 5 in a state, its block 9 and the blank block 10. -/
def stored (st : PkgState) : State :=
  let s := up.modBlock 9 fun _ => { cls := .package, owner := some 5, nextPage := 2, marked := false }
  { s.modBlock 10 (fun _ => { cls := .blank, owner := none, nextPage := 0, marked := false }) with packages := [pk st] }

/-- Package 5 in FILLING with its load. -/
def filling : State := { stored .filling with load := some ld }

/-- A host operation with its step in flight. -/
def working (op : HostOp) (step : StoreOp) (addr : Nat) : State :=
  { stored .ready with slot := some ⟨op, none⟩, flight := some ⟨hostRequest step, addr⟩ }

/-- Auditorium `n` with a 24 fps show in a state: all of its package's tracks enabled, Pm 50,000. -/
def shown (n : Aud) (st : ShowState) (c e : Nat) : State :=
  (stored .ready).modAud n fun a =>
    { a with
      ctx := { a.ctx with
        st := st, pkg := some 5, rate := some .fps24, duration := 7200000, textCount := 1, soundCount := 1, cueCounts := #v[1, 0, 0, 0]
        c := c, adv := 50, text := #v[⟨true, 24⟩, ⟨false, 24⟩, ⟨false, 24⟩, ⟨false, 24⟩], sound := #v[⟨true, 24⟩, ⟨false, 24⟩] }
      input := { a.input with ref := .set, e := e, pm := 50000, filter := .qualifying } }

/-- A cue of one line. -/
def cue (number start stop : Nat) : Cue :=
  { number := number, startTick := start, endTick := stop, placement := .bottom, speaker := none, lines := [⟨.plain, [0x41]⟩] }

/-! ## Well-formedness and the frame of the link (R171) -/

/-- A body above 1024 bytes is refused. -/
theorem test_wellFormed_body : (Instr.cueAppend 1 (List.replicate 1025 0)).wellFormed = false := by decide +kernel

/-- A body of 1024 bytes is not. -/
theorem test_wellFormed_body_limit : (Instr.cueAppend 1 (List.replicate 1024 0)).wellFormed = true := by decide +kernel

/-- A kind of the catalogue is no unknown kind. -/
theorem test_wellFormed_kind : (Instr.unknownKind 0x60 1).wellFormed = false := by decide +kernel

/-- The CRC of the nine bytes "123456789" (section 10.1). -/
theorem test_crc : crc16 [0x31, 0x32, 0x33, 0x34, 0x35, 0x36, 0x37, 0x38, 0x39] = 0x29B1 := by decide +kernel

/-- PART_INFO with tag 0x11, the frame written out. -/
theorem test_decode_partInfo : decodeFrame [0xA7, 0x00, 0x00, 0x01, 0x11, 0xB5, 0xE1] = .partInfo 0x11 [] := by decide +kernel

/-- SOUND_FLUSH of auditorium 0, track 1. -/
theorem test_decode_soundFlush : decodeFrame [0xA7, 0x00, 0x02, 0x41, 0x09, 0x00, 0x01, 0xDC, 0x0B] = .soundFlush 9 [0, 1] := by
  decide +kernel

/-- A damaged bit is a frame error. -/
theorem test_decode_damaged : decodeFrame [0xA7, 0x00, 0x01, 0x33, 0x07, 0x01, 0x62, 0xDA] = .frameError := by decide +kernel

/-- Kind 0x7F is outside the catalogue. -/
theorem test_decode_unknown : decodeFrame [0xA7, 0x00, 0x00, 0x7F, 0x02, 0xBC, 0xE5] = .unknownKind 0x7F 2 := by decide +kernel

/-! ## Worked examples of the manual -/

/-- Chapter 3, a stumbling projector, step 1: a real pulse at e = 50,200. -/
theorem test_pulse_estimate :
    let t := after (exec (.qualifyingCountReached 2) (shown 2 .locked 1000 50200))
    (t.aud 2).input.pm = 50025 ∧ (t.aud 2).input.e = 0 ∧ (t.aud 2).input.mismatchRun = 0 := by decide +kernel

/-- Step 3: a candidate at 12,024 is early, with the detail 12,024 and 25,012. -/
theorem test_pulse_early :
    (after (exec (.qualifyingCountReached 2) ((shown 2 .locked 1000 12024).modInput 2 fun u => { u with pm := 50025 }))).notices
      = [⟨.aud 2, .earlyPulse, 1, u32 12024 ++ u16 25012⟩] := by decide +kernel

/-- Step 4: at e = 75,037 the deadline falls; the reference moves forward by 50,025, to e = 25,012. -/
theorem test_deadline_synthetic :
    let t := after (exec (.missingPulseDeadline 2) ((shown 2 .locked 1000 75036).modInput 2 fun u => { u with pm := 50025 }))
    (t.aud 2).input.e = 25012 ∧ (t.aud 2).input.pm = 50025 ∧ (t.aud 2).ctx.st = .coasting := by decide +kernel

/-- Step 5: a pulse at m = 29,975 is out of window; the estimate becomes 49,241. -/
theorem test_pulse_mismatch :
    let t := after (exec (.qualifyingCountReached 2) ((shown 2 .locked 1000 29975).modInput 2 fun u => { u with pm := 50025 }))
    (t.aud 2).input.pm = 49241 ∧ (t.aud 2).input.mismatchRun = 1 := by decide +kernel

/-- Chapter 4, a slew: the report of 1,200,260 at P = 1,200,020 sets K to 240 and replies with the action SLEW. -/
theorem test_report_slew :
    let t := after (exec (.positionReport 1 (u8 4 ++ u32 1200260)) (shown 4 .locked 1200000 20000))
    (t.aud 4).ctx.k = 240 ∧ (t.aud 4).ctx.adv = 50
      ∧ t.replyBuf = .ready ⟨0xB5, 1, .ok, [0, 0, 0, 240, 1, 0, 0, 0, 0, 240]⟩ := by decide +kernel

/-- The frame's pulse with m = 50,400: C = 1,200,050, a = 56, K = 234, and mid-frame P = 1,200,078. -/
theorem test_pulse_slewed :
    let t := after (exec (.qualifyingCountReached 4) ((shown 4 .locked 1200000 50400).modCtx 4 fun x => { x with k := 240 }))
    (t.aud 4).input.pm = 50050 ∧ (t.aud 4).ctx.c = 1200050 ∧ (t.aud 4).ctx.adv = 56 ∧ (t.aud 4).ctx.k = 234
      ∧ (t.modInput 4 fun u => { u with e := 25025 }).position 4 = 1200078 := by decide +kernel

/-- The playout queue of chapter 6's worked example at a build. -/
def stream (z : Nat) (stamps : List Nat) (p : Nat) : State :=
  (shown 3 .locked p 0).modAud 3 fun a =>
    { a with
      sound := #v[{ state := .serving, enabled := true, lead := 24, z := some z, queue := stamps.map fun k => ⟨k, List.replicate 160 0⟩
                    served := 0, gaps := 0, discarded := 0, skips := 0 }, .reset]
      input := { a.input with gate := .opened }
      air := { a.air with lastGate := some .opened } }

/-- Chapter 6, build 3: SOUND 480,048 and GAP 480,072 are served. -/
theorem test_slot_service :
    let t := after (exec (.cycleExpiry 3) (stream 480024 [480048, 480096, 480120] 480070))
    (t.play 3 0).z = some 480072 ∧ (t.play 3 0).queue.map (·.stamp) = [480096, 480120] ∧ (t.play 3 0).served = 1
      ∧ (t.play 3 0).gaps = 1 := by decide +kernel

/-- Build 6: with the lead 120 the engine skips to z = 480,216 with 4 blocks discarded, and serves 480,240. -/
theorem test_slot_skip :
    let s := (stream 480120 [480144, 480168, 480192, 480216, 480240, 480264] 480142).modPlay 3 0 fun e => { e with lead := 120 }
    let t := after (exec (.cycleExpiry 3) s)
    (t.play 3 0).z = some 480240 ∧ (t.play 3 0).discarded = 4 ∧ (t.play 3 0).skips = 1
      ∧ t.notices.map (·.detail) = [u8 0 ++ u32 480120 ++ u32 480216 ++ u8 4] := by decide +kernel

/-- R121 b at a start position of 480,072 with a lead of 24: the target slot is 480,096. -/
theorem test_start_discards :
    let t := after (exec (.showStart 1 (u8 3 ++ u32 480072)) (stream 480024 [480048, 480096, 480120] 480070))
    (t.play 3 0).state = .priming ∧ (t.play 3 0).z = some 480072 ∧ (t.play 3 0).queue.map (·.stamp) = [480096, 480120]
      ∧ (t.play 3 0).discarded = 1 := by decide +kernel

/-- A cue whose item has a size of chapter 7's worked example. -/
def sized (number start size : Nat) : Cue := { cue number start 100000 with lines := [⟨.plain, List.replicate (size - 14) 0x41⟩] }

/-- The auditorium of chapter 7's worked example before its build. -/
def panel (rate : BitRate) : State :=
  ((shown 9 .locked 1000 0).modAud 9 fun a =>
    { a with
      text := a.text.set 0 { TrackEngine.reset with
        state := .running, cueCount := 45, cursor := 45, active := [sized 40 100 70, sized 41 200 88, sized 42 300 64, sized 43 400 100]
        look := [{ sized 44 1010 88 with lines := [⟨.plain, List.replicate 40 0x41⟩, ⟨.plain, List.replicate 32 0x41⟩] }] }
      sound := #v[{ state := .serving, enabled := true, lead := 24, z := some 984, queue := [⟨1008, List.replicate 160 0⟩]
                    served := 0, gaps := 0, discarded := 0, skips := 0 },
                  { state := .serving, enabled := true, lead := 24, z := some 984, queue := [⟨1008, List.replicate 120 0⟩]
                    served := 0, gaps := 0, discarded := 0, skips := 0 }]
      input := { a.input with gate := .opened }
      air := { a.air with lastGate := some .opened, staged := { a.air.staged with rate := rate } }
      emit := { a.emit with state := .active } })

/-- Chapter 7 at 500 kbit/s: a frame of 748 bytes, the carousel pointer at 0. -/
theorem test_frame_500 :
    let t := after (exec (.cycleExpiry 9) (panel .r500))
    (t.aud 9).air.lastSize = 748 ∧ (t.aud 9).air.carousel = 0 ∧ (t.aud 9).air.pend = []
      ∧ (t.aud 9).emit.tx.map (fun x => x.frame.items.map Item.size) = some [168, 128, 6, 88, 88, 64, 100, 88] := by decide +kernel

/-- At 250 kbit/s: 560 bytes, the pointer at 2. -/
theorem test_frame_250 :
    let t := after (exec (.cycleExpiry 9) (panel .r250))
    (t.aud 9).air.lastSize = 560 ∧ (t.aud 9).air.carousel = 2 := by decide +kernel

/-- Chapter 8, a failing panel: the fault of the frame of sequence 40. -/
theorem test_fault_cools :
    let s := up.modEmit 11 fun u =>
      { u with state := .active, clean := 500, tx := some ⟨⟨0, 11, 40, 0, 18, 0, 0, 0, []⟩, .r500, .reset, 0⟩ }
    let t := after (exec (.overcurrentFault 11 true) s)
    (t.aud 11).emit.state = .cooling ∧ (t.aud 11).emit.clean = 0 ∧ (t.aud 11).emit.retry = 0
      ∧ t.notices.map (·.kind) = [.frameDropped, .emitterFault] := by decide +kernel

/-- Its last fault, with the retry count at 3. -/
theorem test_fault_latches :
    let s := up.modEmit 11 fun u => { u with state := .active, retry := 3, tx := some ⟨⟨0, 11, 40, 0, 18, 0, 0, 0, []⟩, .r500, .reset, 0⟩ }
    let t := after (exec (.overcurrentFault 11 true) s)
    (t.aud 11).emit.state = .latchedOff ∧ t.notices.map (·.kind) = [.emitterLatched, .frameDropped, .emitterFault] := by decide +kernel

/-- A frame that outlasts its cycle: in its second bit, a 1 of the sync byte 0x5A, both lines follow the pairing it began with (R150, R151),
though the expiry makes other staged settings current. -/
theorem test_expiry_keeps_lines :
    let own : LineSettings := { LineSettings.reset with modeA := .pushPull, modeB := .sink, pairing := .antivalent }
    let s := (panel .r500).modEmit 9 fun u =>
      { u with tx := some ⟨⟨0, 9, 40, 0, 18, 0, 0, 0, []⟩, .r500, own, 24⟩, current := own
               staged := { own with modeA := .sink, pairing := .tracking, p := 6, w := 0 } }
    let t := after (exec (.cycleExpiry 9) s)
    (s.aud 9).emit.lineA = .drivenHigh ∧ (s.aud 9).emit.lineB = .pulledLow ∧ (t.aud 9).emit.current.w = 0
      ∧ (t.aud 9).emit.lineA = .drivenHigh ∧ (t.aud 9).emit.lineB = .pulledLow ∧ (t.aud 9).emit.dropped = 1 := by decide +kernel

/-- The scan of a blank flash ends STARTING with 128 blank blocks (R44, R46). -/
theorem test_scan_blank :
    let s := { State.reset with
      scan := some { visited := 127, tags := [], found := (List.range 127).map fun b => scannedBlock b [.erased], seals := [], dir := [] }
      flight := some ⟨scanRequest (.readTag 127 0), 8128⟩ }
    let t := after (exec (.scanTagReadDone false) s)
    t.phase = .running ∧ t.notices = [⟨.part, .startDone, 1, [0, 0, 128, 0, 0, 0]⟩] ∧ t.serialHigh = 65535 := by decide +kernel

/-- A record of chapter 1's small load, as a CUE_APPEND carries it. -/
def rec48 (track start stop : Nat) : List Byte :=
  u8 track ++ u32 start ++ u32 stop ++ [0, 0, 3] ++ (List.replicate 3 (u8 0 ++ u8 48 ++ List.replicate 48 0x41)).flatten

/-- Chapter 1: eight records, the seventh of which hands the first page over; 8 accepted, first cue number 0, no clamp. -/
theorem test_append_batch :
    let s := { filling with
      load := some { ld with staging := [], track := none, lastStart := 0, index := Vector.replicate 4 [] }
      packages := [{ pk .filling with info := some { info with cueCounts := #v[0, 0, 0, 0] }, pageCounts := #v[0, 0, 0, 0] }] }
    let t := after (exec (.cueAppend 6 (5 :: (List.range 8).flatMap fun i => rec48 0 (12000 + 600 * i) (15000 + 600 * i))) s)
    t.replyBuf = .ready ⟨0x91, 6, .ok, [8, 0, 0, 0, 0]⟩ ∧ t.load.map (fun l => (l.staging.length, l.handed)) = some (326, 1)
      ∧ t.load.map (fun l => l.index.get 0) = some [⟨0, 0, 12000⟩, ⟨1, 6, 15600⟩] := by decide +kernel

/-- Chapter 1: a clamped record, and one that needs a handover while the slot is occupied; 1 accepted, first cue number 8, BUSY, 1 clamp. -/
theorem test_append_busy :
    let s := { filling with
      slot := some ⟨.loadPage 5, none⟩
      load := some { ld with staging := List.replicate 326 0, lastStart := 16200 }
      packages := [{ pk .filling with
        info := some { info with cueCounts := #v[8, 0, 0, 0], text := List.replicate 2 ⟨[0x65, 0x6E, 0x67], .captions⟩ } }] }
    let t := after (exec (.cueAppend 6 (5 :: (rec48 0 16800 56800 ++ rec48 1 12100 14000))) s)
    t.replyBuf = .ready ⟨0x91, 6, .busy, [1, 0, 8, 2, 1]⟩ := by decide +kernel

/-- Chapter 5, the read of page 11: the overlap collection holds 138, 139, 140 and 141. -/
theorem test_seek_page :
    (seekPage 600024 [] [] [cue 131 561000 565000, cue 132 563500 599500, cue 133 566000 602000, cue 134 570000 576000,
      cue 135 576500 582000, cue 136 582500 588000, cue 137 588500 594000, cue 138 594500 600500, cue 139 597000 609000,
      cue 140 598000 601000, cue 141 599000 604000]).1.map (·.number) = [138, 139, 140, 141] := by decide +kernel

/-- Chapter 9: the frame of PART_INFO on the UART, byte by byte; its last byte runs the command. -/
theorem test_uart_frame :
    let s := { up with linkSel := .uart }
    let t := [0xA7, 0x00, 0x00, 0x01, 0x11, 0xB5].foldl (fun s b => after (exec (.uartSyncByteReceived b) s)) s
    let u := after (exec (.uartSyncByteReceived 0xE1) t)
    t.framer = .receiving [0xA7, 0x00, 0x00, 0x01, 0x11, 0xB5] 0 ∧ t.replyBuf = .empty ∧ u.framer = .hunting ∧ u.replyBuf.isReady = true := by
  decide +kernel

/-- A byte 0xA7 in a body is a byte of the body (R161). -/
theorem test_uart_sync_in_body :
    let s := { up with linkSel := .uart, framer := .receiving [0xA7, 0x00, 0x02, 0x41, 0x09] 30 }
    let t := after (exec (.uartSyncByteReceived 0xA7) s)
    t.framer = .receiving [0xA7, 0x00, 0x02, 0x41, 0x09, 0xA7] 0 ∧ t.refusal = none := by decide +kernel

/-- A byte received with a stop-bit error is discarded (R161). -/
theorem test_uart_stop_bit :
    let s := { up with linkSel := .uart, framer := .receiving [0xA7, 0x00] 30 }
    exec (.uartSyncByteReceived 0x02 false) s = .next s ∧ exec (.uartSyncByteReceived 0xA7 false) { s with framer := .hunting }
      = .next { s with framer := .hunting } := ⟨rfl, rfl⟩

/-- A PACKAGE_OPEN accepted while package 5 is SEALING begins a load of its own, and the seal goes on with the load it keeps: its last program
makes package 5 READY with its index at position 1 (R6, R11, R15). -/
theorem test_open_during_seal :
    let s := { stored .sealing with
      slot := some ⟨.sealing 5 2 ld, none⟩, flight := some ⟨hostRequest (.program 9 4), 580⟩, pageReg := none }
    let t := after (exec (.packageOpen 1 [0, 0, 0, 0, 1, 1, 0x45, 0, 0]) s)
    let u := after (exec (.sealStepDone true) t)
    t.load.map (·.pkg) = some 0 ∧ (u.package 5).map (fun p => (p.state, p.indexLoc.get 0)) = some (.ready, some ⟨1, 1⟩)
      ∧ u.load.map (·.pkg) = some 0 ∧ u.slot = none := by decide +kernel

/-- An SPI deliver runs the frame's command while zeros are clocked out (R160 a). -/
theorem test_spi_deliver :
    let t := after (exec (.readLinkStatus 0x01 [0xA7, 0x00, 0x00, 0x01, 0x11, 0xB5, 0xE1]) up)
    t.replyBuf.isReady = true ∧ t.linkOut = [0, 0, 0, 0, 0, 0, 0] := by decide +kernel

/-- A RETIRE tag whose program fails reads as unreadable, whatever a damage (R40 step 4). -/
theorem test_retire_tag_failed :
    let s := { working (.delete 5 9 [] 0) (.program 9 0) 576 with pageReg := some retireImage }
    let t := after (exec (.retireTagProgramDone false) s)
    readTag t.flash 576 false = .unreadable ∧ (t.block 9).cls = .unknown := by decide +kernel

/-! ## States and operands that meet the hypotheses of the statements -/

/-- A reply to collect. -/
def rep : Reply := { kind := 0x81, tag := 1, code := .ok, vals := [] }

/-- Entries of the notice set, in taking order. -/
def noted : State := up.raise (.aud 3) .earlyPulse []

theorem witness_StepTakesFrontCommand : ({ up with pending := [.replySent, .frameError] } : State).pending = .replySent :: [.frameError] := rfl

/-- Nothing falls due in the first count of a part at rest; the cycle timer of auditorium 15 alone, in one whose timer stands at 1. -/
theorem witness_IdleStepCountsOneMeasure :
    let s := up.modAir 15 fun a => { a with timer := 1 }
    up.pending = [] ∧ (∀ e ∈ partEvents, e.1 up.count = false) ∧ s.pending = []
      ∧ partEvents = partEvents.take 113 ++ ((fun s => decide ((s.aud 15).air.timer = 0)), .cycleExpiry 15) :: []
      ∧ (∀ e ∈ partEvents.take 113, e.1 s.count = false) ∧ (s.count.aud 15).air.timer = 0
      ∧ exec (.cycleExpiry 15) s.count = .next (after (exec (.cycleExpiry 15) s.count)) :=
  ⟨rfl, by decide +kernel, rfl, rfl, by decide +kernel, by decide +kernel, rfl⟩

/-- Page 196 is not the page that the program in flight, of block 3, page 5, was working on. -/
theorem witness_HardResetLeaves :
    let s := { up with flight := some ⟨hostRequest (.program 3 5), 197⟩ }
    (Instr.powerOnReset true = .powerOnReset true ∨ Instr.powerOnReset true = .lineReset true)
      ∧ exec (.powerOnReset true) s = .next (after (exec (.powerOnReset true) s))
      ∧ (∀ f block page, s.flight = some f → f.req.op = .program block page → 196 ≠ pageAddr block page)
      ∧ ∀ f block, s.flight = some f → f.req.op = .erase block → 196 / 64 ≠ block :=
  ⟨.inl rfl, rfl, (fun f b p h k => by cases h; cases k; decide), (fun f b h k => by cases h; cases k)⟩

theorem witness_PartResetLeaves :
    let s := { filling with slot := some ⟨.loadPage 5, none⟩, flight := some ⟨hostRequest (.program 9 1), 577⟩ }
    s.Accepts ∧ s.load = some ld ∧ s.package ld.pkg = some (pk .filling) ∧ (pk .filling).state = .filling ∧ s.loadInFlight = true
      ∧ s.hostOp = some (.loadPage ld.pkg) ∧ filling.Accepts ∧ filling.load = some ld ∧ filling.package ld.pkg = some (pk .filling)
      ∧ filling.loadInFlight = false ∧ exec (.partReset 1 []) s = .next (after (exec (.partReset 1 []) s)) :=
  ⟨⟨rfl, rfl⟩, rfl, by decide +kernel, rfl, rfl, rfl, ⟨rfl, rfl⟩, rfl, by decide +kernel, rfl, rfl⟩

/-- Bodies one byte short of the shortest of SOUND_BLOCK and ANNOUNCE, and a record, a line and a title that are cut off. -/
theorem witness_TestsBeforeTheOwner :
    (Instr.partInfo 1 []).frameParts = some (0x01, 1, []) ∧ ({ up with replyBuf := .ready rep } : State).replyBuf.owed = true
      ∧ (Instr.gateSet 1 []).frameParts = some (0x30, 1, []) ∧ Instr.gateSet 1 [] ≠ .unknownKind 0x30 1 ∧ State.reset.phase = .starting
      ∧ State.reset.replyBuf = .empty ∧ ((0x30#8).toNat, 9) ∈ [(0x30, 9)] ∧ ([] : List Byte).length ≠ 9 ∧ up.Accepts
      ∧ (Instr.soundBlock 1 [0, 0, 0, 0, 0]).frameParts = some (0x40, 1, [0, 0, 0, 0, 0]) ∧ ([0, 0, 0, 0, 0] : List Byte).length < 6
      ∧ (Instr.announce 1 [0, 0, 0, 0]).frameParts = some (0x51, 1, [0, 0, 0, 0]) ∧ ([0, 0, 0, 0] : List Byte).length < 5
      ∧ (Instr.cueAppend 1 [5, 0]).frameParts = some (0x11, 1, [5, 0])
      ∧ (∀ id recs, ([5, 0] : List Byte) = id :: recs → rawRecords recs.length recs = none)
      ∧ (Instr.cueAmend 1 [5, 0, 0, 0, 0, 0, 1]).frameParts = some (0x17, 1, [5, 0, 0, 0, 0, 0, 1])
      ∧ (∀ raw, rawLines (1#8).toNat [] ≠ some (raw, []))
      ∧ (Instr.packageOpen 1 [0, 0, 0, 0, 1]).frameParts = some (0x10, 1, [0, 0, 0, 0, 1])
      ∧ ∀ head title : List Byte, ∀ ts ds : List (List Byte), head.length = 5 →
          [0, 0, 0, 0, 1] ≠ head ++ u8 title.length ++ title ++ u8 ts.length ++ ts.flatten ++ u8 ds.length ++ ds.flatten :=
  ⟨rfl, rfl, rfl, by decide, rfl, rfl, by decide, by decide, ⟨rfl, rfl⟩, rfl, by decide, rfl, by decide, rfl,
    (fun id recs h => by cases h; decide +kernel), rfl, (fun raw h => by simp [rawLines] at h), rfl,
    fun head title ts ds h k => by have := congrArg List.length k; simp [u8] at this; omega⟩

/-- A UART with a frame of two bytes in reception, one whose length field is too large, and one that waits for its last byte. -/
theorem witness_FramerTakesBytes :
    let u := { up with linkSel := .uart }
    let s := { u with framer := .receiving [0xA7] 2400 }
    let l := { u with framer := .receiving [0xA7, 0x04] 0 }
    let c := { u with framer := .receiving [0xA7, 0x00, 0x00, 0x01, 0x11, 0xB5] 0 }
    s.linkSel = .uart ∧ s.framer = .receiving [0xA7] 2400 ∧ (up.linkSel = .spi ∨ up.framer = .hunting) ∧ up.replyBuf = .empty
      ∧ u.linkSel = .uart ∧ u.framer = .hunting ∧ (0xA6 : Byte) ≠ 0xA7 ∧ ([0xA7, 0x04] : List Byte).length < 3
      ∧ l.framer = .receiving [0xA7, 0x04] 0 ∧ be ((([0xA7, 0x04] ++ [0x00] : List Byte).drop 1).take 2) ≤ 1024
      ∧ 1024 < be ((([0xA7, 0x04] ++ [0x01] : List Byte).drop 1).take 2) ∧ ([0xA7, 0x04] ++ [0x00] : List Byte).length = 3
      ∧ 3 < 7 + be ((([0xA7, 0x04] ++ [0x00] : List Byte).drop 1).take 2)
      ∧ c.framer = .receiving [0xA7, 0x00, 0x00, 0x01, 0x11, 0xB5] 0
      ∧ ([0xA7, 0x00, 0x00, 0x01, 0x11, 0xB5] ++ [0xE1] : List Byte).length = 7 + be [0x00, 0x00] :=
  ⟨rfl, rfl, .inl rfl, rfl, rfl, rfl, by decide, by decide, rfl, by decide, by decide, rfl, by decide, rfl, by decide⟩

theorem witness_RepliesLeaveTheLink :
    let r := { up with refusal := some rep }
    let y := { up with replyBuf := .ready rep }
    let u := { up with linkSel := .uart }
    let s := { u with uartTx := some .slot, refusal := some rep, replyBuf := .ready rep }
    let t := { u with uartTx := some .slot, refusal := some rep }
    let b := { u with uartTx := some .buffer, replyBuf := .ready rep }
    r.linkSel = .spi ∧ r.refusal = some rep ∧ y.linkSel = .spi ∧ y.refusal = none ∧ y.replyBuf = .ready rep ∧ up.linkSel = .spi
      ∧ up.refusal = none ∧ (∀ x, up.replyBuf ≠ .ready x) ∧ (0x00 : Byte) ≠ 0x01 ∧ (0x00 : Byte) ≠ 0x02 ∧ (0x00 : Byte) ≠ 0x03
      ∧ s.linkSel = .uart ∧ s.uartTx = some .slot ∧ s.replyBuf = .ready rep ∧ t.linkSel = .uart ∧ t.uartTx = some .slot
      ∧ (∀ x, t.replyBuf ≠ .ready x) ∧ b.linkSel = .uart ∧ b.uartTx = some .buffer ∧ u.linkSel = .uart ∧ u.uartTx = none :=
  ⟨rfl, rfl, rfl, rfl, rfl, rfl, rfl, (fun _ h => by cases h), by decide, by decide, by decide, rfl, rfl, rfl, rfl, rfl,
    (fun _ h => by cases h), rfl, rfl, rfl, rfl⟩

theorem witness_LinkReportsAndNotices :
    (noted.Accepts ∧ State.reset.replyBuf = .empty ∧ (2 : Byte) ≠ 0 ∧ (2 : Byte) ≠ 1 ∧ ((1 : Byte) = 0 ∨ (1 : Byte) = 1))
      ∧ noted.NoticesOk ∧ (∀ x ∈ noted.notices, ¬(x.source = .store ∧ x.kind = .storeDone))
      ∧ ∃ x ∈ noted.notices, x.source = .aud 3 ∧ x.kind = .earlyPulse :=
  ⟨⟨⟨rfl, rfl⟩, rfl, by decide, by decide, .inr rfl⟩, by unfold State.NoticesOk; decide +kernel⟩

/-- The load page program of block 9, page 2, in flight. -/
def loading_ : State :=
  { filling with slot := some ⟨.loadPage 5, none⟩, flight := some ⟨hostRequest (.program 9 2), 578⟩, pageReg := some retireImage }

/-- The erase of block 9 of a delete in flight. -/
def erasing : State := working (.delete 5 9 [] 0) (.erase 9) 9

/-- A failed amendment of package 5 that retires block 10. -/
def amending (stage : AmendStage) : HostOp := .amend 5 0 0 .top none [⟨.plain, [0x42]⟩] 10 true stage

/-- The completion of a load page program is one that ends with the next request. -/
theorem witness_RequestsAreRanked :
    let rank : Requester → Nat := fun w => match w with | .engine _ _ => 1 | .bind _ => 2 | .host => 3 | .scan => 4
    (up.flight = none ∧ State.reset.flight ≠ none ∧ up.queue = [] ∧ ({ up with queue := [scanRequest (.readTag 0 0)] } : State).queue ≠ [])
      ∧ ((∀ n t, rank (.engine n t) = 1) ∧ (∀ n, rank (.bind n) = 2) ∧ rank .host = 3 ∧ rank .scan = 4)
      ∧ (∃ errs ok, Instr.loadPageProgramDone true ∈ [Instr.fetchReadDone errs, .seekReadDone errs, .bindIndexReadDone errs,
          .cueReadStepDone errs, .loadPageProgramDone ok])
      ∧ exec (.loadPageProgramDone true) loading_ = .next (after (exec (.loadPageProgramDone true) loading_))
      ∧ after (exec (.loadPageProgramDone true) loading_) ≠ loading_ :=
  ⟨by decide +kernel, ⟨fun _ _ => rfl, fun _ => rfl, rfl, rfl⟩, ⟨0, true, by decide⟩, rfl,
    fun h => absurd (congrArg State.slot h) (by decide +kernel)⟩

/-- Programs and erases in flight of a load, a delete, an amendment and a reclaim, and RETIRE tags. -/
theorem witness_FlashChangesWhereTheEngineWorks :
    let a := { working (amending (.program 0 0 (cue 0 100 200))) (.program 10 0) 640 with pageReg := some retireImage }
    let t := { working (.delete 5 9 [] 0) (.program 9 0) 576 with pageReg := some retireImage }
    let r := working (.reclaim 9 [] 0 0) (.erase 9) 9
    let e := working (amending .retire) (.erase 10) 10
    (exec (.loadPageProgramDone true) loading_ = .next (after (exec (.loadPageProgramDone true) loading_))
      ∧ loading_.hostOp = some (.loadPage 5) ∧ loading_.hostProgram = some (9, 2) ∧ loading_.pageReg = some retireImage
      ∧ pageAddr 9 2 < 8192)
      ∧ (exec (.deleteEraseDone true) erasing = .next (after (exec (.deleteEraseDone true) erasing))
      ∧ erasing.hostOp = some (.delete 5 9 [] 0) ∧ erasing.hostErase = some 9)
      ∧ (exec (.amendProgramDone true) a = .next (after (exec (.amendProgramDone true) a)) ∧ a.hostProgram = some (10, 0)
      ∧ a.hostOp = some (amending (.program 0 0 (cue 0 100 200))) ∧ a.pageReg = some retireImage)
      ∧ (exec (.retireTagProgramDone false) t = .next (after (exec (.retireTagProgramDone false) t)) ∧ t.hostProgram = some (9, 0)
      ∧ t.hostOp = some (.delete 5 9 [] 0) ∧ (HostOp.delete 5 9 [] 0).retires = true ∧ retireImage.tag.role = .retire)
      ∧ exec (.reclaimEraseDone true) r = .next (after (exec (.reclaimEraseDone true) r)) ∧ r.hostErase = some 9
      ∧ exec (.retireEraseDone true) e = .next (after (exec (.retireEraseDone true) e)) ∧ e.hostErase = some 10 :=
  ⟨⟨rfl, rfl, rfl, rfl, by decide⟩, ⟨rfl, rfl, rfl⟩, ⟨rfl, rfl, rfl, rfl⟩, ⟨rfl, rfl, rfl, rfl, rfl⟩, rfl, rfl, rfl, rfl⟩

/-- The body of a PACKAGE_OPEN: 24 fps, D = 1, the title "E", no track. -/
def openBody : List Byte := [0, 0, 0, 0, 1, 1, 0x45, 0, 0]

/-- Its arguments. -/
def opened_ : OpenArgs := { rate := 0, duration := 1, title := [0x45], text := [], sound := [] }

theorem witness_PackageOpenMakesTheEntry :
    let s := stored .ready
    s.Accepts ∧ openArgs openBody = some opened_
      ∧ opened_.checked = some { title := [0x45], rate := .fps24, duration := 1, text := [], sound := [], cueCounts := Vector.replicate 4 0 }
      ∧ openArgs (9 :: openBody.tail) = some { opened_ with rate := 9 } ∧ ({ opened_ with rate := 9 } : OpenArgs).checked = none
      ∧ s.package 0 = none ∧ (∀ p ∈ s.packages, p.state ≠ .filling) ∧ (s.block 10).cls = .blank ∧ (∀ c, c < 10 → (s.block c).cls ≠ .blank)
      ∧ ∃ p ∈ (stored .filling).packages, p.state = .filling :=
  ⟨⟨rfl, rfl⟩, by decide +kernel⟩

/-- The bytes of a record of track 0 with one line of one byte. -/
def recBytes (start stop : Nat) : List Byte := u8 0 ++ u32 start ++ u32 stop ++ [0, 0, 1, 0, 1, 0x41]

/-- The record. -/
def raw (start stop : Nat) : RawRecord :=
  { track := 0, startTick := start, endTick := stop, placement := 0, speaker := 0, lines := [⟨0, [0x41]⟩] }

/-- Its text. -/
def rawText : CueText := { placement := .bottom, speaker := none, lines := [⟨.plain, [0x41]⟩] }

theorem witness_CueAppendStagesARecord :
    filling.Accepts ∧ rawRecords (recBytes 100 36101).length (recBytes 100 36101) = some [raw 100 36101]
      ∧ filling.package (5#8).toNat = some (pk .filling) ∧ (pk .filling).info = some info ∧ filling.load = some ld ∧ ld.pkg = (5#8).toNat
      ∧ (raw 100 36101).track = (0 : TextTrack).val ∧ (0 : TextTrack).val < info.text.length
      ∧ checkedText (raw 100 36101).placement (raw 100 36101).speaker (raw 100 36101).lines = some rawText
      ∧ 100 < info.duration ∧ 36101 ≤ 2147483647 ∧ info.cueCounts.get 0 < 65536 ∧ ld.track = some 0 ∧ ld.lastStart ≤ 100
      ∧ ld.staging.length + (13 + linesSize rawText.lines) ≤ 1024 :=
  ⟨⟨rfl, rfl⟩, by decide +kernel⟩

/-- 1010 staged bytes leave no room for a record of 16; the page limit of 512, a full block with a blank one and one without. -/
theorem witness_CueAppendHandsThePageOver :
    let s := { filling with load := some { ld with staging := List.replicate 1010 0 } }
    let f := s.modBlock 9 fun r => { r with nextPage := 64 }
    let n := f.modBlock 10 fun r => { r with cls := .unknown }
    s.Accepts ∧ s.slot = none ∧ s.swi = false ∧ s.flight = none ∧ ({ ld with staging := List.replicate 1010 0 } : Load).staging ≠ []
      ∧ 1024 < 1010 + (13 + linesSize rawText.lines) ∧ (pk .filling).pageCounts.get 0 < 512
      ∧ s.pagesUsed (pk .filling).lastBlock ≠ 64 ∧ (s.block 9).nextPage = 2 ∧ ({ s with swi := true } : State).swi = true
      ∧ 512 ≤ ({ pk .filling with pageCounts := #v[512, 0, 0, 0] } : Package).pageCounts.get 0
      ∧ f.pagesUsed (pk .filling).lastBlock = 64 ∧ (pk .filling).blocks.length < 64 ∧ f.lowestBlank = some 10 ∧ (f.block 10).nextPage = 0
      ∧ n.pagesUsed (pk .filling).lastBlock = 64 ∧ n.pool = [] :=
  ⟨⟨rfl, rfl⟩, by decide +kernel⟩

/-- A batch of two records, the parts of it, and the replies of the parts; whole batches and first records that are refused. -/
theorem witness_CueAppendRunsItsBatch :
    let one := recBytes 100 200
    let two := recBytes 150 300
    let u := after (exec (.cueAppend 6 (5 :: one)) filling)
    let v := after (exec (.cueAppend 6 (5 :: two)) { u with replyBuf := .empty, uartTx := filling.uartTx })
    (filling.Accepts ∧ u.phase = .running) ∧ rawRecords (one ++ two).length (one ++ two) = some [raw 100 200, raw 150 300]
      ∧ rawRecords one.length one = some [raw 100 200] ∧ rawRecords two.length two = some [raw 150 300]
      ∧ u.replyBuf = .ready { kind := 0x91, tag := 6, code := .ok, vals := u8 1 ++ u16 1 ++ u8 0 ++ u8 0 }
      ∧ v.replyBuf = .ready { kind := 0x91, tag := 6, code := .ok, vals := u8 1 ++ u16 2 ++ u8 0 ++ u8 0 }
      ∧ up.package (5#8).toNat = none ∧ (pk .ready).state ≠ .filling ∧ (pk .filling).state = .filling
      ∧ rawRecords ([] : List Byte).length [] = some [] ∧ ld.track = some 0 ∧ ld.lastStart = 100 ∧ info.text.length ≤ 4
      ∧ info.text.length ≤ ({ raw 100 200 with track := 1 } : RawRecord).track ∧ (raw 99 200).startTick < ld.lastStart
      ∧ info.duration ≤ (raw 7200000 7200001).startTick ∧ (raw 200 200).endTick ≤ (raw 200 200).startTick
      ∧ checkedText 2 0 (raw 100 200).lines = none ∧ 2147483647 < (raw 100 2147483648).endTick :=
  ⟨⟨⟨rfl, rfl⟩, by decide +kernel⟩, by decide +kernel⟩

/-- A seal of package 5 with its program of block 9, page 2, in flight. -/
def sealing_ (k : Nat) : State := { loading_ with load := none, slot := some ⟨.sealing 5 k ld, none⟩ }

theorem witness_LoadAndSealProgramsEnd :
    loading_.hostProgram = some (9, 2) ∧ loading_.package 5 = some (pk .filling) ∧ loading_.load = some ld ∧ ld.pkg = 5
      ∧ loading_.hostOp = some (.loadPage 5) ∧ (sealing_ 2).hostOp = some (.sealing 5 2 ld) ∧ (sealPages (pk .filling) info ld).length = 3
      ∧ (sealing_ 0).hostProgram = some (9, 2) ∧ (sealing_ 0).hostOp = some (.sealing 5 0 ld) ∧ (sealing_ 0).swi = false
      ∧ ({ sealing_ 0 with swi := true } : State).swi = true ∧ (pk .filling).info = some info
      ∧ ((pk .filling).blocks.find? fun x => decide ((((sealing_ 0).programmed 9 2 true).block x).nextPage < 64)) = some 9 := by
  decide +kernel

theorem witness_PackageSealIsAccepted :
    up.Accepts ∧ up.package (5#8).toNat = none ∧ filling.Accepts ∧ filling.package (5#8).toNat = some (pk .filling)
      ∧ filling.load = some ld ∧ ld.pkg = (5#8).toNat ∧ filling.swi = false ∧ filling.slot = none
      ∧ (if ld.staging = [] then 0 else 1) + (((ld.index.get 0).length + 127) / 128 + (((ld.index.get 1).length + 127) / 128
        + (((ld.index.get 2).length + 127) / 128 + ((ld.index.get 3).length + 127) / 128))) + 1 = 3
      ∧ (filling.block (pk .filling).lastBlock).marked = false ∧ (filling.block (pk .filling).lastBlock).nextPage = 2
      ∧ filling.pool.length = 1 ∧ (pk .filling).blocks.length = 1 ∧ filling.pool.take ((3 - 62 + 63) / 64) = []
      ∧ ((pk .filling).blocks ++ []).find? (fun x => decide ((filling.block x).nextPage < 64)) = some 9 ∧ filling.flight = none
      ∧ (pk .ready).state ≠ .filling :=
  ⟨⟨rfl, rfl⟩, by decide +kernel, ⟨rfl, rfl⟩, by decide +kernel⟩

theorem witness_ProtectionAndDeletion :
    let s := stored .ready
    (up.Accepts ∧ s.Accepts) ∧ up.package (5#8).toNat = none ∧ s.package (5#8).toNat = some (pk .ready) ∧ 2 < (3#8).toNat
      ∧ Protection.code .firm = (2#8).toNat ∧ (pk .ready).state = .ready ∧ (pk .sealing).state ≠ .ready
      ∧ ({ pk .ready with protection := .firm } : Package).protection = .firm
      ∧ (pk .ready).binds = 0 ∧ (pk .ready).protection = .unprotected ∧ s.swi = false ∧ s.slot = none
      ∧ (pk .ready).blocks ++ (pk .ready).amend.toList = 9 :: [] ∧ s.flight = none
      ∧ (stored .deleting).package (5#8).toNat = some (pk .deleting) ∧ (pk .deleting).state = .deleting
      ∧ 0 < ({ pk .ready with binds := 1 } : Package).binds :=
  ⟨⟨⟨rfl, rfl⟩, ⟨rfl, rfl⟩⟩, by decide +kernel⟩

theorem witness_ErasesFreeOrRetireBlocks :
    erasing.hostErase = some 9 ∧ erasing.swi = false ∧ erasing.slot = some ⟨.delete 5 9 [] 0, none⟩ ∧ (erasing.block 9).marked = false
      ∧ (working (.delete 5 9 [10] 0) (.erase 9) 9).slot = some ⟨.delete 5 9 [10] 0, none⟩
      ∧ (working (.reclaim 9 [] 0 0) (.erase 9) 9).slot = some ⟨.reclaim 9 [] 0 0, none⟩
      ∧ (working (.reclaim 9 [] 0 0) (.erase 9) 9).hostErase = some 9 ∧ (∀ r ∈ erasing.queue, r.who ≠ .host) := by decide +kernel

theorem witness_RetireProcedureEnds :
    let s := working (amending .retire) (.program 10 0) 640
    s.swi = false ∧ s.hostProgram = some (10, 0) ∧ s.hostOp = some (amending .retire) ∧ s.slot = some ⟨amending .retire, none⟩ ∧ (amending .retire).retires = true
      ∧ (working (.delete 5 9 [] 0) (.program 9 0) 576).hostProgram = some (9, 0)
      ∧ (working (.delete 5 9 [10] 0) (.program 9 0) 576).hostOp = some (.delete 5 9 [10] 0)
      ∧ (working (.reclaim 9 [] 0 0) (.program 9 0) 576).hostProgram = some (9, 0)
      ∧ (working (.reclaim 9 [10] 0 0) (.program 9 0) 576).hostOp = some (.reclaim 9 [10] 0 0)
      ∧ (working (amending .retire) (.erase 10) 10).hostErase = some 10 := by decide +kernel

theorem witness_StoreReclaimIsAccepted :
    let s := stored .ready
    let none_ := { up with blocks := Vector.replicate 128 { cls := .blank, owner := none, nextPage := 0, marked := false } }
    s.Accepts ∧ s.swi = false ∧ s.slot = none ∧ (s.block 0).cls = .unknown ∧ none_.Accepts
      ∧ (∀ b, b < 128 → (none_.block b).cls ≠ .unknown) ∧ ({ s with swi := true } : State).swi = true :=
  ⟨⟨rfl, rfl⟩, rfl, rfl, by decide +kernel, ⟨rfl, rfl⟩, by decide +kernel, rfl⟩

theorem witness_StoreReportsChangeNothing :
    up.Accepts ∧ up.package (5#8).toNat = none ∧ (stored .ready).Accepts ∧ (stored .ready).package (5#8).toNat = some (pk .ready) :=
  ⟨⟨rfl, rfl⟩, by decide +kernel, ⟨rfl, rfl⟩, by decide +kernel⟩

/-- The one cue of package 5, the block 10 that the amendment reserves, and the place of the track's index page. -/
theorem witness_CueAmendIsAccepted :
    let s := stored .ready
    s.Accepts ∧ rawLines (1#8).toNat [0, 1, 0x42] = some ([⟨0, [0x42]⟩], []) ∧ s.package (5#8).toNat = some (pk .ready)
      ∧ (0#8).toNat = (0 : TextTrack).val ∧ (0 : TextTrack).val < (pk .ready).textCount
      ∧ checkedText 1 0 [⟨0, [0x42]⟩] = some { placement := .top, speaker := none, lines := [⟨.plain, [0x42]⟩] }
      ∧ be [0, 0] < (pk .ready).cues 0 ∧ (pk .ready).cues 0 ≤ be [0, 1] ∧ s.swi = false ∧ s.slot = none
      ∧ s.noAmendPage (pk .ready) = false ∧ (pk .ready).textCount ≤ (1#8).toNat ∧ checkedText 2 0 [⟨0, [0x42]⟩] = none
      ∧ (pk .ready).indexLoc.get 0 = some ⟨1, 1⟩ ∧ (pk .ready).blocks[1 / 64]? = some 9 ∧ s.flight = none
      ∧ up.noAmendPage (pk .ready) = true :=
  ⟨⟨rfl, rfl⟩, by decide +kernel⟩

/-- An index page of two entries, and a track of two index pages. -/
theorem witness_IndexSearch :
    FoundOn [⟨0, 0, 100⟩, ⟨1, 3, 700⟩] 2 none (some ⟨0, 0, 100⟩) ∧ FoundOn [⟨0, 0, 100⟩, ⟨1, 3, 700⟩] 3 none (some ⟨1, 3, 700⟩)
      ∧ FoundOn [⟨1, 3, 700⟩] 2 (some ⟨0, 0, 100⟩) (some ⟨0, 0, 100⟩)
      ∧ indexEntries (min 128 (129 - 128 * 1)) [0, 1, 0, 3, 0, 0, 2, 188] = [⟨1, 3, 700⟩] := by
  refine ⟨⟨fun front en rear h hc hr => ?_, fun h => ?_⟩, ⟨fun front en rear h hc hr => ?_, fun h => ?_⟩,
    ⟨fun front en rear h hc hr => ?_, fun _ => rfl⟩, by decide +kernel⟩
  · rcases front with _ | ⟨a, _ | ⟨b, _ | ⟨c, front⟩⟩⟩ <;> simp at h
    · exact congrArg some h.1
    · obtain ⟨-, rfl, -⟩ := h; simp at hc
  · exact absurd (h _ (.head _)) (by decide)
  · rcases front with _ | ⟨a, _ | ⟨b, _ | ⟨c, front⟩⟩⟩ <;> simp at h
    · obtain ⟨rfl, rfl⟩ := h; exact absurd (hr _ (.head _)) (by decide)
    · exact congrArg some h.2.1
  · exact absurd (h _ (.head _)) (by decide)
  · rcases front with _ | ⟨a, _ | ⟨b, front⟩⟩ <;> simp at h
    obtain ⟨rfl, -⟩ := h; simp at hc

/-- The page that holds the cue, read by the amendment. -/
def patching : State :=
  { working (amending (.readPage ⟨0, 0, 100⟩)) (.readLogical 5 0) 576 with
    flash := [(576, .programmed ⟨.data, 5, 1, 0, 0, 0⟩ (.bytes (cue 0 100 200).stored))] }

theorem witness_AmendmentPatchesAndCommits :
    let s := working (amending (.program 0 0 (cue 0 100 200))) (.program 10 0) 640
    (patching.flight = some ⟨hostRequest (.readLogical 5 0), 576⟩ ∧ patching.hostOp = some (amending (.readPage ⟨0, 0, 100⟩))
      ∧ patching.package 5 = some (pk .ready) ∧ (pageCues (readBytes patching.flash 576))[0 - 0]? = some (cue 0 100 200)
      ∧ (cuesBytes ((pageCues (readBytes patching.flash 576)).set 0
          { cue 0 100 200 with placement := .top, lines := [⟨.plain, [0x42]⟩] })).length ≤ 1024
      ∧ (pk .ready).generation 0 < 255 ∧ patching.swi = false ∧ (∀ r ∈ patching.queue, r.who ≠ .host)
      ∧ ({ pk .ready with map := [⟨0, 3, 255⟩] } : Package).generation 0 = 255)
      ∧ s.hostProgram = some (10, 0) ∧ s.package 5 = some (pk .ready) ∧ s.hostOp = some (amending (.program 0 0 (cue 0 100 200)))
      ∧ ((shown 7 .locked 0 0).aud 7).ctx.pkg = some 5 ∧ (shown 7 .locked 0 0).textOn 7 0 = true ∧ s.swi = false
      ∧ (∃ d ∈ ((panel .r500).eng 9 0).active, d.number = 40) ∧ ((panel .r500).aud 9).air.lastGate = some .opened
      ∧ ((panel .r500).aud 9).air.pend.length < 32
      ∧ (working (amending (.readIndex 0 none)) (.readPosition 5 1) 577).hostOp = some (amending (.readIndex 0 none))
      ∧ (working (amending (.readIndex 0 none)) (.readPosition 5 1) 577).flight = some ⟨hostRequest (.readPosition 5 1), 577⟩
      ∧ (pk .ready).indexLoc.get 0 = some ⟨1, 1⟩ := by decide +kernel

theorem witness_CueReadIsWithheldThenAnswered :
    let s := stored .ready
    let r := { patching with slot := some ⟨.cueRead 5 0 0 (.readPage ⟨0, 0, 100⟩), none⟩, replyBuf := .withheld 0x18 1 }
    s.Accepts ∧ up.package (5#8).toNat = none ∧ s.package (5#8).toNat = some (pk .ready) ∧ s.slot = none ∧ be [0, 0] < (pk .ready).cues 0
      ∧ (pk .ready).textCount ≤ (1#8).toNat ∧ ({ r with slot := some ⟨.cueRead 5 0 0 (.readIndex 0 none), none⟩ } : State).hostOp
        = some (.cueRead 5 0 0 (.readIndex 0 none)) ∧ (pk .ready).indexLoc.get 0 = some ⟨1, 1⟩
      ∧ (stored .failed).package (5#8).toNat = some (pk .failed) ∧ r.flight = some ⟨hostRequest (.readLogical 5 0), 576⟩
      ∧ r.hostOp = some (.cueRead 5 0 0 (.readPage ⟨0, 0, 100⟩)) ∧ r.package 5 = some (pk .ready) ∧ r.replyBuf = .withheld 0x18 1
      ∧ (pageCues (readBytes r.flash 576))[0 - 0]? = some (cue 0 100 200) :=
  ⟨⟨rfl, rfl⟩, by decide +kernel⟩

theorem witness_SwiReleasesTheWaitingStep :
    let s := { erasing with slot := some ⟨.delete 5 9 [] 0, some (.erase 9)⟩, flight := none, swi := true }
    s.slot = some ⟨.delete 5 9 [] 0, some (.erase 9)⟩ ∧ s.flight = none ∧ (∀ h, up.slot = some h → h.waiting = none) :=
  ⟨rfl, rfl, fun _ h => by cases h⟩

/-- A scan at page 0 of block 0, of a page that holds a tag and of an erased one; at the last block; and with two seal pages to read. -/
theorem witness_ScanReadsOnAndEnds :
    let s := State.reset
    let t := { s with flash := [(0, .programmed ⟨.data, 5, 1, 0, 0, 0⟩ (.bytes []))] }
    let sc := { Scan.reset with seals := [⟨5, 9, 3⟩, ⟨6, 10, 0⟩], dir := [pk .abandoned] }
    let e := { s with flight := some ⟨scanRequest (.readSeal 9 3), 579⟩, scan := some sc
                      flash := [(579, .programmed ⟨.seal, 5, 1, 0, 0, 0⟩ (.sealed info #v[1, 0, 0, 0]))] }
    let last := { s with flight := some ⟨scanRequest (.readTag 127 0), 8128⟩ }
    s.flight = some ⟨scanRequest (.readTag 0 0), 0⟩ ∧ s.scan = some .reset ∧ s.queue = []
      ∧ readTag s.flash (pageAddr 0 0) false = .erased ∧ readTag t.flash (pageAddr 0 0) false = .readable ⟨.data, 5, 1, 0, 0, 0⟩
      ∧ last.flight = some ⟨scanRequest (.readTag 127 0), 8128⟩ ∧ readTag last.flash (pageAddr 127 0) false = .erased
      ∧ e.flight = some ⟨scanRequest (.readSeal 9 3), 579⟩ ∧ e.scan = some sc ∧ e.queue = []
      ∧ readSealed e.flash 579 = some (info, #v[1, 0, 0, 0]) ∧ readSealed s.flash 579 = none := by decide +kernel

/-- What a scan has found: a package block with a data, an index and a seal page, and an amend block, both of package 5. -/
def found_ : List ScanBlock :=
  [scannedBlock 9 [.readable ⟨.data, 5, 1, 0, 0, 0⟩, .readable ⟨.index, 5, 1, 0, 0, 0⟩, .readable ⟨.seal, 5, 1, 0, 0, 0⟩, .erased],
    scannedBlock 10 [.readable ⟨.amend, 5, 1, 0, 0, 1⟩, .erased]]

theorem witness_ScanClassifiesAndGathers :
    (∃ first more, ([.unreadable, .readable ⟨.data, 5, 1, 0, 0, 0⟩] : List TagRead) = first :: more)
      ∧ found_.Pairwise (fun a b => a.block < b.block)
      ∧ (∀ b ∈ found_, b.cls = .packageCandidate ∨ b.cls = .amendCandidate →
          (∃ g, TagRead.readable g ∈ b.tags)
            ∧ ∀ g h, TagRead.readable g ∈ b.tags → TagRead.readable h ∈ b.tags → h.pkg = g.pkg ∧ h.serial = g.serial)
      ∧ (scannedPackages found_).map (fun p => (p.id, p.serial, p.blocks, p.amend, p.map)) = [(5, 1, [9], some 10, [⟨0, 0, 1⟩])]
      ∧ sealsToRead found_ (scannedPackages found_) = [⟨5, 9, 2⟩]
      ∧ (sealedPackage found_ info #v[1, 0, 0, 0] ((scannedPackages found_).headD (pk .failed))).indexLoc.get 0 = some ⟨1, 1⟩
      ∧ scannedSerial (scannedPackages found_) = 1 ∧ scannedPackages [] = [] := by
  refine ⟨⟨_, _, rfl⟩, by decide +kernel, fun b hb _ => ?_, by decide +kernel⟩
  simp only [found_, List.mem_cons, List.not_mem_nil, or_false] at hb
  rcases hb with rfl | rfl
  · refine ⟨⟨⟨.data, 5, 1, 0, 0, 0⟩, by decide⟩, fun g h hg hh => ?_⟩
    simp [scannedBlock] at hg hh
    rcases hg with rfl | rfl | rfl <;> rcases hh with rfl | rfl | rfl <;> exact ⟨rfl, rfl⟩
  · refine ⟨⟨⟨.amend, 5, 1, 0, 0, 1⟩, by decide⟩, fun g h hg hh => ?_⟩
    simp [scannedBlock] at hg hh
    subst hg; subst hh; exact ⟨rfl, rfl⟩

/-- The two sides of the holdoff: 24,999 and 25,000 against Pm = 50,000; the eighth mismatch, an unmeasured pulse, a held show and one at D. -/
theorem witness_CandidatesAreJudged :
    let s := (shown 0 .locked 1000 24999).aud 0
    let t := (shown 0 .locked 1000 25000).aud 0
    let m := ((shown 0 .locked 1000 43749).modInput 0 fun u => { u with mismatchRun := 7, armed := true }).aud 0
    let r := ((shown 0 .coasting 1000 20000).modInput 0 fun u => { u with ref := .restarted }).aud 0
    let d := (shown 0 .locked 7199950 50000).aud 0
    s.input.filter = .qualifying ∧ s.ctx.st ≠ .vacant ∧ s.input.ref = .set ∧ s.input.e < s.input.pm / 2 ∧ t.input.filter = .qualifying
      ∧ t.ctx.st = .locked ∧ t.input.pm / 2 ≤ t.input.e ∧ t.ctx.rate = some .fps24 ∧ m.input.e < RateClass.fps24.lo
      ∧ m.input.mismatchRun = 7 ∧ m.input.armed = true ∧ r.input.ref ≠ .set ∧ r.ctx.st = .coasting
      ∧ min (d.ctx.c + d.ctx.adv) d.ctx.duration = d.ctx.duration ∧ ((shown 0 .held 0 50000).aud 0).ctx.st = .held
      ∧ ((shown 0 .finished 0 50000).aud 0).ctx.st = .finished := by decide +kernel

/-- The window of 24 fps runs from 43,750 to 56,250; the show at D finishes, another locks; an unmeasured pulse. -/
theorem witness_AcquisitionGainsLock :
    let s := (shown 0 .acquiring 1000 43750).modCtx 0 fun x => { x with acquire := 2 }
    let d := (shown 0 .acquiring 7199950 56250).modCtx 0 fun x => { x with acquire := 2 }
    let o := (shown 0 .acquiring 1000 56251).aud 0
    let u := ((shown 0 .acquiring 1000 0).modInput 0 fun u => { u with ref := .absent }).aud 0
    (s.aud 0).ctx.st = .acquiring ∧ (s.aud 0).ctx.rate = some .fps24 ∧ (s.aud 0).input.ref = .set ∧ (s.aud 0).input.pm / 2 ≤ (s.aud 0).input.e
      ∧ RateClass.fps24.lo ≤ (s.aud 0).input.e ∧ (s.aud 0).input.filter = .qualifying ∧ 2 ≤ (s.aud 0).ctx.acquire
      ∧ min ((s.aud 0).ctx.c + (s.aud 0).ctx.adv) (s.aud 0).ctx.duration ≠ (s.aud 0).ctx.duration
      ∧ min ((d.aud 0).ctx.c + (d.aud 0).ctx.adv) (d.aud 0).ctx.duration = (d.aud 0).ctx.duration ∧ (d.aud 0).input.e ≤ RateClass.fps24.hi
      ∧ RateClass.fps24.hi < o.input.e ∧ u.ctx.st = .acquiring ∧ u.input.ref ≠ .set ∧ o.ctx.acquire < 2 := by decide +kernel

theorem witness_MissedDeadlineIsAnswered :
    let c := (shown 0 .locked 1000 75000).modCtx 0 fun x => { x with coast := 12 }
    let d := (shown 0 .locked 7199950 75000).modCtx 0 fun x => { x with coast := 12 }
    let last : ShowCtx → Nat := fun x => x.position (3 * 50000 / 2) 50000
    (up.aud 0).input.ref = .absent ∧ ((shown 0 .locked 1000 75000).aud 0).input.ref ≠ .absent
      ∧ ((shown 0 .locked 1000 75000).aud 0).ctx.coast < ((shown 0 .locked 1000 75000).aud 0).ctx.coastLimit
      ∧ (c.aud 0).ctx.coastLimit ≤ (c.aud 0).ctx.coast ∧ ((shown 0 .standby 0 75000).aud 0).ctx.st = .standby
      ∧ ((shown 0 .acquiring 0 75000).aud 0).ctx.st = .acquiring ∧ ((shown 0 .coasting 0 75000).aud 0).ctx.st = .coasting
      ∧ last (c.aud 0).ctx ≠ (c.aud 0).ctx.duration
      ∧ last ((d.modCtx 0 fun x => { x with c := 7200000 }).aud 0).ctx = (d.aud 0).ctx.duration
      ∧ (c.aud 0).ctx.rate = some .fps24 := by decide +kernel

theorem witness_InputsAreFiltered :
    let s := up.modInput 0 fun u => { u with filter := .low }
    let z := s.modInput 0 fun u => { u with wCurrent := 0 }
    let q := up.modInput 0 fun u => { u with filter := .qualifying }
    (s.aud 0).input.filter = .low ∧ (s.aud 0).input.wCurrent ≠ 0 ∧ (up.aud 0).input.filter ≠ .low ∧ (up.aud 0).input.filter ≠ .qualifying
      ∧ (z.aud 0).ctx.st = .vacant ∧ (z.aud 0).input.wCurrent = 0 ∧ (q.aud 0).ctx.st = .vacant ∧ (q.aud 0).input.filter = .qualifying
      ∧ (Taken.active = if (1 : Fin 2) = 1 then Taken.active else .inactive)
      ∧ (Taken.inactive = if (0 : Fin 2) = 1 then Taken.active else .inactive)
      ∧ (up.aud 0).input.auxA.level = false ∧ up.shold.level = false := by decide +kernel

theorem witness_GateSetReplacesTheTable :
    up.Accepts ∧ 15 < (16#8).toNat ∧ (∃ e ∈ [0, 0, 0, 0, 0, 0, 0, (2 : Byte)], 1 < e.toNat) ∧ (15#8).toNat = (15 : Aud).val
      ∧ [0, 0, 0, 0, 1, 1, 1, (1 : Byte)] = defaultGateTable.toList.map (fun x => BitVec.ofNat 8 x.code) :=
  ⟨⟨rfl, rfl⟩, by decide, by decide, by decide, by decide +kernel⟩

/-- A package with an index page to read, and one without. -/
theorem witness_ShowBindTakesThePackage :
    let s := stored .ready
    let on : TrackSetting := ⟨true, 240⟩
    let off : TrackSetting := ⟨false, 0⟩
    s.Accepts ∧ (0#8).toNat = (0 : Aud).val ∧ (s.aud 0).ctx.st = .vacant ∧ s.package (5#8).toNat = some (pk .ready)
      ∧ (pk .ready).state = .ready ∧ (pk .ready).info = some info
      ∧ [settingOf 1 240, settingOf 0 0, settingOf 0 0, settingOf 0 0] = (#v[on, off, off, off] : Vector TrackSetting 4).toList.map some
      ∧ [settingOf 1 240, settingOf 0 0] = (#v[on, off] : Vector TrackSetting 2).toList.map some ∧ (0 : Fin 4).val < info.text.length
      ∧ (0 : Fin 2).val < info.sound.length ∧ info.text.length ≤ (1 : Fin 4).val ∧ 240 < (241#8).toNat
      ∧ ((shown 0 .standby 0 0).aud 0).ctx.st ≠ .vacant ∧ up.package (5#8).toNat = none ∧ s.flight = none
      ∧ (pk .ready).bindReads = ⟨0, 1, 1⟩ :: [] ∧ ({ pk .ready with indexLoc := Vector.replicate 4 none } : Package).bindReads = [] :=
  ⟨⟨rfl, rfl⟩, by decide +kernel⟩

/-- A bind whose last index page is being read. -/
def binding_ : State :=
  { (shown 0 .binding 0 0).modCtx 0 fun x => { x with bindTodo := [⟨0, 1, 1⟩], bindAsked := true } with
    flight := some ⟨{ who := .bind 0, op := .readPosition 5 1, kind := .fetch, need := 0, bindGen := 0, seekCount := 0 }, 577⟩ }

theorem witness_BindReadsFillTheIndex :
    let f : Flight := ⟨{ who := .bind 0, op := .readPosition 5 1, kind := .fetch, need := 0, bindGen := 0, seekCount := 0 }, 577⟩
    let v := { up with flight := some f }
    let old := (binding_.modCtx 0 fun x => { x with bindGen := 1, bindAsked := false }).aud 0
    let two := (binding_.modCtx 0 fun x => { x with bindTodo := [⟨0, 1, 1⟩, ⟨0, 2, 1⟩] }).aud 0
    binding_.flight = some f ∧ (∀ r ∈ binding_.queue, ∀ k, r.who ≠ .engine 0 k) ∧ f.req.who = .bind 0 ∧ (binding_.aud 0).ctx.st = .binding ∧ f.req.bindGen = (binding_.aud 0).ctx.bindGen
      ∧ (binding_.aud 0).ctx.bindTodo = ⟨0, 1, 1⟩ :: [] ∧ (binding_.aud 0).ctx.pkg = some 5 ∧ binding_.package 5 = some (pk .ready)
      ∧ v.flight = some f ∧ (v.aud 0).ctx.st ≠ .binding ∧ old.ctx.st = .binding ∧ f.req.bindGen ≠ old.ctx.bindGen
      ∧ old.ctx.bindAsked = false ∧ two.ctx.bindTodo = ⟨0, 1, 1⟩ :: ⟨0, 2, 1⟩ :: [] := by decide +kernel

theorem witness_ShowUnbindVacates :
    let s := shown 0 .locked 0 0
    up.Accepts ∧ (up.aud 0).ctx.st = .vacant ∧ s.Accepts ∧ (s.aud 0).ctx.st ≠ .vacant ∧ (s.aud 0).ctx.pkg = some 5
      ∧ s.package 5 = some (pk .ready) ∧ (s.aud 0).ctx.st ≠ .binding ∧ (s.aud 0).air.pend.length ≤ 28 ∧ (0#8).toNat = (0 : Aud).val
      ∧ binding_.Accepts ∧ (binding_.aud 0).ctx.st = .binding :=
  ⟨⟨rfl, rfl⟩, by decide +kernel, ⟨rfl, rfl⟩, by decide +kernel, by decide +kernel, by decide +kernel, by decide +kernel,
    by decide +kernel, by decide, ⟨rfl, rfl⟩, by decide +kernel⟩

theorem witness_ShowStartBeginsAcquisition :
    let s := shown 0 .standby 0 0
    s.Accepts ∧ be [0x7F, 0xFF, 0xFF, 0xFF] ≤ 2147483647 ∧ 2147483647 < be [0x80, 0, 0, 0] ∧ (s.aud 0).ctx.st ≠ .vacant
      ∧ (s.aud 0).ctx.st ≠ .binding ∧ (s.aud 0).ctx.rate = some .fps24 ∧ s.textOn 0 0 = true ∧ (s.play 0 0).state = .off
      ∧ (stream 0 [] 0).play 3 0 ≠ .reset ∧ ((stream 0 [] 0).play 3 0).state ≠ .off ∧ (s.aud 0).air.pend.length ≤ 28 :=
  ⟨⟨rfl, rfl⟩, by decide +kernel⟩

/-- At P = 1,000 with T = 50 and a window of 300: differences of 50, 51, 300 and 301; and P = D. -/
theorem witness_PositionReportIsApplied :
    let s := shown 0 .locked 1000 0
    let d := shown 0 .locked 7200000 0
    s.Accepts ∧ s.position 0 = 1000 ∧ ((s.aud 0).ctx.ticks, (s.aud 0).ctx.slewWindow * (s.aud 0).ctx.ticks) = (50, 300)
      ∧ ((be [0, 0, 4, 26] : Nat) - 1000 : Int).natAbs = 50 ∧ ((be [0, 0, 4, 27] : Nat) - 1000 : Int).natAbs = 51
      ∧ ((be [0, 0, 5, 20] : Nat) - 1000 : Int).natAbs = 300 ∧ ((be [0, 0, 5, 21] : Nat) - 1000 : Int).natAbs = 301
      ∧ (s.aud 0).ctx.st = .locked ∧ s.position 0 ≠ (s.aud 0).ctx.duration ∧ d.position 0 = (d.aud 0).ctx.duration
      ∧ ((shown 0 .held 0 0).aud 0).ctx.st = .held ∧ ((shown 0 .finished 0 0).aud 0).ctx.st = .finished :=
  ⟨⟨rfl, rfl⟩, by decide +kernel⟩

/-- Track 0 enabled, track 1 of a package of two text tracks not. -/
theorem witness_TrackSetIsRecorded :
    let s := shown 0 .locked 1000 0
    let o := (s.modCtx 0 fun x => { x with textCount := 2 }).aud 0
    s.Accepts ∧ (0#8).toNat = (0 : Aud).val ∧ settingOf 0 240 = some ⟨false, 240⟩ ∧ settingOf 1 241 = none ∧ (s.aud 0).ctx.st ≠ .vacant
      ∧ settingOf 1 240 = some ⟨true, 240⟩ ∧ (0 : TextTrack).val < (s.aud 0).ctx.textCount
      ∧ (s.aud 0).ctx.textCount ≤ (1 : TextTrack).val ∧ (s.aud 0).air.pend.length < 32
      ∧ ((s.aud 0).ctx.text.get 0).enabled = true ∧ (1 : TextTrack).val < o.ctx.textCount ∧ (o.ctx.text.get 1).enabled = false
      ∧ (0 : SoundTrack).val < (s.aud 0).ctx.soundCount ∧ (s.aud 0).ctx.soundCount ≤ (1 : SoundTrack).val
      ∧ ((stream 0 [] 0).play 3 0).enabled = true ∧ (s.play 0 0).enabled = false ∧ ((up.aud 0).ctx.sound.get 0).enabled = false
      ∧ s.position 0 ≠ (s.aud 0).ctx.duration ∧ (shown 0 .locked 7200000 0).position 0 = (s.aud 0).ctx.duration
      ∧ (up.aud 0).ctx.st = .vacant :=
  ⟨⟨rfl, rfl⟩, by decide +kernel⟩

theorem witness_ShowStatusReports :
    let s := shown 0 .locked 1000 0
    s.Accepts ∧ (0#8).toNat = (0 : Aud).val ∧ 15 < (16#8).toNat
      ∧ ¬((s.aud 0).ctx.st.running = true ∧ s.position 0 = (s.aud 0).ctx.duration)
      ∧ ((shown 0 .locked 7200000 0).aud 0).ctx.st.running = true
      ∧ (shown 0 .locked 7200000 0).position 0 = ((shown 0 .locked 7200000 0).aud 0).ctx.duration
      ∧ (s.aud 0).ctx.pkg = some 5 ∧ (s.aud 0).ctx.rate = some .fps24 ∧ (up.aud 0).ctx.pkg = none ∧ (up.aud 0).ctx.rate = none :=
  ⟨⟨rfl, rfl⟩, by decide +kernel⟩

/-- A track engine of auditorium 0 with a read in flight. -/
def reading (kind : ReadKind) (e : TrackEngine) : State :=
  { (shown 0 .locked 1000 0).modEng 0 0 fun _ => { e with cueCount := 1, index := [⟨0, 0, 100⟩], out := some ⟨kind, true⟩ } with
    flight := some ⟨{ who := .engine 0 0, op := .readLogical 5 0, kind := kind, need := 100, bindGen := 0, seekCount := 0 }, 576⟩
    flash := [(576, .programmed ⟨.data, 5, 1, 0, 0, 0⟩ (.bytes (cue 0 100 2000).stored))] }

/-- A fetch and a seek that match and a fetch that does not; the page read ends the seek, or, with an entry left, the seek goes on. -/
theorem witness_EngineReadsAreTaken :
    let f := reading .fetch { TrackEngine.reset with state := .running }
    let k := reading .seek { TrackEngine.reset with state := .seeking, seekPos := 1024, seek := some ⟨[], [], 0⟩ }
    let x := reading .fetch { TrackEngine.reset with state := .waiting }
    let more := (k.modEng 0 0 fun e => { e with cueCount := 2, index := [⟨0, 0, 100⟩, ⟨1, 1, 5000⟩] }).eng 0 0
    let cues := pageCues (readBytes k.flash 576)
    (f.flight.map fun r => (r.req.who, r.req.bindGen, r.req.seekCount))
        = some (.engine 0 0, (f.aud 0).ctx.bindGen, (f.eng 0 0).seekCount) ∧ (f.eng 0 0).state = .running ∧ f.queue = []
      ∧ (f.eng 0 0).entryOf (f.eng 0 0).cursor = some 0 ∧ (f.eng 0 0).index[0 + 1]? = none
      ∧ (k.flight.map fun r => (r.req.kind, r.req.bindGen, r.req.seekCount))
        = some (.seek, (k.aud 0).ctx.bindGen, (k.eng 0 0).seekCount)
      ∧ (k.eng 0 0).state = .seeking ∧ (k.eng 0 0).seek = some ⟨[], [], 0⟩
      ∧ cues = [cue 0 100 2000] ++ [] ∧ (cue 0 100 2000).startTick ≤ 1024 ∧ 1024 < (cue 0 100 2000).endTick
      ∧ (k.eng 0 0).index[0]? = some ⟨0, 0, 100⟩ ∧ (k.eng 0 0).index[0 + 1]? = none ∧ more.index[0 + 1]? = some ⟨1, 1, 5000⟩
      ∧ (x.flight.map (·.req.kind)) = some .fetch ∧ (x.eng 0 0).state ≠ .running ∧ (x.eng 0 0).state ≠ .seeking := by decide +kernel

/-- At q = 1,024: an active cue that is over and one that is not, a queued cue that is over and one that is due; four active cues, all live; and
an engine whose queue is empty with a read outstanding. -/
theorem witness_ReleaseCheckReleasesDueCues :
    let e := { TrackEngine.reset with
      state := .running, cueCount := 9, cursor := 4, active := [cue 0 100 1024, cue 1 200 1025]
      look := [cue 2 900 1000, cue 3 1024 5000] }
    let s := (shown 0 .locked 1000 0).modEng 0 0 fun _ => e
    let full := (List.range 4).map fun i => cue i (100 + i) 5000
    let starving := { e with look := [], out := some ⟨.fetch, true⟩, cursorStart := some 1024 }
    (s.eng 0 0).state = .running ∧ 1000 + ((s.aud 0).ctx.text.get 0).lead = 1024
      ∧ e.active.filter (fun c => decide (1024 < c.endTick)) = [cue 1 200 1025]
      ∧ e.look.takeWhile (fun c => decide (c.startTick ≤ 1024)) = [cue 2 900 1000, cue 3 1024 5000]
      ∧ ([cue 2 900 1000, cue 3 1024 5000].filter fun c => decide (c.endTick ≤ 1024)).getLast? = some (cue 2 900 1000)
      ∧ ([cue 2 900 1000, cue 3 1024 5000].filter fun c => decide (1024 < c.endTick)) = [cue 3 1024 5000]
      ∧ (s.aud 0).air.pend.length + 1 ≤ 32 ∧ full.filter (fun c => decide (1024 < c.endTick)) = full ∧ full.length = 4
      ∧ starving.out ≠ none ∧ (up.eng 0 0).state ≠ .running := by decide +kernel

/-- z at 984 with its target at 1,056 and at 1,080: 72 ticks of lag are no skip, 96 are; a slot with its block, and one without. -/
theorem witness_SlotServiceServesTheGrid :
    let s := stream 984 [1008, 1056] 1032
    let b : Build := { acct := 18, budget := 593, items := [] }
    (s.play 3 0).state = .serving ∧ (s.play 3 0).z = some 984 ∧ 24 * ((1032 + (s.play 3 0).lead) / 24) = 1056 ∧ ¬((984 : Int) + 72 < 1056)
      ∧ 24 * ((1056 + (s.play 3 0).lead) / 24) = 1080 ∧ (984 : Int) + 72 < 1080 ∧ (984 : Int) = ((1008 : Nat) : Int) - 24 ∧ 1008 ≤ 1056
      ∧ ((s.play 3 0).queue.find? fun x => decide (x.stamp = 1008)) = some ⟨1008, List.replicate 160 0⟩
      ∧ ((s.play 3 0).queue.find? fun x => decide (x.stamp = 1032)) = none
      ∧ b.acct + (Item.sound 0 1008 (List.replicate 160 0)).size ≤ b.budget
      ∧ 593 < 593 + (Item.gap 0 1032).size ∧ (up.play 3 0).state ≠ .serving := by decide +kernel

theorem witness_SoundCommandsAreAnswered :
    let s := stream 984 [1008] 1000
    s.Accepts ∧ be [0, 0, 0x04, 0x08] = 1032 ∧ (3#8).toNat = (3 : Aud).val ∧ (0#8).toNat = (0 : SoundTrack).val ∧ (s.aud 3).ctx.st = .locked
      ∧ (0 : SoundTrack).val < (s.aud 3).ctx.soundCount ∧ ((s.aud 3).ctx.sound.get 0).enabled = true ∧ 1032 % 24 = 0
      ∧ (s.play 3 0).z = some 984 ∧ (984 : Int) ≤ 984 ∧ (∃ b ∈ (s.play 3 0).queue, b.stamp = 1008)
      ∧ (∀ b ∈ (s.play 3 0).queue, b.stamp ≠ 1032) ∧ (s.play 3 0).queue.length < 64
      ∧ 64 ≤ ((stream 984 ((List.range 64).map fun k => 1008 + 24 * k) 1000).play 3 0).queue.length
      ∧ (up.aud 0).ctx.st = .vacant ∧ (s.aud 3).ctx.soundCount ≤ (1 : SoundTrack).val :=
  ⟨⟨rfl, rfl⟩, by decide +kernel⟩

theorem witness_SettingsAreStaged :
    let l : LineSettings := { LineSettings.reset with p := 12, w := 12 }
    up.Accepts ∧ (15#8).toNat = (15 : Aud).val ∧ (48#8).toNat ≤ 48 ∧ 48 < (49#8).toNat ∧ (up.aud 15).input.ref = .absent
      ∧ ((shown 0 .locked 0 0).aud 0).input.ref ≠ .absent ∧ (2#8).toNat = BitRate.r1000.code ∧ (250#8).toNat ≤ 250
      ∧ BitRate.r1000.maxPeriod < (up.aud 15).emit.staged.p ∧ (up.aud 15).emit.staged.p ≤ BitRate.r500.maxPeriod
      ∧ [0, 1, 0, 1, 0, 0, 12, 0, (12 : Byte)] = l.bytes ∧ l.p = be [0, 12] ∧ l.w = be [0, 12] ∧ 4 ≤ l.p ∧ l.p ≤ 1023 ∧ l.w ≤ l.p
      ∧ l.p ≤ (up.aud 15).air.staged.rate.maxPeriod ∧ (up.aud 15).emit.state = .disabled
      ∧ (let p := (panel .r500).modEmit 9 fun u => { u with state := .latchedOff, demand := true }
         (p.aud 9).emit.state = .latchedOff ∧ (p.aud 9).emit.demand = true ∧ (p.aud 9).ctx.st = .locked
           ∧ (p.aud 9).air.lastGate = some .opened ∧ (p.eng 9 0).state = .running
           ∧ (p.aud 9).air.pend.length + (1 + (p.eng 9 0).active.length) ≤ 32) :=
  ⟨⟨rfl, rfl⟩, by decide +kernel⟩

theorem witness_AnnouncementsStartAndEnd :
    let s := up.modAir 0 fun a => { a with ann := .active [0x41] 50 0 none 1, pend := List.replicate 32 (.clear 0) }
    up.Accepts ∧ be [0x80, 0x01] ≠ 0 ∧ (be [0x80, 0x01]).testBit 15 = true ∧ (be [0x80, 0x01]).testBit 14 = false
      ∧ (List.replicate 120 (0x41 : Byte)).length ≤ 120 ∧ (50#8).toNat ≤ 50 ∧ be [0x02, 0x58] ≤ 600 ∧ 600 < be [0x02, 0x59] ∧ s.Accepts
      ∧ (s.aud 0).air.ann.isActive = true ∧ 32 ≤ (s.aud 0).air.pend.length :=
  ⟨⟨rfl, rfl⟩, by decide, by decide +kernel, by decide +kernel, by decide +kernel, by decide, by decide, by decide, ⟨rfl, rfl⟩, by decide +kernel⟩

/-- 575 bytes are the last item that fits an empty frame at 250 kbit/s. -/
theorem witness_FramesFitTheBudget :
    let b : Build := { acct := 18, budget := BitRate.r250.budget, items := [] }
    b.acct + (Item.announce 1 0 (List.replicate 567 0)).size ≤ b.budget ∧ b.budget < b.acct + (Item.announce 1 0 (List.replicate 568 0)).size
      ∧ (up.buildFrame 0 .beacon).2.length = 18 := by decide +kernel

/-- A list of which the first event fits and the second does not; a carousel of chapter 7's cues. -/
theorem witness_EventsAndRepeatsArePacked :
    let s := up.modAir 9 fun a => { a with pend := [.clear 0, .cueOn 0 (sized 40 100 70)] }
    let b : Build := { acct := 540, budget := 593, items := [] }
    (s.packPending 9 .opened b).2.acct = 544 ∧ ((s.packPending 9 .opened b).1.aud 9).air.pend = [.cueOn 0 (sized 40 100 70)]
      ∧ ((panel .r250).runCarousel 9 { b with acct := 408 }).2.acct = 566
      ∧ (((panel .r250).runCarousel 9 { b with acct := 408 }).1.aud 9).air.carousel = 2 := by decide +kernel

/-- A life of 2 and of 1, a due announcement, a frame of each kind, and a show whose gate has just opened. -/
theorem witness_FrameBuildRunsItsStages :
    let a : Nat → AnnSlot := fun life => .active [0x41] 50 0 (some life) 7
    let i := up.modAir 0 fun x => { x with ann := a 2 }
    let c := up.modAir 0 fun x => { x with pend := [.clear 0] }
    let g := (panel .r500).modAir 9 fun x => { x with lastGate := some .closed }
    (i.aud 0).air.ann = .active [0x41] 50 0 (some 2) 7 ∧ a 1 = .active [0x41] 50 0 (some 1) 7 ∧ (i.aud 0).ctx.st.framed = false
      ∧ (i.aud 0).air.ann.isActive = true ∧ 18 + (8 + 1) ≤ (i.aud 0).air.current.rate.budget
      ∧ (c.aud 0).ctx.st.framed = false ∧ (c.aud 0).air.ann.isActive = false ∧ (c.aud 0).air.pend ≠ []
      ∧ (up.aud 0).air.current.idle ≤ 49 + 1 ∧ (up.aud 0).air.beacon + 1 < (up.aud 0).air.current.idle
      ∧ ((panel .r500).aud 9).ctx.st.framed = true ∧ (g.aud 9).input.gate = .opened ∧ (g.aud 9).air.lastGate ≠ some .opened := by decide +kernel

theorem witness_CycleExpiryBuildsAndHandsOver :
    let b := up.modAir 0 fun a => { a with beacon := 49 }
    let s := shown 0 .locked 1000 0
    let k := s.modEmit 0 fun u => { u with state := .cooling }
    (up.aud 0).ctx.st.framed = false ∧ (up.aud 0).air.ann.isActive = false ∧ (up.aud 0).air.pend = []
      ∧ (up.aud 0).air.beacon + 1 < (up.aud 0).air.staged.idle ∧ (b.aud 0).air.staged.idle ≤ (b.aud 0).air.beacon + 1
      ∧ (s.aud 0).ctx.st.framed = true ∧ (s.aud 0).emit.state = .disabled ∧ (k.aud 0).emit.state = .cooling
      ∧ ((panel .r500).aud 9).emit.state = .active ∧ ((panel .r500).aud 9).emit.tx = none ∧ ((panel .r500).aud 9).emit.oc = false
      ∧ (((panel .r500).modEmit 9 fun u => { u with oc := true }).aud 9).emit.oc = true
      ∧ (((panel .r500).modEmit 9 fun u => { u with tx := some ⟨⟨0, 9, 40, 0, 18, 0, 0, 0, []⟩, .r500, .reset, 0⟩ }).aud 9).emit.tx ≠ none := by
  decide +kernel

theorem witness_EmitterEventsMoveTheState :
    let x : Transmission := ⟨⟨0, 0, 40, 0, 18, 0, 0, 0, []⟩, .r500, .reset, 0⟩
    let s := (shown 0 .locked 1000 0).modEmit 0 fun u => { u with state := .active, retry := 2, tx := some x }
    let l := s.modEmit 0 fun u => { u with retry := 3 }
    let c := (shown 0 .locked 1000 0).modEmit 0 fun u => { u with state := .cooling, demand := true }
    (up.aud 0).emit.tx = none ∧ (s.aud 0).emit.tx = some x ∧ (s.aud 0).emit.state = .active ∧ (s.aud 0).emit.retry < 3
      ∧ 3 ≤ (l.aud 0).emit.retry ∧ (c.aud 0).emit.state = .cooling ∧ (c.aud 0).emit.demand = true ∧ (c.aud 0).ctx.st.framed = true
      ∧ (c.aud 0).air.pend = [] := by decide +kernel

theorem witness_EveryStepKeepsTheNotices : noted.NoticesOk ∧ step noted = .next (after (step noted)) :=
  ⟨by unfold State.NoticesOk; decide +kernel, rfl⟩

theorem witness_EveryStepKeepsTheStore :
    let s := { erasing with pending := [.deleteEraseDone true] }
    s.FlashOk ∧ s.DirectoryOk ∧ s.QueueOk ∧ step s = .next (after (step s)) ∧ State.reset.StartingOk
      ∧ step State.reset = .next (after (step State.reset)) :=
  ⟨rfl, ⟨⟨by decide +kernel, by decide +kernel⟩, fun sc h => by cases h⟩, by unfold State.QueueOk; decide +kernel, rfl,
    ⟨by decide +kernel, fun _ => ⟨rfl, rfl, rfl, by decide +kernel⟩⟩, rfl⟩

/-- A running show that coasts, a queue of two blocks and an emitter that transmits. -/
def lively : State :=
  { ((stream 984 [1008, 1032] 1000).modInput 3 fun u => { u with e := 75000 }).modEmit 3 fun u =>
      { u with state := .active, tx := some ⟨⟨0, 3, 40, 0, 18, 0, 0, 0, []⟩, .r500, .reset, 0⟩ } with
    pending := [.missingPulseDeadline 3] }

/-- The bounds of a show at a rate, spelled out for decision. -/
theorem lively_shows : lively.ShowsOk := by
  have h : ∀ n, (lively.aud n).ctx.c ≤ (lively.aud n).ctx.duration ∧ (lively.aud n).ctx.coast ≤ 48 ∧ (lively.aud n).ctx.coastLimit ≤ 48
      ∧ (lively.aud n).ctx.coastLimitStaged ≤ 48 ∧ (lively.aud n).ctx.slewWindow ≤ 48 ∧ (lively.aud n).ctx.slewWindowStaged ≤ 48
      ∧ (lively.aud n).ctx.k.natAbs ≤ 2400 ∧ ((lively.aud n).ctx.st ≠ .vacant → (lively.aud n).ctx.rate.isSome = true)
      ∧ ((lively.aud n).ctx.rate = none
        ∨ ((lively.aud n).ctx.rate = some .fps24 ∧ (lively.aud n).ctx.adv = 50 ∧ (lively.aud n).input.pm = 50000)) := by decide +kernel
  intro n
  obtain ⟨h1, h2, h3, h4, h5, h6, h7, h9, h8⟩ := h n
  refine ⟨h1, h2, h3, h4, h5, h6, h7, h9, fun r hr => ?_⟩
  rcases h8 with h8 | ⟨h8, h9, h10⟩
  · rw [h8] at hr; cases hr
  · rw [h8] at hr; cases hr; rw [h9, h10]; decide

theorem witness_EveryStepKeepsTheShowBounds : lively.ShowsOk ∧ step lively = .next (after (step lively)) := ⟨lively_shows, rfl⟩

/-- A fetch in flight of the one page of package 5. -/
def fetching : State := reading .fetch { TrackEngine.reset with state := .running, cursorStart := some 100 }

/-- Its engines are in order, and its page is what the page index says. -/
theorem fetching_engines : fetching.EnginesOk ∧ fetching.DeliversItsPage := by
  have h : ∀ n t, (fetching.eng n t).look = [] ∧ (fetching.eng n t).active = [] ∧ (fetching.eng n t).seek = none := by decide +kernel
  have o : ∀ n t, fetching.textOn n t = false ∨ (fetching.aud n).ctx.st = .vacant ∨ (fetching.aud n).ctx.st = .binding →
      (fetching.eng n t).state = .off := by decide +kernel
  refine ⟨fun n t => ⟨fun _ => ?_, fun k => ⟨o n t k, (h n t).1, (h n t).2.1, (h n t).2.2⟩⟩, fun f n t hf hw _ => ?_⟩
  · unfold TrackEngine.CuesOk
    rw [(h n t).1, (h n t).2.1, (h n t).2.2]
    exact ⟨by decide, .nil, .nil, (fun _ k => by cases k), (fun _ k => by cases k), fun _ k => by cases k⟩
  · cases hf
    cases hw
    refine ⟨fun _ => ⟨0, by decide +kernel, ?_⟩, fun k => by cases k⟩
    refine ⟨⟨0, 0, 100⟩, by decide +kernel, by decide +kernel, by decide +kernel, by decide +kernel, fun next hn => ?_⟩
    have : (fetching.eng 0 0).index[0 + 1]? = none := by decide +kernel
    rw [this] at hn; cases hn

theorem witness_EveryStepKeepsTheQueuesBounded : lively.EventsWithin ∧ lively.PlayoutsOk ∧ step lively = .next (after (step lively))
    ∧ fetching.EnginesOk ∧ fetching.DeliversItsPage ∧ step fetching = .next (after (step fetching)) := by
  have h : ∀ n t, (lively.eng n t).active = [] ∧ (lively.eng n t).seek = none ∧ (lively.aud n).air.pend = [] := by decide +kernel
  have k : ∀ n t, (lively.play n t).queue.length ≤ 64 ∧ (lively.play n t).queue.Pairwise (fun b c => b.stamp < c.stamp)
      ∧ (∀ b ∈ (lively.play n t).queue, b.stamp % 24 = 0)
      ∧ ((lively.play n t).z = none ∨ ((lively.play n t).z = some 984 ∧ ∀ b ∈ (lively.play n t).queue, (984 : Int) < b.stamp)) := by
    decide +kernel
  refine ⟨fun n => ⟨?_, fun t => ⟨?_, fun x hx => ?_⟩⟩, fun n t => ?_, rfl, fetching_engines.1, fetching_engines.2, rfl⟩
  · rw [(h n 0).2.2]; decide
  · change (lively.eng n t).active.length ≤ 4; rw [(h n t).1]; decide
  · change (lively.eng n t).seek = some x at hx; rw [(h n t).2.1] at hx; cases hx
  · obtain ⟨h1, h2, h3, h4⟩ := k n t
    refine ⟨h1, h2, h3, fun z hz => ?_⟩
    rcases h4 with h4 | ⟨h4, h5⟩
    · rw [h4] at hz; cases hz
    · rw [h4] at hz; cases hz; exact ⟨by decide, by decide, h5⟩

theorem witness_EveryStepKeepsTheLinesReleased : lively.EmittersOk ∧ step lively = .next (after (step lively))
    ∧ (lively.aud 0).emit.state ≠ .active ∧ (lively.aud 3).emit.tx ≠ none
    ∧ exec (.emitterSet 1 [3, 1, 0, 1, 0, 1, 0, 0, 12, 0, 6]) lively
        = .next (after (exec (.emitterSet 1 [3, 1, 0, 1, 0, 1, 0, 0, 12, 0, 6]) lively)) :=
  ⟨by unfold State.EmittersOk; decide +kernel, rfl, by decide +kernel, by decide +kernel, rfl⟩

theorem witness_PositionNeverRunsBack : lively.ShowsOk ∧ step lively = .next (after (step lively))
    ∧ (∀ i rest, lively.pending = i :: rest → (¬ ∃ tag body, i = .showStart tag body ∨ i = .positionReport tag body)
      ∧ (∀ sent, i ≠ .readLinkStatus 0x01 sent) ∧ ∀ b, i ≠ .uartSyncByteReceived b true)
    ∧ (lively.aud 3).ctx.st ≠ .vacant ∧ ((after (step lively)).aud 3).ctx.st ≠ .vacant
    ∧ decodeFrame [0xA7, 0x00, 0x00, 0x01, 0x11, 0xB5, 0xE1] = .partInfo 0x11 [] :=
  ⟨lively_shows, rfl, (fun i rest h => by cases h; exact ⟨(fun ⟨_, _, k⟩ => by cases k <;> contradiction), (fun _ k => by cases k),
    (fun _ k => by cases k)⟩), by decide +kernel, by decide +kernel, by decide +kernel⟩

/-- A read in flight of a track engine, a bind, and of the scan (its tags and its seal pages), as the last clause of RequestsAreRanked has them. -/
theorem witness_RequestsAreRanked_reads :
    let e := { State.reset with flight := some ⟨scanRequest (.readSeal 9 3), 579⟩ }
    (fetching.flight.map fun f => (f.req.kind, f.req.who)) = some (.fetch, .engine 0 0) ∧ (binding_.flight.map (·.req.who)) = some (.bind 0)
      ∧ (State.reset.flight.map fun f => (f.req.who, f.req.op)) = some (.scan, .readTag 0 0) ∧ State.reset.scan ≠ none
      ∧ (e.flight.map fun f => (f.req.who, f.req.op)) = some (.scan, .readSeal 9 3) ∧ e.scan ≠ none := by decide +kernel

theorem witness_EventsKeepWhatIsNotTheirs :
    let f := reading .fetch { TrackEngine.reset with state := .running }
    (∃ level, Instr.missingPulseDeadline 3 ∈ [Instr.framePulseRisingEdge 3, .missingPulseDeadline 3, .overcurrentFault 3 level])
      ∧ exec (.missingPulseDeadline 3) lively = .next (after (exec (.missingPulseDeadline 3) lively)) ∧ (0 : Aud) ≠ 3
      ∧ exec (.deleteEraseDone true) erasing = .next (after (exec (.deleteEraseDone true) erasing))
      ∧ (∃ errs, Instr.fetchReadDone 0 = .fetchReadDone errs ∨ Instr.fetchReadDone 0 = .seekReadDone errs)
      ∧ exec (.fetchReadDone 0) f = .next (after (exec (.fetchReadDone 0) f)) ∧ (f.flight.map (·.req.who)) = some (.engine 0 0)
      ∧ exec (.bindIndexReadDone 0) binding_ = .next (after (exec (.bindIndexReadDone 0) binding_))
      ∧ (binding_.flight.map (·.req.who)) = some (.bind 0) :=
  ⟨⟨true, by decide⟩, rfl, by decide, rfl, ⟨0, .inl rfl⟩, rfl, rfl, rfl, rfl⟩

theorem witness_CommandsKeepWhatIsNotTheirs :
    (Instr.showStart 1 [3, 0, 0, 0, 0]).frameParts = some (0x34, 1, [3, 0, 0, 0, 0]) ∧ (3#8).toNat = (3 : Aud).val
      ∧ exec (.showStart 1 [3, 0, 0, 0, 0]) lively = .next (after (exec (.showStart 1 [3, 0, 0, 0, 0]) lively))
      ∧ (Instr.packageDelete 1 [5]).frameParts = some (0x13, 1, [5]) ∧ (Instr.announceCancel 1 [0, 1]).frameParts = some (0x52, 1, [0, 1]) :=
  ⟨rfl, by decide, rfl, rfl, rfl⟩

theorem witness_FramesDecodeToTheirCommand :
    (Instr.partInfo 0x11 []).wellFormed = true ∧ encodeFrame (.partInfo 0x11 []) = some [0xA7, 0x00, 0x00, 0x01, 0x11, 0xB5, 0xE1]
      ∧ (0xA6 : Byte) ≠ 0xA7 := by decide +kernel

end Sys2Proof.Tests
end

/-! ## What an operation of one track engine changes, and what it keeps (chapter 5) -/

namespace Sys2Proof.Machine

/-! ### Predicates on one engine -/

/-- The cues of an engine are in order where its page index is. -/
def TrackEngine.Orderly (e : TrackEngine) : Prop := e.IndexOk → e.CuesOk

/-- An engine that is OFF and holds no cue. -/
def TrackEngine.Silent (e : TrackEngine) : Prop := e.state = .off ∧ e.look = [] ∧ e.active = [] ∧ e.seek = none

/-- The active set and the overlap collection within 4 cues. -/
def TrackEngine.Bounded (e : TrackEngine) : Prop :=
  e.active.length ≤ activeLimit ∧ ∀ k, e.seek = some k → k.overlap.length ≤ activeLimit

/-- A show state in which the engines of enabled tracks work. -/
def ShowState.Live (st : ShowState) : Prop := st ≠ .vacant ∧ st ≠ .binding

theorem enginesOk_iff (s : State) : s.EnginesOk ↔ ∀ n t, (s.eng n t).Orderly
    ∧ (s.textOn n t = false ∨ ¬ (s.aud n).ctx.st.Live → (s.eng n t).Silent) := by
  have live (st : ShowState) : ¬ st.Live ↔ st = .vacant ∨ st = .binding := by
    unfold ShowState.Live; tauto
  simp only [State.EnginesOk, TrackEngine.Orderly, TrackEngine.Silent, live]

theorem eventsWithin_iff (s : State) : s.EventsWithin ↔ ∀ n, (s.aud n).air.pend.length ≤ pendingLimit ∧ ∀ t, (s.eng n t).Bounded :=
  Iff.rfl

/-- Two engines that differ at most in the outstanding read, the seek count, the cursor start, the starved flag and the counts. -/
structure TrackEngine.Alike (e e' : TrackEngine) : Prop where
  state : e'.state = e.state
  cueCount : e'.cueCount = e.cueCount
  index : e'.index = e.index
  cursor : e'.cursor = e.cursor
  look : e'.look = e.look
  active : e'.active = e.active
  seekPos : e'.seekPos = e.seekPos
  seek : e'.seek = e.seek

namespace TrackEngine.Alike

variable {e e' e'' : TrackEngine}

theorem refl (e : TrackEngine) : e.Alike e := ⟨rfl, rfl, rfl, rfl, rfl, rfl, rfl, rfl⟩

theorem of_eq (h : e' = e) : e.Alike e' := h ▸ refl e

theorem trans (h : e.Alike e') (k : e'.Alike e'') : e.Alike e'' where
  state := k.state.trans h.state
  cueCount := k.cueCount.trans h.cueCount
  index := k.index.trans h.index
  cursor := k.cursor.trans h.cursor
  look := k.look.trans h.look
  active := k.active.trans h.active
  seekPos := k.seekPos.trans h.seekPos
  seek := k.seek.trans h.seek

theorem orderly (h : e.Alike e') (k : e.Orderly) : e'.Orderly := by
  simpa only [Orderly, IndexOk, CuesOk, firstFrom, h.cueCount, h.index, h.cursor, h.look, h.active, h.seekPos, h.seek] using k

theorem silent (h : e.Alike e') (k : e.Silent) : e'.Silent := by
  simpa only [Silent, h.state, h.look, h.active, h.seek] using k

theorem bounded (h : e.Alike e') (k : e.Bounded) : e'.Bounded := by
  simpa only [Bounded, h.active, h.seek] using k

end TrackEngine.Alike

/-! ### The frame of an engine's operation -/

/-- `s'` differs from `s` at most in the engine of track `t` of auditorium `n`, in that auditorium's lines and air, in the notices and in the
store's requests; the request queue is kept. -/
structure EngineFrame (n : Aud) (t : TextTrack) (s s' : State) : Prop where
  only : OnlyAud n s s'
  ctx : (s'.aud n).ctx = (s.aud n).ctx
  sound : (s'.aud n).sound = (s.aud n).sound
  others : ∀ u, u ≠ t → s'.eng n u = s.eng n u
  queue : s.QueueOk → s'.QueueOk

namespace EngineFrame

variable {n : Aud} {t : TextTrack} {s s' s'' : State}

theorem trans (h : EngineFrame n t s s') (k : EngineFrame n t s' s'') : EngineFrame n t s s'' where
  only := h.only.trans k.only
  ctx := k.ctx.trans h.ctx
  sound := k.sound.trans h.sound
  others := fun u hu => (k.others u hu).trans (h.others u hu)
  queue := k.queue ∘ h.queue

/-- The rest of the state as it was, the auditoriums among it. -/
theorem of_auds (only : OnlyAud n s s') (auds : s'.auds = s.auds) (queue : s.QueueOk → s'.QueueOk) : EngineFrame n t s s' where
  only := only
  ctx := by simp only [State.aud, auds]
  sound := by simp only [State.aud, auds]
  others := fun u _ => by simp only [State.eng, State.aud, auds]
  queue := queue

theorem ctx_all (h : EngineFrame n t s s') (m : Aud) : (s'.aud m).ctx = (s.aud m).ctx := by
  by_cases hm : m = n
  · subst hm; exact h.ctx
  · rw [h.only.auds m hm]

theorem textOn (h : EngineFrame n t s s') (m : Aud) (u : TextTrack) : s'.textOn m u = s.textOn m u := by
  simp only [State.textOn, h.ctx_all]

theorem play (h : EngineFrame n t s s') (m : Aud) (u : SoundTrack) : s'.play m u = s.play m u := by
  by_cases hm : m = n
  · subst hm; simp only [State.play, h.sound]
  · simp only [State.play, h.only.auds m hm]

theorem eng_other (h : EngineFrame n t s s') {m : Aud} {u : TextTrack} (hm : (m, u) ≠ (n, t)) : s'.eng m u = s.eng m u := by
  by_cases hn : m = n
  · subst hn; exact h.others u (fun e => hm (by rw [e]))
  · simp only [State.eng, h.only.auds m hn]

/-- The engines keep their laws where the engine at work does: its cues in order, and silent if it has to be. -/
theorem engines (h : EngineFrame n t s s') (cues : (s.eng n t).Orderly → (s'.eng n t).Orderly)
    (silent : s.textOn n t = false ∨ ¬ (s.aud n).ctx.st.Live → (s.eng n t).Silent → (s'.eng n t).Silent) (k : s.EnginesOk) :
    s'.EnginesOk := by
  rw [enginesOk_iff] at k ⊢
  intro m u
  rw [h.textOn, h.ctx_all]
  by_cases hm : (m, u) = (n, t)
  · obtain ⟨rfl, rfl⟩ := Prod.mk.inj hm
    exact ⟨cues (k m u).1, fun hs => silent hs ((k m u).2 hs)⟩
  · rw [h.eng_other hm]; exact k m u

end EngineFrame

/-- A step of an engine that keeps the bounds of the event lists too. -/
structure EngineStep (n : Aud) (t : TextTrack) (s s' : State) : Prop extends EngineFrame n t s s' where
  events : s.EventsWithin → s'.EventsWithin

namespace EngineStep

variable {n : Aud} {t : TextTrack} {s s' s'' : State}

theorem of_auds (only : OnlyAud n s s') (auds : s'.auds = s.auds) (queue : s.QueueOk → s'.QueueOk) : EngineStep n t s s' :=
  ⟨.of_auds only auds queue, fun h => by simpa only [State.EventsWithin, State.aud, auds] using h⟩

theorem refl (n : Aud) (t : TextTrack) (s : State) : EngineStep n t s s := .of_auds (.refl n s) rfl id

theorem trans (h : EngineStep n t s s') (k : EngineStep n t s' s'') : EngineStep n t s s'' :=
  ⟨h.toEngineFrame.trans k.toEngineFrame, k.events ∘ h.events⟩

end EngineStep

theorem modEng_engineFrame (s : State) (n : Aud) (t : TextTrack) (f : TrackEngine → TrackEngine) :
    EngineFrame n t s (s.modEng n t f) where
  only := modEng_only s n t f
  ctx := by simp
  sound := by simp
  others := fun u hu => State.modEng_eng_other s n t u f hu
  queue := id

theorem modEng_eventsWithin (s : State) (n : Aud) (t : TextTrack) (f : TrackEngine → TrackEngine) (k : s.EventsWithin)
    (h : (f (s.eng n t)).Bounded) : (s.modEng n t f).EventsWithin := by
  rw [eventsWithin_iff] at k ⊢
  intro m
  refine ⟨by simpa using (k m).1, fun u => ?_⟩
  by_cases hm : (m, u) = (n, t)
  · obtain ⟨rfl, rfl⟩ := Prod.mk.inj hm
    rw [State.modEng_eng]; exact h
  · rw [(modEng_engineFrame s n t f).eng_other hm]; exact (k m).2 u

/-- A change of the engine alone. -/
theorem modEng_engineStep (s : State) (n : Aud) (t : TextTrack) (f : TrackEngine → TrackEngine)
    (h : (s.eng n t).Bounded → (f (s.eng n t)).Bounded) : EngineStep n t s (s.modEng n t f) :=
  ⟨modEng_engineFrame s n t f, fun k => modEng_eventsWithin s n t f k (h (((eventsWithin_iff s).mp k n).2 t))⟩

theorem raise_engineStep (s : State) (n : Aud) (t : TextTrack) (src : Source) (k : NoticeKind) (x : List Byte) :
    EngineStep n t s (s.raise src k x) := .of_auds (raise_only n s src k x) rfl id

theorem withdraw_engineStep (s : State) (n : Aud) (t : TextTrack) (w : Requester) : EngineStep n t s (s.withdraw w) :=
  .of_auds (withdraw_only n s w) rfl (withdraw_queueOk s w)

/-! ### Requests of an engine -/

/-- Starting a request changes an engine at most in its outstanding read. -/
theorem start_alike (s : State) (r : Request) (m : Aud) (u : TextTrack) : (s.eng m u).Alike ((s.start r).eng m u) := by
  unfold State.start
  split
  · rename_i n t _
    by_cases hm : m = n
    · subst hm
      by_cases hu : u = t
      · subst hu; rw [State.modEng_eng]; exact ⟨rfl, rfl, rfl, rfl, rfl, rfl, rfl, rfl⟩
      · rw [State.modEng_eng_other _ _ _ _ _ hu]; exact .refl _
    · refine .of_eq ?_
      simp only [State.eng, State.modEng_other _ _ _ _ _ hm]; rfl
  · exact .refl _

theorem request_alike (s : State) (r : Request) (m : Aud) (u : TextTrack) : (s.eng m u).Alike ((s.request r).eng m u) := by
  unfold State.request
  simp only
  split
  · exact start_alike (s.withdraw r.who) r m u
  · exact .refl _

theorem start_aud (s : State) (r : Request) (m : Aud) : ((s.start r).aud m).ctx = (s.aud m).ctx
    ∧ ((s.start r).aud m).sound = (s.aud m).sound ∧ ((s.start r).aud m).air = (s.aud m).air
    ∧ ((s.start r).aud m).input = (s.aud m).input ∧ ((s.start r).aud m).emit = (s.aud m).emit := by
  unfold State.start
  split
  · simp only [State.modEng_aud_ctx, State.modEng_aud_sound, State.modEng_aud_air, State.modEng_aud_input, State.modEng_aud_emit]
    exact ⟨rfl, rfl, rfl, rfl, rfl⟩
  · exact ⟨rfl, rfl, rfl, rfl, rfl⟩

theorem request_aud (s : State) (r : Request) (m : Aud) : ((s.request r).aud m).ctx = (s.aud m).ctx
    ∧ ((s.request r).aud m).sound = (s.aud m).sound ∧ ((s.request r).aud m).air = (s.aud m).air
    ∧ ((s.request r).aud m).input = (s.aud m).input ∧ ((s.request r).aud m).emit = (s.aud m).emit := by
  unfold State.request
  simp only
  split
  · exact start_aud (s.withdraw r.who) r m
  · exact ⟨rfl, rfl, rfl, rfl, rfl⟩

/-- The engine's request changes no other engine. -/
theorem request_engineStep (s : State) (n : Aud) (t : TextTrack) (r : Request) (h : r.who = .engine n t) :
    EngineStep n t s (s.request r) where
  only := request_only s r fun m u hw => by rw [h] at hw; cases hw; rfl
  ctx := (request_aud s r n).1
  sound := (request_aud s r n).2.1
  others := fun u hu => by
    unfold State.request
    simp only
    split
    · unfold State.start
      simp only [h]
      exact State.modEng_eng_other _ _ _ _ _ hu
    · rfl
  queue := request_queueOk s r
  events := fun k => by
    rw [eventsWithin_iff] at k ⊢
    intro m
    rw [(request_aud s r m).2.2.1]
    exact ⟨(k m).1, fun u => (request_alike s r m u).bounded ((k m).2 u)⟩

/-- An operation of an engine that changes neither its state, its cursor nor its cues. -/
structure QuietStep (n : Aud) (t : TextTrack) (s s' : State) : Prop extends EngineStep n t s s' where
  alike : (s.eng n t).Alike (s'.eng n t)

namespace QuietStep

variable {n : Aud} {t : TextTrack} {s s' s'' : State}

theorem refl (n : Aud) (t : TextTrack) (s : State) : QuietStep n t s s := ⟨.refl n t s, .refl _⟩

theorem trans (h : QuietStep n t s s') (k : QuietStep n t s' s'') : QuietStep n t s s'' :=
  ⟨h.toEngineStep.trans k.toEngineStep, h.alike.trans k.alike⟩

theorem enginesOk (h : QuietStep n t s s') : s.EnginesOk → s'.EnginesOk :=
  h.engines h.alike.orderly fun _ => h.alike.silent

end QuietStep

theorem modEng_quietStep (s : State) (n : Aud) (t : TextTrack) (f : TrackEngine → TrackEngine)
    (h : (s.eng n t).Alike (f (s.eng n t))) : QuietStep n t s (s.modEng n t f) :=
  ⟨modEng_engineStep s n t f h.bounded, by rw [State.modEng_eng]; exact h⟩

theorem raise_quietStep (s : State) (n : Aud) (t : TextTrack) (src : Source) (k : NoticeKind) (x : List Byte) :
    QuietStep n t s (s.raise src k x) := ⟨raise_engineStep s n t src k x, .refl _⟩

theorem engineRead_quietStep (s : State) (n : Aud) (t : TextTrack) (k : ReadKind) (l need : Nat) :
    QuietStep n t s (s.engineRead n t k l need) := by
  unfold State.engineRead
  exact (modEng_quietStep s n t _ ⟨rfl, rfl, rfl, rfl, rfl, rfl, rfl, rfl⟩).trans
    ⟨request_engineStep _ n t _ rfl, request_alike _ _ n t⟩

theorem fetchTest_quietStep (s : State) (n : Aud) (t : TextTrack) : QuietStep n t s (s.fetchTest n t) := by
  unfold State.fetchTest
  simp only
  split
  · split
    · exact engineRead_quietStep s n t _ _ _
    · exact .refl n t s
  · exact .refl n t s

theorem dropWaiting_quietStep (s : State) (n : Aud) (t : TextTrack) : QuietStep n t s (s.dropWaiting n t) := by
  unfold State.dropWaiting
  split
  · exact QuietStep.trans ⟨withdraw_engineStep s n t _, .refl _⟩
      (modEng_quietStep _ n t _ ⟨rfl, rfl, rfl, rfl, rfl, rfl, rfl, rfl⟩)
  · exact .refl n t s

theorem missCues_quietStep (s : State) (n : Aud) (t : TextTrack) (a b c : Nat) : QuietStep n t s (s.missCues n t a b c) := by
  unfold State.missCues
  exact (modEng_quietStep s n t _ ⟨rfl, rfl, rfl, rfl, rfl, rfl, rfl, rfl⟩).trans (raise_quietStep _ n t _ _ _)

theorem seekRead_quietStep (s : State) (n : Aud) (t : TextTrack) : QuietStep n t s (s.seekRead n t) := by
  unfold State.seekRead
  simp only
  split
  · exact engineRead_quietStep s n t _ _ _
  · exact .refl n t s

/-! ### The pending event list -/

/-- A change of the pending list alone. -/
theorem modAir_quietStep (s : State) (n : Aud) (t : TextTrack) (f : AirSched → AirSched)
    (h : s.EventsWithin → (f (s.aud n).air).pend.length ≤ pendingLimit) : QuietStep n t s (s.modAir n f) where
  only := modAir_only s n f
  ctx := by simp
  sound := by simp
  others := fun u _ => by simp [State.eng]
  queue := id
  events := fun k => by
    have k' := (eventsWithin_iff s).mp k
    rw [eventsWithin_iff]
    intro m
    refine ⟨?_, fun u => by simpa [State.eng] using (k' m).2 u⟩
    by_cases hm : m = n
    · subst hm; simpa using h k
    · rw [State.modAir_other _ _ _ _ hm]; exact (k' m).1
  alike := .of_eq (by simp [State.eng])

/-- A track's restore is a CLEAR and its active cues: 5 events at most (R106). -/
theorem restoreEvents_length (e : TrackEngine) (t : TextTrack) (h : e.Bounded) : (e.restoreEvents t).length ≤ 5 := by
  have := h.1
  unfold TrackEngine.restoreEvents activeLimit at *
  split <;> simp only [List.length_cons, List.length_map, List.length_nil] <;> omega

/-- The restores of the four tracks fit the pending list, with an ANNOUNCE_END (R108, R137). -/
theorem restoreAllEvents_length (s : State) (n : Aud) (h : s.EventsWithin) : (s.restoreEvents n).length ≤ 20 := by
  unfold State.restoreEvents
  split
  · simp
  · have key (t : TextTrack) : (if s.textOn n t then (s.eng n t).restoreEvents t else []).length ≤ 5 := by
      split
      · exact restoreEvents_length _ t (((eventsWithin_iff s).mp h n).2 t)
      · simp
    have h0 := key 0
    have h1 := key 1
    have h2 := key 2
    have h3 := key 3
    simp only [allText, List.flatMap_cons, List.flatMap_nil, List.length_append, List.length_nil]
    omega

theorem overflow_quietStep (s : State) (n : Aud) (t : TextTrack) : QuietStep n t s (s.overflow n) := by
  unfold State.overflow
  refine modAir_quietStep s n t _ fun h => ?_
  have := restoreAllEvents_length s n h
  simp only [List.length_append, pendingLimit]
  split <;> simp <;> omega

theorem submit_quietStep (s : State) (n : Aud) (t : TextTrack) (ev : Event) : QuietStep n t s (s.submit n ev) := by
  unfold State.submit
  split
  · exact modAir_quietStep s n t _ fun _ => by simpa using ‹_›
  · exact overflow_quietStep s n t

theorem submitRestore_quietStep (n : Aud) (t : TextTrack) (evs : List Event) : ∀ s : State, QuietStep n t s (s.submitRestore n evs) := by
  induction evs with
  | nil => exact fun s => .refl n t s
  | cons ev evs ih =>
    intro s
    unfold State.submitRestore
    split
    · exact (modAir_quietStep s n t _ fun _ => by simpa using ‹_›).trans (ih _)
    · exact overflow_quietStep s n t

theorem restoreAll_quietStep (s : State) (n : Aud) (t : TextTrack) : QuietStep n t s (s.restoreAll n) := by
  unfold State.restoreAll
  exact submitRestore_quietStep n t _ s

theorem restoreTrack_quietStep (s : State) (n : Aud) (t : TextTrack) : QuietStep n t s (s.restoreTrack n t) := by
  unfold State.restoreTrack
  split
  · exact .refl n t s
  · exact submitRestore_quietStep n t _ s

end Sys2Proof.Machine

/-! ## The cues of a track engine stay in order (R94, R95, R100 to R105) -/

namespace Sys2Proof.Machine

/-! ### The page index -/

theorem lastIndexWhere_later {α : Type} (p : α → Bool) {l : List α} {j : Nat} {y : α} (hj : l[j]? = some y) (hp : p y = true) :
    ∃ i, lastIndexWhere p l = some i ∧ j ≤ i := by
  induction l generalizing j with
  | nil => simp at hj
  | cons x xs ih =>
    cases j with
    | zero =>
      obtain rfl : x = y := by simpa using hj
      unfold lastIndexWhere
      split
      · exact ⟨_, rfl, Nat.zero_le _⟩
      · exact ⟨0, by simp [hp], Nat.le_refl _⟩
    | succ j =>
      obtain ⟨i, hi, hij⟩ := ih (by simpa using hj)
      exact ⟨i + 1, by simp [lastIndexWhere, hi], by omega⟩

theorem lastIndexWhere_meets {α : Type} (p : α → Bool) {l : List α} : ∀ {i : Nat} {x : α}, lastIndexWhere p l = some i → l[i]? = some x →
    p x = true := by
  induction l with
  | nil => exact fun h _ => by simp [lastIndexWhere] at h
  | cons y ys ih =>
    intro i x h hx
    unfold lastIndexWhere at h
    split at h
    · obtain rfl := Option.some.inj h
      exact ih ‹_› (by simpa using hx)
    · split at h
      · obtain rfl := Option.some.inj h
        obtain rfl : y = x := by simpa using hx
        assumption
      · cases h

/-- The page that holds a cue starts at it or below (R94). -/
theorem TrackEngine.entryOf_firstCue (e : TrackEngine) {cue i : Nat} {en : IndexEntry} (hi : e.entryOf cue = some i)
    (hen : e.index[i]? = some en) : en.firstCue ≤ cue :=
  of_decide_eq_true (lastIndexWhere_meets (fun x : IndexEntry => decide (x.firstCue ≤ cue)) (l := e.index) hi hen)

/-- The entry after the one whose page holds a cue starts above the cue (R94). -/
theorem TrackEngine.entryOf_next (e : TrackEngine) (cue : Nat) {en : IndexEntry}
    (h : e.index[(e.entryOf cue).getD 0 + 1]? = some en) : cue < en.firstCue := by
  by_contra hn
  obtain ⟨i, hi, hle⟩ := lastIndexWhere_later (fun en => decide (en.firstCue ≤ cue)) h (by simpa using hn)
  rw [show e.entryOf cue = some i from hi] at hle
  simp at hle

section
variable {e : TrackEngine} (h : e.IndexOk)
include h

theorem TrackEngine.IndexOk.rising {i j : Nat} {a b : IndexEntry} (ha : e.index[i]? = some a) (hb : e.index[j]? = some b) (hij : i < j) :
    a.firstCue < b.firstCue ∧ a.firstStart ≤ b.firstStart := by
  obtain ⟨hi, rfl⟩ := List.getElem?_eq_some_iff.mp ha
  obtain ⟨hj, rfl⟩ := List.getElem?_eq_some_iff.mp hb
  exact List.pairwise_iff_getElem.mp h.1 i j hi hj hij

theorem TrackEngine.IndexOk.firstFrom_le_count (i : Nat) : e.firstFrom i ≤ e.cueCount := by
  unfold firstFrom
  cases hi : e.index[i]? with
  | none => simp
  | some a => simpa using (h.2 a (List.mem_of_getElem? hi)).le

theorem TrackEngine.IndexOk.firstFrom_succ {i : Nat} {a : IndexEntry} (ha : e.index[i]? = some a) : a.firstCue < e.firstFrom (i + 1) := by
  unfold firstFrom
  cases hi : e.index[i + 1]? with
  | none => simpa using h.2 a (List.mem_of_getElem? ha)
  | some b => simpa using (h.rising ha hi (Nat.lt_succ_self i)).1

theorem TrackEngine.IndexOk.firstFrom_mono (i : Nat) : e.firstFrom i ≤ e.firstFrom (i + 1) := by
  cases hi : e.index[i]? with
  | none =>
    have : e.index[i + 1]? = none := by
      rw [List.getElem?_eq_none_iff] at hi ⊢; omega
    simp [firstFrom, hi, this]
  | some a => simpa [firstFrom, hi] using (h.firstFrom_succ hi).le

end

theorem TrackEngine.cursorTo_cursor (e : TrackEngine) (i : Nat) : (e.cursorTo i).cursor = e.firstFrom i := by
  unfold cursorTo firstFrom
  cases e.index[i]? <;> rfl

/-- Moving the cursor changes the cursor and its start alone. -/
theorem TrackEngine.cursorTo_eq (e : TrackEngine) (i : Nat) :
    e.cursorTo i = { e with cursor := e.firstFrom i, cursorStart := (e.cursorTo i).cursorStart } := by
  unfold cursorTo firstFrom
  cases e.index[i]? <;> rfl

/-- A cue below the cursor lies below the first cue after the cursor's page. -/
theorem TrackEngine.below_next (e : TrackEngine) {number : Nat} (hc : number < e.cursor) (hn : number < e.cueCount) :
    number < e.firstFrom ((e.entryOf e.cursor).getD 0 + 1) := by
  unfold firstFrom
  cases hi : e.index[(e.entryOf e.cursor).getD 0 + 1]? with
  | none => simpa using hn
  | some a => simpa using hc.trans (e.entryOf_next _ hi)

/-! ### Sets of cues -/

theorem insertCue_perm (c : Cue) (l : List Cue) : (insertCue c l).Perm (c :: l) := by
  induction l with
  | nil => exact .refl _
  | cons d ds ih =>
    unfold insertCue
    split
    · exact .refl _
    · exact (ih.cons d).trans (.swap c d ds)

theorem distinct_perm {l m : List Cue} (h : l.Perm m) (k : m.Pairwise fun a b => a.number ≠ b.number) :
    l.Pairwise fun a b => a.number ≠ b.number :=
  (h.pairwise_iff fun {_ _} hn => Ne.symm hn).mpr k

theorem insertCue_length (c : Cue) (l : List Cue) : (insertCue c l).length = l.length + 1 := (insertCue_perm c l).length_eq

theorem addOverlap_sublist (c : Cue) (ov : List Cue) : (addOverlap c ov).Sublist (insertCue c ov) := by
  unfold addOverlap
  simp only
  split
  · exact List.tail_sublist _
  · exact .refl _

theorem mem_addOverlap {c d : Cue} {ov : List Cue} (h : d ∈ addOverlap c ov) : d = c ∨ d ∈ ov := by
  simpa using (insertCue_perm c ov).mem_iff.mp ((addOverlap_sublist c ov).subset h)

theorem addOverlap_length (c : Cue) {ov : List Cue} (h : ov.length ≤ activeLimit) : (addOverlap c ov).length ≤ activeLimit := by
  unfold addOverlap
  simp only
  split
  · rw [List.length_tail, insertCue_length]; omega
  · omega

/-! ### What a seek gathers (R103) -/

/-- Future cues in rising number, all above the overlap cues, of which no number stands twice. -/
def Gathers (ov fu : List Cue) : Prop :=
  fu.Pairwise (fun a b => a.number < b.number) ∧ ov.Pairwise (fun a b => a.number ≠ b.number)
    ∧ ∀ a ∈ ov, ∀ c ∈ fu, a.number < c.number

theorem seekPage_bounded (pos : Nat) (cues : List Cue) : ∀ ov fu, ov.length ≤ activeLimit →
    (seekPage pos ov fu cues).1.length ≤ activeLimit := by
  induction cues with
  | nil => exact fun _ _ h => h
  | cons c cs ih =>
    intro ov fu h
    unfold seekPage
    split
    · exact ih _ _ h
    · split
      · exact ih _ _ (addOverlap_length c h)
      · simp only
        split
        · exact h
        · exact ih _ _ h

/-- What the cues of a page are sorted into, and the cues left once 8 future cues are held. -/
structure SeekPaged (pos : Nat) (ov fu cues : List Cue) (r : List Cue × List Cue × List Cue) : Prop where
  gathers : Gathers r.1 r.2.1
  within : r.2.1.length ≤ 8
  taken : ∀ c ∈ r.1 ++ r.2.1, c ∈ ov ++ fu ∨ c ∈ cues
  rest : ∀ d ∈ r.2.2, d ∈ cues ∧ ∀ c ∈ r.1 ++ r.2.1, c.number < d.number
  future : ∀ c ∈ r.2.1, c ∈ fu ∨ (c ∈ cues ∧ pos < c.startTick)

/-- A page whose first cue joins a collection, or neither. -/
theorem SeekPaged.cons {pos : Nat} {c : Cue} {ov fu ov' fu' cs : List Cue} {r : List Cue × List Cue × List Cue}
    (hov : ∀ x ∈ ov' ++ fu', x = c ∨ x ∈ ov ++ fu) (hfu : ∀ x ∈ fu', x ∈ fu ∨ (x = c ∧ pos < c.startTick))
    (k : SeekPaged pos ov' fu' cs r) : SeekPaged pos ov fu (c :: cs) r where
  gathers := k.gathers
  within := k.within
  taken := fun x hx => by
    rcases k.taken x hx with h | h
    · rcases hov x h with rfl | h
      · exact .inr (List.mem_cons_self ..)
      · exact .inl h
    · exact .inr (List.mem_cons_of_mem _ h)
  rest := fun d hd => ⟨List.mem_cons_of_mem _ (k.rest d hd).1, (k.rest d hd).2⟩
  future := fun x hx => by
    rcases k.future x hx with h | ⟨h, h'⟩
    · rcases hfu x h with h | ⟨rfl, h⟩
      · exact .inl h
      · exact .inr ⟨List.mem_cons_self .., h⟩
    · exact .inr ⟨List.mem_cons_of_mem _ h, h'⟩

/-- The cues of a page in order are sorted into collections in order. -/
theorem seekPage_paged (pos : Nat) (cues : List Cue) : ∀ ov fu, Gathers ov fu → fu.length < 8 →
    (∀ c ∈ ov ++ fu, ∀ d ∈ cues, c.number < d.number) → cues.Pairwise (fun a b => a.number < b.number) →
    cues.Pairwise (fun a b => a.startTick ≤ b.startTick) → (fu ≠ [] → ∀ d ∈ cues, pos < d.startTick) →
    SeekPaged pos ov fu cues (seekPage pos ov fu cues) := by
  induction cues with
  | nil =>
    intro ov fu hg hl _ _ _ _
    exact ⟨hg, hl.le, fun c hc => .inl hc, fun d hd => (nomatch hd), fun c hc => .inl hc⟩
  | cons c cs ih =>
    intro ov fu hg hl hb hc hs hp
    obtain ⟨hc1, hc2⟩ := List.pairwise_cons.mp hc
    obtain ⟨hs1, hs2⟩ := List.pairwise_cons.mp hs
    have hb' : ∀ x ∈ ov ++ fu, ∀ d ∈ cs, x.number < d.number := fun x hx d hd => hb x hx d (List.mem_cons_of_mem _ hd)
    have hbc : ∀ x ∈ ov ++ fu, x.number < c.number := fun x hx => hb x hx c (List.mem_cons_self ..)
    unfold seekPage
    split
    · exact SeekPaged.cons (fun x hx => .inr hx) (fun x hx => .inl hx)
        (ih ov fu hg hl hb' hc2 hs2 fun h d hd => hp h d (List.mem_cons_of_mem _ hd))
    · split
      · rename_i hstart
        have hfu : fu = [] := by
          by_contra h
          have := hp h c (List.mem_cons_self ..)
          omega
        subst hfu
        have hmem : ∀ x ∈ addOverlap c ov ++ [], x = c ∨ x ∈ ov ++ [] := fun x hx => by
          simpa using mem_addOverlap (by simpa using hx)
        refine SeekPaged.cons hmem (fun x hx => by cases hx) (ih _ _ ⟨.nil, ?_, fun _ _ _ hx => by cases hx⟩ hl ?_ hc2 hs2 fun h => absurd rfl h)
        · refine (distinct_perm (insertCue_perm c ov) ?_).sublist (addOverlap_sublist c ov)
          exact List.pairwise_cons.mpr ⟨fun x hx => (hbc x (by simpa using hx)).ne', hg.2.1⟩
        · intro x hx d hd
          rcases hmem x hx with rfl | hx
          · exact hc1 d hd
          · exact hb' x hx d hd
      · rename_i hstart
        have hg' : Gathers ov (fu ++ [c]) := by
          refine ⟨?_, hg.2.1, ?_⟩
          · refine List.pairwise_append.mpr ⟨hg.1, List.pairwise_singleton _ _, fun x hx y hy => ?_⟩
            obtain rfl : y = c := by simpa using hy
            exact hbc x (List.mem_append_right _ hx)
          · intro a ha x hx
            rcases List.mem_append.mp hx with hx | hx
            · exact hg.2.2 a ha x hx
            · obtain rfl : x = c := by simpa using hx
              exact hbc a (List.mem_append_left _ ha)
        have hmem : ∀ x ∈ ov ++ (fu ++ [c]), x = c ∨ x ∈ ov ++ fu := fun x hx => by
          simp only [List.mem_append, List.mem_singleton] at hx ⊢; tauto
        have hfut : ∀ x ∈ fu ++ [c], x ∈ fu ∨ (x = c ∧ pos < c.startTick) := fun x hx => by
          simp only [List.mem_append, List.mem_singleton] at hx
          exact hx.imp_right fun h => ⟨h, by omega⟩
        have hbelow : ∀ x ∈ ov ++ (fu ++ [c]), ∀ d ∈ cs, x.number < d.number := fun x hx d hd => by
          rcases hmem x hx with rfl | hx
          · exact hc1 d hd
          · exact hb' x hx d hd
        simp only
        split
        · refine ⟨hg', by simp; omega, fun x hx => ?_, fun d hd => ⟨List.mem_cons_of_mem _ hd, fun x hx => hbelow x hx d hd⟩, fun x hx => ?_⟩
          · rcases hmem x hx with rfl | hx
            · exact .inr (List.mem_cons_self ..)
            · exact .inl hx
          · rcases hfut x hx with hx | ⟨rfl, hx⟩
            · exact .inl hx
            · exact .inr ⟨List.mem_cons_self .., hx⟩
        · rename_i hlen
          refine SeekPaged.cons hmem hfut (ih _ _ hg' (by simp only [lookLimit] at hlen; omega) hbelow hc2 hs2 fun _ d hd => ?_)
          have := hs1 d hd
          omega

/-! ### The law of an engine's cues, in parts -/

/-- The law of the lookahead queue and the active set. -/
def TrackEngine.SetsOk (e : TrackEngine) : Prop :=
  e.look.length ≤ 8 ∧ Gathers e.active e.look ∧ ∀ c ∈ e.look ++ e.active, c.number < e.cursor ∧ c.number < e.cueCount

/-- The law of what a seek has gathered before it reads index entry `i`. -/
def TrackEngine.SeekOk (e : TrackEngine) (k : SeekColl) (i : Nat) : Prop :=
  k.future.length < 8 ∧ Gathers k.overlap k.future ∧ (∀ c ∈ k.overlap ++ k.future, c.number < e.firstFrom i)
    ∧ (k.future ≠ [] → ∀ en, e.index[i]? = some en → e.seekPos < en.firstStart)

theorem TrackEngine.cuesOk_iff (e : TrackEngine) : e.CuesOk ↔ e.SetsOk ∧ ∀ k, e.seek = some k → e.SeekOk k k.entry := by
  simp only [CuesOk, SetsOk, SeekOk, Gathers, and_assoc]

/-- An engine without cues, in its sets and in what a seek has gathered. -/
def TrackEngine.Emptied (e : TrackEngine) : Prop :=
  e.look = [] ∧ e.active = [] ∧ ∀ k, e.seek = some k → k.overlap = [] ∧ k.future = []

theorem gathers_nil : Gathers [] [] := ⟨.nil, .nil, fun _ h => by cases h⟩

theorem TrackEngine.Emptied.orderly {e : TrackEngine} (h : e.Emptied) : e.Orderly := by
  obtain ⟨hl, ha, hs⟩ := h
  refine fun _ => e.cuesOk_iff.mpr ⟨⟨by simp [hl], by rw [hl, ha]; exact gathers_nil, by simp [hl, ha]⟩, fun k hk => ?_⟩
  obtain ⟨ho, hf⟩ := hs k hk
  exact ⟨by simp [hf], by rw [ho, hf]; exact gathers_nil, by simp [ho, hf], fun hn => absurd hf hn⟩

theorem TrackEngine.Silent.emptied {e : TrackEngine} (h : e.Silent) : e.Emptied :=
  ⟨h.2.1, h.2.2.1, fun k hk => by rw [h.2.2.2] at hk; cases hk⟩

/-! ### The end of a seek (R104) -/

/-- The engine at the end of a seek, before its restore and its fetch test. -/
def TrackEngine.completed (e : TrackEngine) : TrackEngine :=
  let e := { e with active := (e.seek.map SeekColl.overlap).getD [], look := (e.seek.map SeekColl.future).getD [], seek := none, out := none }
  { e with state := if e.look = [] ∧ e.active = [] ∧ e.exhausted then .ended else .running }

theorem completeSeek_eq (s : State) (n : Aud) (t : TextTrack) :
    s.completeSeek n t = ((s.modEng n t TrackEngine.completed).restoreTrack n t).fetchTest n t := rfl

theorem TrackEngine.completed_bounded {e : TrackEngine} (h : e.Bounded) : e.completed.Bounded := by
  refine ⟨?_, fun k hk => by cases hk⟩
  show ((e.seek.map SeekColl.overlap).getD []).length ≤ _
  cases hs : e.seek with
  | none => simp
  | some k => exact h.2 k hs

/-- What a seek may complete with: up to 8 future cues, all it has gathered below the cursor. -/
def TrackEngine.Completes (e : TrackEngine) : Prop :=
  ∀ k, e.seek = some k → k.future.length ≤ 8 ∧ Gathers k.overlap k.future
    ∧ ∀ c ∈ k.overlap ++ k.future, c.number < e.cursor ∧ c.number < e.cueCount

theorem TrackEngine.completed_orderly {e : TrackEngine} (h : e.IndexOk → e.Completes) : e.completed.Orderly := by
  refine fun hi => (cuesOk_iff _).mpr ⟨?_, fun k hk => by cases hk⟩
  have h := h hi
  show _ ∧ Gathers ((e.seek.map SeekColl.overlap).getD []) ((e.seek.map SeekColl.future).getD [])
    ∧ ∀ c ∈ (e.seek.map SeekColl.future).getD [] ++ (e.seek.map SeekColl.overlap).getD [], c.number < e.cursor ∧ c.number < e.cueCount
  cases hs : e.seek with
  | none => exact ⟨by simp [completed, hs], gathers_nil, fun c hc => by cases hc⟩
  | some k =>
    obtain ⟨hl, hg, hb⟩ := h k hs
    refine ⟨by simpa [completed, hs] using hl, hg, fun c hc => hb c ?_⟩
    simpa [or_comm] using hc

theorem completeSeek_engineStep (s : State) (n : Aud) (t : TextTrack) : EngineStep n t s (s.completeSeek n t) := by
  rw [completeSeek_eq]
  exact ((modEng_engineStep s n t _ TrackEngine.completed_bounded).trans (restoreTrack_quietStep _ n t).toEngineStep).trans
    (fetchTest_quietStep _ n t).toEngineStep

theorem completeSeek_alike (s : State) (n : Aud) (t : TextTrack) : (s.eng n t).completed.Alike ((s.completeSeek n t).eng n t) := by
  rw [completeSeek_eq]
  have h := ((restoreTrack_quietStep (s.modEng n t TrackEngine.completed) n t).trans (fetchTest_quietStep _ n t)).alike
  rwa [State.modEng_eng] at h

theorem completeSeek_orderly (s : State) (n : Aud) (t : TextTrack) (h : (s.eng n t).IndexOk → (s.eng n t).Completes) :
    ((s.completeSeek n t).eng n t).Orderly :=
  (completeSeek_alike s n t).orderly (TrackEngine.completed_orderly h)

/-! ### The start of a seek (R102, R105) -/

/-- The engine as a seek starts. -/
def TrackEngine.seeking (q : Nat) (e : TrackEngine) : TrackEngine :=
  { e with seekCount := wrap8 (e.seekCount + 1), look := [], active := [], seekPos := q, state := .seeking
           seek := some { overlap := [], future := [], entry := e.seekEntry q } }

theorem startSeek_eq (s : State) (n : Aud) (t : TextTrack) (q : Nat) : s.startSeek n t q =
    if (s.eng n t).index = [] then
      (((s.modEng n t (TrackEngine.seeking q)).dropWaiting n t).modEng n t fun e =>
        { e with cursor := e.cueCount, cursorStart := none }).completeSeek n t
    else if (s.modEng n t (TrackEngine.seeking q)).engineInFlight n t then s.modEng n t (TrackEngine.seeking q)
    else (s.modEng n t (TrackEngine.seeking q)).seekRead n t := by
  unfold State.startSeek
  simp only [State.modEng_eng]
  rfl

theorem TrackEngine.seeking_bounded (q : Nat) (e : TrackEngine) : (e.seeking q).Bounded :=
  ⟨Nat.zero_le _, fun k hk => by cases hk; exact Nat.zero_le _⟩

theorem TrackEngine.seeking_emptied (q : Nat) (e : TrackEngine) : (e.seeking q).Emptied :=
  ⟨rfl, rfl, fun k hk => by cases hk; exact ⟨rfl, rfl⟩⟩

theorem startSeek_engineStep (s : State) (n : Aud) (t : TextTrack) (q : Nat) : EngineStep n t s (s.startSeek n t q) := by
  have hs := modEng_engineStep s n t (TrackEngine.seeking q) fun _ => TrackEngine.seeking_bounded q _
  rw [startSeek_eq]
  split
  · exact ((hs.trans (dropWaiting_quietStep _ n t).toEngineStep).trans (modEng_engineStep _ n t _ id)).trans
      (completeSeek_engineStep _ n t)
  · split
    · exact hs
    · exact hs.trans (seekRead_quietStep _ n t).toEngineStep

/-- A seek starts without cues, whatever the engine held. -/
theorem startSeek_orderly (s : State) (n : Aud) (t : TextTrack) (q : Nat) : ((s.startSeek n t q).eng n t).Orderly := by
  have hs : ((s.modEng n t (TrackEngine.seeking q)).eng n t) = (s.eng n t).seeking q := State.modEng_eng ..
  rw [startSeek_eq]
  split
  · refine completeSeek_orderly _ n t fun _ k hk => ?_
    have ha := (dropWaiting_quietStep (s.modEng n t (TrackEngine.seeking q)) n t).alike
    rw [State.modEng_eng] at hk
    obtain ⟨ho, hf⟩ := (TrackEngine.seeking_emptied q (s.eng n t)).2.2 k (by rw [← hs, ← ha.seek]; exact hk)
    exact ⟨by simp [hf], by rw [ho, hf]; exact gathers_nil, by simp [ho, hf]⟩
  · split
    · rw [hs]; exact (TrackEngine.seeking_emptied q _).orderly
    · refine (seekRead_quietStep _ n t).alike.orderly ?_
      rw [hs]; exact (TrackEngine.seeking_emptied q _).orderly

/-! ### The pages of a seek (R103) -/

/-- The engine at the next index entry of its seek. -/
def TrackEngine.seekNext (e : TrackEngine) : TrackEngine :=
  { e with out := none, seek := e.seek.map fun k => { k with entry := k.entry + 1 } }

theorem seekOn_eq (s : State) (n : Aud) (t : TextTrack) : s.seekOn n t =
    match ((s.eng n t).seekNext.seek.map (·.entry)).bind fun i => (s.eng n t).index[i]? with
    | some _ => (s.modEng n t TrackEngine.seekNext).seekRead n t
    | none => ((s.modEng n t TrackEngine.seekNext).modEng n t fun e =>
        { e with cursor := e.cueCount, cursorStart := none }).completeSeek n t := by
  unfold State.seekOn
  simp only [State.modEng_eng]
  rfl

theorem TrackEngine.seekNext_bounded {e : TrackEngine} (h : e.Bounded) : e.seekNext.Bounded := by
  refine ⟨h.1, fun k hk => ?_⟩
  obtain ⟨k', hk', rfl⟩ := Option.map_eq_some_iff.mp hk
  exact h.2 k' hk'

theorem seekOn_engineStep (s : State) (n : Aud) (t : TextTrack) : EngineStep n t s (s.seekOn n t) := by
  have hs := modEng_engineStep s n t _ TrackEngine.seekNext_bounded
  rw [seekOn_eq]
  split
  · exact hs.trans (seekRead_quietStep _ n t).toEngineStep
  · exact (hs.trans (modEng_engineStep _ n t _ id)).trans (completeSeek_engineStep _ n t)

/-- A seek that goes on keeps its cues in order, where what it has gathered lies below the next entry. -/
theorem seekOn_orderly (s : State) (n : Aud) (t : TextTrack)
    (h : (s.eng n t).IndexOk → (s.eng n t).SetsOk ∧ ∀ k, (s.eng n t).seek = some k → (s.eng n t).SeekOk k (k.entry + 1)) :
    ((s.seekOn n t).eng n t).Orderly := by
  rw [seekOn_eq]
  split
  · refine (seekRead_quietStep _ n t).alike.orderly ?_
    rw [State.modEng_eng]
    intro hi
    obtain ⟨hsets, hseek⟩ := h hi
    refine (TrackEngine.cuesOk_iff _).mpr ⟨hsets, fun k hk => ?_⟩
    obtain ⟨k', hk', rfl⟩ := Option.map_eq_some_iff.mp hk
    exact hseek k' hk'
  · rename_i hnone
    refine completeSeek_orderly _ n t ?_
    rw [State.modEng_eng, State.modEng_eng]
    intro hi k hk
    obtain ⟨k', hk', rfl⟩ := Option.map_eq_some_iff.mp hk
    obtain ⟨hl, hg, hb, -⟩ := (h hi).2 k' hk'
    have hend : (s.eng n t).index[k'.entry + 1]? = none := by
      simpa [TrackEngine.seekNext, hk'] using hnone
    refine ⟨hl.le, hg, fun c hc => ?_⟩
    have : c.number < (s.eng n t).cueCount := by simpa [TrackEngine.firstFrom, hend] using hb c hc
    exact ⟨this, this⟩

/-! ### The pages that the index names (R7, R11) -/

/-- The cues of a page in order have the page's numbers, in rising order. -/
theorem TrackEngine.IsPage.numbers {e : TrackEngine} {i : Nat} {cues : List Cue} {en : IndexEntry} (h : e.IsPage i cues)
    (hen : e.index[i]? = some en) :
    cues.map (·.number) = List.range' en.firstCue (e.firstFrom (i + 1) - en.firstCue) := by
  obtain ⟨en', hen', hn, -⟩ := h
  obtain rfl : en' = en := by simpa [hen'] using hen
  rw [hn, List.range'_eq_map_range]
  simp [Nat.add_comm]

theorem pairwise_of_numbers {cues : List Cue} {a m : Nat} (h : cues.map (·.number) = List.range' a m) :
    cues.Pairwise fun c d => c.number < d.number := by
  have : (cues.map (·.number)).Pairwise (· < ·) := by rw [h]; exact List.pairwise_lt_range'
  simpa [List.pairwise_map] using this

theorem mem_of_numbers {cues : List Cue} {a m : Nat} (h : cues.map (·.number) = List.range' a m) {c : Cue} (hc : c ∈ cues) :
    a ≤ c.number ∧ c.number < a + m := by
  have : c.number ∈ cues.map (·.number) := List.mem_map_of_mem hc
  rw [h, List.mem_range'_1] at this
  exact this

theorem takeSeekPage_engineStep (s : State) (n : Aud) (t : TextTrack) (cues : List Cue) : EngineStep n t s (s.takeSeekPage n t cues) := by
  unfold State.takeSeekPage
  simp only
  split
  · exact .refl n t s
  · rename_i k hk
    have hs := modEng_engineStep s n t
      (fun e => { e with seek := some { k with
        overlap := (seekPage (s.eng n t).seekPos k.overlap k.future cues).1
        future := (seekPage (s.eng n t).seekPos k.overlap k.future cues).2.1 } })
      fun h => ⟨h.1, fun k' hk' => by cases hk'; exact seekPage_bounded _ _ _ _ (h.2 k hk)⟩
    split
    · split
      · exact (hs.trans (modEng_engineStep _ n t _ id)).trans (completeSeek_engineStep _ n t)
      · refine (hs.trans (modEng_engineStep _ n t _ fun h => ?_)).trans (completeSeek_engineStep _ n t)
        rw [TrackEngine.cursorTo_eq]; exact h
    · exact hs.trans (seekOn_engineStep _ n t)

theorem takeSeekPage_orderly (s : State) (n : Aud) (t : TextTrack) (cues : List Cue) (h : (s.eng n t).Orderly)
    (hp : ∀ k, (s.eng n t).seek = some k → (s.eng n t).IsPage k.entry cues) : ((s.takeSeekPage n t cues).eng n t).Orderly := by
  unfold State.takeSeekPage
  simp only
  split
  · exact h
  · rename_i k hk
    have hpage := hp k hk
    obtain ⟨en, hen, -, hstart, hfrom, hnext⟩ := hpage
    have hnum := (hp k hk).numbers hen
    -- the collections after the page, under a page index in order
    have paged : (s.eng n t).IndexOk → (s.eng n t).SetsOk ∧ (s.eng n t).SeekOk k k.entry
        ∧ SeekPaged (s.eng n t).seekPos k.overlap k.future cues (seekPage (s.eng n t).seekPos k.overlap k.future cues) := by
      intro hi
      obtain ⟨hsets, hseek⟩ := (TrackEngine.cuesOk_iff _).mp (h hi)
      obtain ⟨hl, hg, hb, hf⟩ := hseek k hk
      refine ⟨hsets, hseek k hk, seekPage_paged _ cues _ _ hg hl (fun c hc d hd => ?_) (pairwise_of_numbers hnum) hstart fun hne d hd => ?_⟩
      · have h1 := hb c hc
        have h2 := (mem_of_numbers hnum hd).1
        simp only [TrackEngine.firstFrom, hen, Option.map_some, Option.getD_some] at h1
        omega
      · have h1 := hf hne en hen
        have h2 := hfrom d hd
        omega
    have below : (s.eng n t).IndexOk → ∀ c ∈ (seekPage (s.eng n t).seekPos k.overlap k.future cues).1
        ++ (seekPage (s.eng n t).seekPos k.overlap k.future cues).2.1, c.number < (s.eng n t).firstFrom (k.entry + 1) := by
      intro hi c hc
      obtain ⟨-, ⟨-, -, hb, -⟩, hpg⟩ := paged hi
      rcases hpg.taken c hc with hc | hc
      · exact (hb c hc).trans_le (hi.firstFrom_mono _)
      · have h1 := (mem_of_numbers hnum hc).2
        have h2 := hi.firstFrom_succ hen
        omega
    split
    · split
      · rename_i c cs hrest
        refine completeSeek_orderly _ n t ?_
        rw [State.modEng_eng, State.modEng_eng]
        intro hi k' hk'
        cases hk'
        obtain ⟨-, -, hpg⟩ := paged hi
        exact ⟨hpg.within, hpg.gathers, fun d hd => ⟨(hpg.rest c (by rw [hrest]; exact List.mem_cons_self ..)).2 d hd,
          (below hi d hd).trans_le (hi.firstFrom_le_count _)⟩⟩
      · refine completeSeek_orderly _ n t ?_
        rw [State.modEng_eng, State.modEng_eng, TrackEngine.cursorTo_eq]
        intro hi k' hk'
        cases hk'
        obtain ⟨-, -, hpg⟩ := paged hi
        exact ⟨hpg.within, hpg.gathers, fun d hd => ⟨below hi d hd, (below hi d hd).trans_le (hi.firstFrom_le_count _)⟩⟩
    · rename_i hfew
      refine seekOn_orderly _ n t ?_
      rw [State.modEng_eng]
      intro hi
      obtain ⟨hsets, ⟨-, -, -, hf⟩, hpg⟩ := paged hi
      refine ⟨hsets, fun k' hk' => ?_⟩
      cases hk'
      refine ⟨by simp only [lookLimit] at hfew; simpa using hfew, hpg.gathers, below hi, fun hne nx hnx => ?_⟩
      obtain ⟨c, hc⟩ := List.exists_mem_of_ne_nil _ hne
      rcases hpg.future c hc with hc | ⟨hc, hc'⟩
      · exact (hf (List.ne_nil_of_mem hc) en hen).trans_le (hi.rising hen hnx (Nat.lt_succ_self _)).2
      · exact hc'.trans_le (hnext nx hnx c hc)

theorem loseSeekPage_engineStep (s : State) (n : Aud) (t : TextTrack) : EngineStep n t s (s.loseSeekPage n t) := by
  unfold State.loseSeekPage
  simp only
  split
  · exact .refl n t s
  · exact (missCues_quietStep s n t _ _ _).toEngineStep.trans (seekOn_engineStep _ n t)

/-- A lost page leaves what a seek has gathered below the next entry. -/
theorem loseSeekPage_orderly (s : State) (n : Aud) (t : TextTrack) (h : (s.eng n t).Orderly) :
    ((s.loseSeekPage n t).eng n t).Orderly := by
  unfold State.loseSeekPage
  simp only
  split
  · exact h
  · refine seekOn_orderly _ n t fun hi => ?_
    have ho := fun a b c => (missCues_quietStep s n t a b c).alike.orderly h
    obtain ⟨hsets, hseek⟩ := (TrackEngine.cuesOk_iff _).mp (ho _ _ _ hi)
    refine ⟨hsets, fun k hk => ?_⟩
    obtain ⟨hl, hg, hb, hf⟩ := hseek k hk
    refine ⟨hl, hg, fun c hc => (hb c hc).trans_le (hi.firstFrom_mono _), fun hne nx hnx => ?_⟩
    have hlt : k.entry < _ := Nat.lt_of_succ_lt (List.getElem?_eq_some_iff.mp hnx).1
    have hen := List.getElem?_eq_getElem hlt
    exact (hf hne _ hen).trans_le (hi.rising hen hnx (Nat.lt_succ_self _)).2

end Sys2Proof.Machine

/-! ## Fetch, release and the signals of the show timeline, on one engine (R92, R95 to R101, R110) -/

namespace Sys2Proof.Machine

/-! ### Fetch -/

/-- From the cursor's cue on, the cues of a page carry the numbers from the cursor on. -/
theorem dropWhile_numbers {x : Nat} (cues : List Cue) : ∀ {a m : Nat}, cues.map (·.number) = List.range' a m → a ≤ x →
    ∃ k, (cues.dropWhile fun c => decide (c.number ≠ x)).map (·.number) = List.range' x k ∧ (k = 0 ∨ x + k = a + m) := by
  induction cues with
  | nil => exact fun _ _ => ⟨0, rfl, .inl rfl⟩
  | cons c cs ih =>
    intro a m h hax
    cases m with
    | zero => simp at h
    | succ m =>
      rw [List.map_cons, List.range'_succ, List.cons.injEq] at h
      obtain ⟨hc, hcs⟩ := h
      by_cases hx : c.number = x
      · refine ⟨m + 1, ?_, .inr (by omega)⟩
        rw [List.dropWhile_cons_of_neg (by simpa using hx), List.map_cons, hcs, hc, ← hx, hc, List.range'_succ]
      · obtain ⟨k, hk, hk'⟩ := ih hcs (by omega)
        exact ⟨k, by rw [List.dropWhile_cons_of_pos (by simpa using hx)]; exact hk, by omega⟩

/-- The engine after a fetched page: the cues from the cursor's on have joined the lookahead queue, as far as there is room (R95). -/
def TrackEngine.fetched (cues : List Cue) (e : TrackEngine) : TrackEngine :=
  let here := cues.dropWhile fun c => decide (c.number ≠ e.cursor)
  let room := lookLimit - e.look.length
  let e' := { e with look := e.look ++ here.take room, out := none, starved := false }
  match here.drop room with
  | c :: _ => { e' with cursor := e.cursor + (here.take room).length, cursorStart := some c.startTick }
  | [] => e'.cursorTo ((e.entryOf e.cursor).getD 0 + 1)

theorem TrackEngine.entryOf_congr {e e' : TrackEngine} (h : e'.index = e.index) (cue : Nat) : e'.entryOf cue = e.entryOf cue := by
  simp only [entryOf, h]

theorem takeFetchPage_eq (s : State) (n : Aud) (t : TextTrack) (cues : List Cue) :
    s.takeFetchPage n t cues = (s.modEng n t fun _ => (s.eng n t).fetched cues).fetchTest n t := rfl

/-- The cues taken at a fetch, the cursor after it, and what it leaves. -/
theorem TrackEngine.fetched_eq (cues : List Cue) (e : TrackEngine) : ∃ taken cursor start,
    taken = (cues.dropWhile fun c => decide (c.number ≠ e.cursor)).take (lookLimit - e.look.length)
      ∧ e.fetched cues = { e with look := e.look ++ taken, cursor := cursor, cursorStart := start, out := none, starved := false }
      ∧ (cursor = e.cursor + taken.length
        ∨ taken = (cues.dropWhile fun c => decide (c.number ≠ e.cursor)) ∧ cursor = e.firstFrom ((e.entryOf e.cursor).getD 0 + 1)) := by
  unfold fetched
  simp only
  split
  · exact ⟨_, _, _, rfl, rfl, .inl rfl⟩
  · rename_i hnil
    exact ⟨_, _, _, rfl, cursorTo_eq _ _, .inr ⟨List.take_of_length_le (List.drop_eq_nil_iff.mp hnil), rfl⟩⟩

theorem TrackEngine.fetched_bounded {e : TrackEngine} (cues : List Cue) (h : e.Bounded) : (e.fetched cues).Bounded := by
  obtain ⟨_, _, _, _, he, _⟩ := e.fetched_eq cues
  rw [he]; exact h

/-- A fetched page keeps the cues in order, where it is the page of the cursor's cue. -/
theorem TrackEngine.fetched_orderly {e : TrackEngine} {cues : List Cue} {i : Nat} (h : e.Orderly) (hi : e.entryOf e.cursor = some i)
    (hp : e.IsPage i cues) : (e.fetched cues).Orderly := by
  obtain ⟨taken, cursor, start, htaken, he, hcur⟩ := e.fetched_eq cues
  rw [he]
  intro hidx
  have hidx : e.IndexOk := hidx
  obtain ⟨⟨hlen, ⟨hlook, hact, hcross⟩, hbelow⟩, hseek⟩ := (cuesOk_iff _).mp (h hidx)
  refine (cuesOk_iff _).mpr ⟨?_, hseek⟩
  obtain ⟨en, hen, -⟩ := id hp
  have hle := e.entryOf_firstCue hi hen
  obtain ⟨k, hk, hkend⟩ := dropWhile_numbers cues (hp.numbers hen) hle
  have hlast := hidx.firstFrom_succ hen
  have hcount := hidx.firstFrom_le_count (i + 1)
  have htn : taken.map (·.number) = List.range' e.cursor (min (lookLimit - e.look.length) k) := by
    rw [htaken, List.map_take, hk]
    exact List.ext_getElem (by simp) (by simp)
  have htl : taken.length = min (lookLimit - e.look.length) k := by
    simpa using congrArg List.length htn
  have hrange : ∀ c ∈ taken, e.cursor ≤ c.number ∧ c.number < e.cursor + taken.length := fun c hc => by
    rw [htl]; exact mem_of_numbers htn hc
  have hnext : ∀ c ∈ e.look ++ e.active, c.number < e.firstFrom (i + 1) := fun c hc => by
    have := e.below_next (hbelow c hc).1 (hbelow c hc).2
    rwa [hi] at this
  have hend : ∀ c ∈ taken, c.number < e.firstFrom (i + 1) := fun c hc => by
    obtain ⟨h0, h1⟩ := hrange c hc
    have h2 : taken.length ≤ k := by rw [htl]; exact Nat.min_le_right ..
    rcases hkend with rfl | hkend <;> omega
  refine ⟨?_, ⟨?_, hact, ?_⟩, ?_⟩
  · rw [List.length_append, htl]; simp only [lookLimit]; omega
  · refine List.pairwise_append.mpr ⟨hlook, pairwise_of_numbers htn, fun a ha c hc => ?_⟩
    exact (hbelow a (List.mem_append_left _ ha)).1.trans_le (hrange c hc).1
  · intro a ha c hc
    rcases List.mem_append.mp hc with hc | hc
    · exact hcross a ha c hc
    · exact (hbelow a (List.mem_append_right _ ha)).1.trans_le (hrange c hc).1
  · intro c hc
    have hc' : c ∈ e.look ++ e.active ∨ c ∈ taken := by
      simp only [List.mem_append] at hc ⊢; tauto
    have hlt : c.number < e.firstFrom (i + 1) := hc'.elim (hnext c) (hend c)
    refine ⟨?_, hlt.trans_le hcount⟩
    rcases hcur with rfl | ⟨-, rfl⟩
    · rcases hc' with hc' | hc'
      · exact (hbelow c hc').1.trans_le (Nat.le_add_right ..)
      · exact (hrange c hc').2
    · rw [hi]; exact hlt

theorem takeFetchPage_engineStep (s : State) (n : Aud) (t : TextTrack) (cues : List Cue) :
    EngineStep n t s (s.takeFetchPage n t cues) := by
  rw [takeFetchPage_eq]
  exact (modEng_engineStep s n t _ (TrackEngine.fetched_bounded cues)).trans (fetchTest_quietStep _ n t).toEngineStep

theorem takeFetchPage_orderly (s : State) (n : Aud) (t : TextTrack) (cues : List Cue) {i : Nat} (h : (s.eng n t).Orderly)
    (hi : (s.eng n t).entryOf (s.eng n t).cursor = some i) (hp : (s.eng n t).IsPage i cues) :
    ((s.takeFetchPage n t cues).eng n t).Orderly := by
  rw [takeFetchPage_eq]
  refine (fetchTest_quietStep _ n t).alike.orderly ?_
  rw [State.modEng_eng]
  exact TrackEngine.fetched_orderly h hi hp

theorem loseFetchPage_engineStep (s : State) (n : Aud) (t : TextTrack) : EngineStep n t s (s.loseFetchPage n t) := by
  unfold State.loseFetchPage
  simp only
  refine ((missCues_quietStep s n t _ _ _).toEngineStep.trans (modEng_engineStep _ n t _ fun h => ?_)).trans
    (fetchTest_quietStep _ n t).toEngineStep
  rw [TrackEngine.cursorTo_eq]; exact h

/-- A lost page moves the cursor past it, above every cue held (R97). -/
theorem loseFetchPage_orderly (s : State) (n : Aud) (t : TextTrack) (h : (s.eng n t).Orderly) :
    ((s.loseFetchPage n t).eng n t).Orderly := by
  unfold State.loseFetchPage
  simp only
  refine (fetchTest_quietStep _ n t).alike.orderly ?_
  rw [State.modEng_eng, TrackEngine.cursorTo_eq]
  have ha := fun a b c => (missCues_quietStep s n t a b c).alike
  intro hi
  obtain ⟨⟨hlen, hg, hbelow⟩, hseek⟩ := (TrackEngine.cuesOk_iff _).mp ((ha _ _ _).orderly h hi)
  refine (TrackEngine.cuesOk_iff _).mpr ⟨⟨hlen, hg, fun c hc => ⟨?_, (hbelow c hc).2⟩⟩, hseek⟩
  have := TrackEngine.below_next _ (hbelow c hc).1 (hbelow c hc).2
  rwa [TrackEngine.entryOf_congr (ha _ _ _).index, (ha _ _ _).cursor] at this

theorem discardRead_quietStep (s : State) (n : Aud) (t : TextTrack) : QuietStep n t s (s.discardRead n t) := by
  have hs := modEng_quietStep s n t (fun e => { e with out := none }) ⟨rfl, rfl, rfl, rfl, rfl, rfl, rfl, rfl⟩
  unfold State.discardRead
  simp only
  split
  · exact hs.trans (seekRead_quietStep _ n t)
  · exact hs.trans (fetchTest_quietStep _ n t)
  · exact hs

/-! ### The completion of an engine's read (R95 to R97, R103) -/

/-- Grading a read raises a notice or nothing (R34). -/
theorem graded_cases (s : State) (f : Flight) (errs : Nat) : s.graded f errs = s
    ∨ ∃ k x, s.graded f errs = s.raise .store k x := by
  unfold State.graded
  simp only
  split
  · exact .inl rfl
  · split
    · exact .inr ⟨_, _, rfl⟩
    · exact .inr ⟨_, _, rfl⟩

theorem graded_quietStep (s : State) (f : Flight) (errs : Nat) (n : Aud) (t : TextTrack) : QuietStep n t s (s.graded f errs) := by
  rcases graded_cases s f errs with h | ⟨k, x, h⟩
  · rw [h]; exact .refl n t s
  · rw [h]; exact raise_quietStep s n t _ k x

theorem graded_auds (s : State) (f : Flight) (errs : Nat) : (s.graded f errs).auds = s.auds := by
  rcases graded_cases s f errs with h | ⟨k, x, h⟩ <;> rw [h]; rfl

theorem graded_flash (s : State) (f : Flight) (errs : Nat) : (s.graded f errs).flash = s.flash := by
  rcases graded_cases s f errs with h | ⟨k, x, h⟩ <;> rw [h]; rfl

theorem graded_eng (s : State) (f : Flight) (errs : Nat) (n : Aud) (t : TextTrack) : (s.graded f errs).eng n t = s.eng n t := by
  simp only [State.eng, State.aud, graded_auds]

theorem graded_aud (s : State) (f : Flight) (errs : Nat) (n : Aud) : (s.graded f errs).aud n = s.aud n := by
  simp only [State.aud, graded_auds]

theorem graded_engineMatches (s : State) (f : Flight) (errs : Nat) (n : Aud) (t : TextTrack) (r : Request) :
    (s.graded f errs).engineMatches n t r = s.engineMatches n t r := by
  simp only [State.engineMatches, graded_eng, graded_aud]

/-- An engine that a completion matches is not OFF. -/
theorem engineMatches_not_off {s : State} {n : Aud} {t : TextTrack} {r : Request} (h : s.engineMatches n t r = true) :
    (s.eng n t).state ≠ .off := by
  unfold State.engineMatches at h
  have := (of_decide_eq_true h).2.2
  rw [this]
  cases r.kind <;> simp

theorem engineReadDone_engineStep (s : State) (f : Flight) (n : Aud) (t : TextTrack) (errs : Nat) :
    EngineStep n t s (s.engineReadDone f n t errs) := by
  have hs := (graded_quietStep s f errs n t).toEngineStep
  unfold State.engineReadDone
  simp only
  split
  · split
    · exact hs.trans (takeFetchPage_engineStep _ n t _)
    · exact hs.trans (loseFetchPage_engineStep _ n t)
    · exact hs.trans (takeSeekPage_engineStep _ n t _)
    · exact hs.trans (loseSeekPage_engineStep _ n t)
  · exact hs.trans (discardRead_quietStep _ n t).toEngineStep

/-- The completion of a read keeps the engine's cues in order, where a read that matches delivers the page it should. -/
theorem engineReadDone_orderly (s : State) (f : Flight) (n : Aud) (t : TextTrack) (errs : Nat) (hf : s.flight = some f)
    (hw : f.req.who = .engine n t) (hd : s.DeliversItsPage) (h : (s.eng n t).Orderly) :
    ((s.engineReadDone f n t errs).eng n t).Orderly := by
  have hg : ((s.graded f errs).eng n t).Orderly := by rwa [graded_eng]
  unfold State.engineReadDone
  simp only [graded_engineMatches]
  split
  · rename_i hm
    obtain ⟨hfetch, hseek⟩ := hd f n t hf hw hm
    split
    · rename_i hk _
      obtain ⟨i, hi, hp⟩ := hfetch hk
      refine takeFetchPage_orderly _ n t _ hg (by rwa [graded_eng]) ?_
      rwa [graded_eng, graded_flash]
    · exact loseFetchPage_orderly _ n t hg
    · rename_i hk _
      refine takeSeekPage_orderly _ n t _ hg fun k hk' => ?_
      rw [graded_eng] at hk' ⊢
      rw [graded_flash]
      exact hseek hk k hk'
    · exact loseSeekPage_orderly _ n t hg
  · exact (discardRead_quietStep _ n t).alike.orderly hg

theorem engineReadDone_enginesOk (s : State) (f : Flight) (n : Aud) (t : TextTrack) (errs : Nat) (hf : s.flight = some f)
    (hw : f.req.who = .engine n t) (hd : s.DeliversItsPage) : s.EnginesOk → (s.engineReadDone f n t errs).EnginesOk := by
  refine (engineReadDone_engineStep s f n t errs).engines (engineReadDone_orderly s f n t errs hf hw hd) fun _ hsil => ?_
  have hm : ¬ (s.graded f errs).engineMatches n t f.req = true := fun hm => by
    rw [graded_engineMatches] at hm
    exact engineMatches_not_off hm hsil.1
  unfold State.engineReadDone
  simp only [hm]
  exact ((graded_quietStep s f errs n t).trans (discardRead_quietStep _ n t)).alike.silent hsil

/-! ### The release check (R98 to R101) -/

/-- The active set once room is made for one more cue (R100 c). -/
def roomFor (active : List Cue) : List Cue := if activeLimit ≤ active.length then active.tail else active

theorem roomFor_sublist (l : List Cue) : (roomFor l).Sublist l := by
  unfold roomFor
  split
  · exact List.tail_sublist _
  · exact .refl _

theorem roomFor_length {l : List Cue} (h : l.length ≤ activeLimit) : (roomFor l).length < activeLimit := by
  unfold roomFor
  split
  · rw [List.length_tail]; simp only [activeLimit] at *; omega
  · omega

theorem cutOldest_spec (s : State) (n : Aud) (t : TextTrack) (w : Bool) : EngineStep n t s (s.cutOldest n t w)
    ∧ ({ s.eng n t with active := roomFor (s.eng n t).active } : TrackEngine).Alike ((s.cutOldest n t w).eng n t) := by
  unfold State.cutOldest
  split
  · rename_i c rest hact
    split
    · rename_i hfull
      have hroom : roomFor (s.eng n t).active = rest := by rw [hact, roomFor, if_pos hfull]; rfl
      rw [hroom]
      have hs := modEng_engineStep s n t (fun e => { e with active := rest }) fun h =>
        ⟨(Nat.le_of_succ_le (by have := h.1; rwa [hact] at this) : rest.length ≤ _), h.2⟩
      have hq : ({ s.eng n t with active := rest } : TrackEngine).Alike ((s.modEng n t fun e => { e with active := rest }).eng n t) :=
        .of_eq (State.modEng_eng ..)
      simp only
      split
      · exact ⟨hs, hq⟩
      · have hsub := submit_quietStep (s.modEng n t fun e => { e with active := rest }) n t (.cueOff t c.number)
        exact ⟨hs.trans hsub.toEngineStep, hq.trans hsub.alike⟩
    · rename_i hfew
      have hroom : roomFor (s.eng n t).active = (s.eng n t).active := by rw [hact, roomFor, if_neg hfew]
      exact ⟨.refl n t s, by rw [hroom]; exact .refl _⟩
  · rename_i hact
    have hroom : roomFor (s.eng n t).active = (s.eng n t).active := by rw [hact]; rfl
    exact ⟨.refl n t s, by rw [hroom]; exact .refl _⟩

/-- The engine as its first queued cue becomes active. -/
def TrackEngine.released (c : Cue) (rest : List Cue) (e : TrackEngine) : TrackEngine :=
  { e with look := rest, active := insertCue c e.active }

/-- One cue is released: a cut where the active set is full, the cue moved, its event submitted or withheld (R100). -/
def State.releaseOne (s : State) (n : Aud) (t : TextTrack) (w : Bool) (c : Cue) (rest : List Cue) : State :=
  let s := (s.cutOldest n t w).modEng n t (TrackEngine.released c rest)
  if w then s else s.submit n (.cueOn t c)

theorem releaseDue_succ (n : Aud) (t : TextTrack) (q : Nat) (w : Bool) (fuel : Nat) (s : State) :
    State.releaseDue n t q w (fuel + 1) s =
      match (s.eng n t).look with
      | [] => s
      | c :: rest =>
        if q < c.startTick then s
        else if c.endTick ≤ q then
          State.releaseDue n t q w fuel ((s.modEng n t fun e => { e with look := rest }).missCues n t c.number 1 1)
        else State.releaseDue n t q w fuel (s.releaseOne n t w c rest) := rfl

theorem releaseOne_spec (s : State) (n : Aud) (t : TextTrack) (w : Bool) (c : Cue) (rest : List Cue) :
    EngineStep n t s (s.releaseOne n t w c rest)
      ∧ ({ s.eng n t with look := rest, active := insertCue c (roomFor (s.eng n t).active) } : TrackEngine).Alike
          ((s.releaseOne n t w c rest).eng n t) := by
  obtain ⟨hcut, hcut'⟩ := cutOldest_spec s n t w
  have hs : EngineStep n t s ((s.cutOldest n t w).modEng n t (TrackEngine.released c rest)) :=
    ⟨hcut.toEngineFrame.trans (modEng_engineFrame _ n t _), fun k => by
      have hb := ((eventsWithin_iff s).mp k n).2 t
      have hb' := ((eventsWithin_iff _).mp (hcut.events k) n).2 t
      refine modEng_eventsWithin _ n t _ (hcut.events k) ⟨?_, hb'.2⟩
      have : (insertCue c ((s.cutOldest n t w).eng n t).active).length ≤ activeLimit := by
        rw [insertCue_length, hcut'.active]; exact roomFor_length hb.1
      exact this⟩
  have hq : ({ s.eng n t with look := rest, active := insertCue c (roomFor (s.eng n t).active) } : TrackEngine).Alike
      (((s.cutOldest n t w).modEng n t (TrackEngine.released c rest)).eng n t) := by
    rw [State.modEng_eng]
    exact ⟨hcut'.state, hcut'.cueCount, hcut'.index, hcut'.cursor, rfl, congrArg (insertCue c) hcut'.active, hcut'.seekPos,
      hcut'.seek⟩
  unfold State.releaseOne
  simp only
  split
  · exact ⟨hs, hq⟩
  · have hsub := submit_quietStep ((s.cutOldest n t w).modEng n t (TrackEngine.released c rest)) n t (.cueOn t c)
    exact ⟨hs.trans hsub.toEngineStep, hq.trans hsub.alike⟩

/-- Dropping cues of the two sets keeps the rest in order. -/
theorem TrackEngine.SetsOk.of_sublist {e : TrackEngine} {look active : List Cue} (h : e.SetsOk) (hl : look.Sublist e.look)
    (ha : active.Sublist e.active) : ({ e with look := look, active := active } : TrackEngine).SetsOk := by
  obtain ⟨hlen, ⟨hlook, hact, hcross⟩, hbelow⟩ := h
  refine ⟨hl.length_le.trans hlen, ⟨hlook.sublist hl, hact.sublist ha, fun a haa c hc => hcross a (ha.subset haa) c (hl.subset hc)⟩,
    fun c hc => hbelow c ?_⟩
  exact (hl.append ha).subset hc

theorem TrackEngine.Orderly.of_sublist {e : TrackEngine} {look active : List Cue} (h : e.Orderly) (hl : look.Sublist e.look)
    (ha : active.Sublist e.active) : ({ e with look := look, active := active } : TrackEngine).Orderly := fun hi =>
  have hc := (cuesOk_iff _).mp (h hi)
  (cuesOk_iff _).mpr ⟨hc.1.of_sublist hl ha, hc.2⟩

/-- The first queued cue may join the active set: it lies above every active cue and below the rest of the queue. -/
theorem TrackEngine.Orderly.release {e : TrackEngine} {c : Cue} {rest : List Cue} (h : e.Orderly) (hl : e.look = c :: rest) :
    ({ e with look := rest, active := insertCue c (roomFor e.active) } : TrackEngine).Orderly := by
  intro hi
  obtain ⟨⟨hlen, ⟨hlook, hact, hcross⟩, hbelow⟩, hseek⟩ := (cuesOk_iff _).mp (h hi)
  rw [hl] at hlen hlook hcross hbelow
  obtain ⟨hfirst, hrest⟩ := List.pairwise_cons.mp hlook
  have hsub := roomFor_sublist e.active
  have hmem : ∀ a ∈ insertCue c (roomFor e.active), a = c ∨ a ∈ e.active := fun a ha =>
    (List.mem_cons.mp ((insertCue_perm c _).mem_iff.mp ha)).imp_right (hsub.subset ·)
  refine (cuesOk_iff _).mpr ⟨⟨Nat.le_of_succ_le hlen, ⟨hrest, ?_, fun a ha d hd => ?_⟩, fun d hd => hbelow d ?_⟩, hseek⟩
  · refine distinct_perm (insertCue_perm c _) (List.pairwise_cons.mpr ⟨fun a ha => ?_, hact.sublist hsub⟩)
    exact (hcross a (hsub.subset ha) c (List.mem_cons_self ..)).ne'
  · rcases hmem a ha with rfl | ha
    · exact hfirst d hd
    · exact hcross a ha d (List.mem_cons_of_mem _ hd)
  · rcases List.mem_append.mp hd with hd | hd
    · exact List.mem_append_left _ (List.mem_cons_of_mem _ hd)
    · rcases hmem d hd with rfl | hd
      · exact List.mem_append_left _ (List.mem_cons_self ..)
      · exact List.mem_append_right _ hd

theorem releaseDue_spec (n : Aud) (t : TextTrack) (q : Nat) (w : Bool) (fuel : Nat) : ∀ s : State,
    EngineStep n t s (State.releaseDue n t q w fuel s)
      ∧ ((s.eng n t).Orderly → ((State.releaseDue n t q w fuel s).eng n t).Orderly) := by
  induction fuel with
  | zero => exact fun s => ⟨.refl n t s, id⟩
  | succ fuel ih =>
    intro s
    rw [releaseDue_succ]
    split
    · exact ⟨.refl n t s, id⟩
    · rename_i c rest hl
      split
      · exact ⟨.refl n t s, id⟩
      · split
        · obtain ⟨h1, h2⟩ := ih ((s.modEng n t fun e => { e with look := rest }).missCues n t c.number 1 1)
          have hm := missCues_quietStep (s.modEng n t fun e => { e with look := rest }) n t c.number 1 1
          refine ⟨((modEng_engineStep s n t _ id).trans hm.toEngineStep).trans h1, fun ho => h2 (hm.alike.orderly ?_)⟩
          rw [State.modEng_eng]
          exact ho.of_sublist (by rw [hl]; exact List.sublist_cons_self ..) (.refl _)
        · obtain ⟨h1, h2⟩ := ih (s.releaseOne n t w c rest)
          obtain ⟨h3, h4⟩ := releaseOne_spec s n t w c rest
          exact ⟨h3.trans h1, fun ho => h2 (h4.orderly (ho.release hl))⟩

theorem TrackEngine.tests_eq (q : Nat) (e : TrackEngine) : ∃ st starved count,
    e.tests q = { e with state := st, starved := starved, starveCount := count } := by
  refine ⟨(e.tests q).state, (e.tests q).starved, (e.tests q).starveCount, ?_⟩
  unfold tests
  simp only
  repeat' split
  all_goals rfl

/-- A release check keeps the laws of its engine (R98 to R101). -/
theorem releaseCheck_spec (s : State) (n : Aud) (p : Nat) (w : Bool) (t : TextTrack) :
    EngineStep n t s (s.releaseCheck n p w t) ∧ ((s.eng n t).Orderly → ((s.releaseCheck n p w t).eng n t).Orderly) := by
  unfold State.releaseCheck
  split
  · simp only
    set q := p + ((s.aud n).ctx.text.get t).lead
    set s1 := s.modEng n t fun e => { e with active := e.active.filter fun c => decide (q < c.endTick) } with hs1
    obtain ⟨h1, h2⟩ := releaseDue_spec n t q w (s1.eng n t).look.length s1
    set s2 := State.releaseDue n t q w (s1.eng n t).look.length s1
    obtain ⟨st, starved, count, htests⟩ := (s2.eng n t).tests_eq q
    have hf := modEng_engineStep s n t (fun e => { e with active := e.active.filter fun c => decide (q < c.endTick) })
      fun h => ⟨(List.length_filter_le ..).trans h.1, h.2⟩
    have ht := modEng_engineStep s2 n t (fun e => e.tests q) fun h => by rw [htests]; exact h
    have hq := fetchTest_quietStep (s2.modEng n t fun e => e.tests q) n t
    refine ⟨((hf.trans h1).trans ht).trans hq.toEngineStep, fun ho => hq.alike.orderly ?_⟩
    have ho2 := h2 (by rw [hs1, State.modEng_eng]; exact ho.of_sublist (.refl _) List.filter_sublist)
    rw [State.modEng_eng, htests]
    exact ho2
  · exact ⟨.refl n t s, id⟩

theorem releaseCheck_enginesOk (s : State) (n : Aud) (p : Nat) (w : Bool) (t : TextTrack) (h : s.EnginesOk) :
    (s.releaseCheck n p w t).EnginesOk := by
  obtain ⟨h1, h2⟩ := releaseCheck_spec s n p w t
  refine h1.engines h2 (fun _ hsil => ?_) h
  unfold State.releaseCheck
  rw [if_neg (by rw [hsil.1]; simp)]
  exact hsil

/-! ### The signals of the show timeline (R92) -/

/-- The engine without cues in the sets that a signal clears, in the state that it gives. -/
theorem textWait_engineStep (s : State) (n : Aud) (t : TextTrack) : EngineStep n t s (s.textWait n t) := by
  unfold State.textWait
  exact ((dropWaiting_quietStep s n t).toEngineStep.trans (modEng_engineStep _ n t _ fun _ =>
    ⟨Nat.zero_le _, fun k hk => by cases hk⟩)).trans (submit_quietStep _ n t _).toEngineStep

theorem textWait_orderly (s : State) (n : Aud) (t : TextTrack) (h : (s.eng n t).Orderly) : ((s.textWait n t).eng n t).Orderly := by
  unfold State.textWait
  refine (submit_quietStep _ n t _).alike.orderly ?_
  rw [State.modEng_eng]
  intro hi
  obtain ⟨hsets, -⟩ := (TrackEngine.cuesOk_iff _).mp ((dropWaiting_quietStep s n t).alike.orderly h hi)
  exact (TrackEngine.cuesOk_iff _).mpr ⟨hsets.of_sublist (.refl _) (List.nil_sublist _), fun k hk => by cases hk⟩

theorem textFinish_engineStep (s : State) (n : Aud) (t : TextTrack) : EngineStep n t s (s.textFinish n t) := by
  unfold State.textFinish
  exact ((dropWaiting_quietStep s n t).toEngineStep.trans (modEng_engineStep _ n t _ fun _ =>
    ⟨Nat.zero_le _, fun k hk => by cases hk⟩)).trans (submit_quietStep _ n t _).toEngineStep

theorem textFinish_orderly (s : State) (n : Aud) (t : TextTrack) : ((s.textFinish n t).eng n t).Orderly := by
  unfold State.textFinish
  refine (submit_quietStep _ n t _).alike.orderly ?_
  rw [State.modEng_eng]
  exact TrackEngine.Emptied.orderly ⟨rfl, rfl, fun k hk => by cases hk⟩

theorem textOff_engineStep (s : State) (n : Aud) (t : TextTrack) : EngineStep n t s (s.textOff n t) := by
  unfold State.textOff
  simp only
  refine .trans ?_ (modEng_engineStep _ n t (fun e => { e with state := .off }) fun h => ⟨h.1, h.2⟩)
  exact ((dropWaiting_quietStep s n t).toEngineStep.trans (modEng_engineStep _ n t _ fun _ =>
    ⟨Nat.zero_le _, fun k hk => by cases hk⟩)).trans (submit_quietStep _ n t _).toEngineStep

/-- A track that goes OFF is silent (R92 g, h). -/
theorem textOff_silent (s : State) (n : Aud) (t : TextTrack) : ((s.textOff n t).eng n t).Silent := by
  unfold State.textOff
  simp only
  rw [State.modEng_eng]
  have h := (submit_quietStep ((s.dropWaiting n t).modEng n t fun e => { e with look := [], active := [], seek := none }) n t
    (.clear t)).alike
  rw [State.modEng_eng] at h
  exact ⟨rfl, h.look, h.active, h.seek⟩

theorem textUnbind_engineStep (s : State) (n : Aud) (t : TextTrack) : EngineStep n t s (s.textUnbind n t) := by
  unfold State.textUnbind
  exact (textOff_engineStep s n t).trans (modEng_engineStep _ n t _ fun h => ⟨h.1, h.2⟩)

theorem textUnbind_silent (s : State) (n : Aud) (t : TextTrack) : ((s.textUnbind n t).eng n t).Silent := by
  unfold State.textUnbind
  rw [State.modEng_eng]
  have h := textOff_silent s n t
  generalize (s.textOff n t).eng n t = e at h ⊢
  exact ⟨h.1, h.2⟩

theorem textSeek_engineStep (p : Nat) (s : State) (n : Aud) (t : TextTrack) : EngineStep n t s (State.textSeek p s n t) := by
  unfold State.textSeek
  exact startSeek_engineStep s n t _

theorem textSeek_orderly (p : Nat) (s : State) (n : Aud) (t : TextTrack) : ((State.textSeek p s n t).eng n t).Orderly := by
  unfold State.textSeek
  exact startSeek_orderly s n t _

theorem textOnSignal_engineStep (p : Nat) (s : State) (n : Aud) (t : TextTrack) : EngineStep n t s (State.textOnSignal p s n t) := by
  have hs := modEng_engineStep s n t (fun e => { e with
    cueCount := (s.aud n).ctx.cueCounts.get t, index := (s.aud n).ctx.index.get t }) id
  have hclear (st : TrackState) := hs.trans (modEng_engineStep _ n t
    (fun e => { e with look := [], active := [], seek := none, state := st }) fun _ => ⟨Nat.zero_le _, fun k hk => by cases hk⟩)
  unfold State.textOnSignal
  simp only
  split
  · exact hs.trans (textSeek_engineStep p _ n t)
  · exact hs.trans (textSeek_engineStep p _ n t)
  · exact hclear .waiting
  · exact hclear .waiting
  · exact hclear .waiting
  · exact hclear .ended
  · exact hs
  · exact hs

/-- The track-on signal leaves the engine of a live show with its cues in order, whatever it held (R92 i). -/
theorem textOnSignal_orderly (p : Nat) (s : State) (n : Aud) (t : TextTrack) (h : (s.aud n).ctx.st.Live) :
    ((State.textOnSignal p s n t).eng n t).Orderly := by
  have hclear (s : State) (st : TrackState) :
      ((s.modEng n t fun e => { e with look := [], active := [], seek := none, state := st }).eng n t).Orderly := by
    rw [State.modEng_eng]; exact TrackEngine.Emptied.orderly ⟨rfl, rfl, fun k hk => by cases hk⟩
  unfold State.textOnSignal
  simp only
  split
  · exact textSeek_orderly p _ n t
  · exact textSeek_orderly p _ n t
  · exact hclear _ _
  · exact hclear _ _
  · exact hclear _ _
  · exact hclear _ _
  · rename_i hb; exact absurd hb h.2
  · rename_i hv; exact absurd hv h.1

/-- The engine at the bound signal (R92 a). -/
def TrackEngine.boundTo (enabled : Bool) (count : Nat) (index : List IndexEntry) (e : TrackEngine) : TrackEngine :=
  let e := { e with starveCount := 0, missed := 0 }
  if enabled then { e with state := .waiting, cueCount := count, index := index, cursor := 0, cursorStart := none, look := [], active := [] }
  else e

theorem textBound_eq (s : State) (n : Aud) (t : TextTrack) : s.textBound n t =
    s.modEng n t (TrackEngine.boundTo (s.textOn n t) ((s.aud n).ctx.cueCounts.get t) ((s.aud n).ctx.index.get t)) := rfl

theorem textBound_engineStep (s : State) (n : Aud) (t : TextTrack) : EngineStep n t s (s.textBound n t) := by
  rw [textBound_eq]
  refine modEng_engineStep s n t _ fun h => ?_
  unfold TrackEngine.boundTo
  split
  · exact ⟨Nat.zero_le _, h.2⟩
  · exact h

/-- The bound signal meets silent engines, and leaves those of disabled tracks silent. -/
theorem textBound_spec (s : State) (n : Aud) (t : TextTrack) (h : (s.eng n t).Silent) :
    ((s.textBound n t).eng n t).Orderly ∧ (s.textOn n t = false → ((s.textBound n t).eng n t).Silent) := by
  rw [textBound_eq, State.modEng_eng]
  unfold TrackEngine.boundTo
  split
  · rename_i hon
    exact ⟨TrackEngine.Emptied.orderly ⟨rfl, rfl, h.emptied.2.2⟩, fun hoff => absurd hon (by simp [hoff])⟩
  · exact ⟨TrackEngine.Emptied.orderly h.emptied, fun _ => h⟩

/-! ### A commit (R110) -/

theorem replaceCue_numbers (c : Cue) (l : List Cue) : (replaceCue c l).map (·.number) = l.map (·.number) := by
  unfold replaceCue
  rw [List.map_map]
  refine List.map_congr_left fun d _ => ?_
  by_cases h : d.number = c.number <;> simp [h]

theorem forall_mem_of_numbers {l m : List Cue} (h : m.map (·.number) = l.map (·.number)) {P : Nat → Prop}
    (k : ∀ c ∈ l, P c.number) : ∀ c ∈ m, P c.number := by
  rw [← List.forall_mem_map (f := Cue.number) (P := P)] at k ⊢
  rwa [h]

theorem Gathers.of_numbers {ov fu ov' fu' : List Cue} (h : Gathers ov fu) (ho : ov'.map (·.number) = ov.map (·.number))
    (hf : fu'.map (·.number) = fu.map (·.number)) : Gathers ov' fu' := by
  obtain ⟨h1, h2, h3⟩ := h
  refine ⟨?_, ?_, ?_⟩
  · rw [← List.pairwise_map (f := Cue.number) (R := (· < ·))] at h1 ⊢
    rwa [hf]
  · rw [← List.pairwise_map (f := Cue.number) (R := (· ≠ ·))] at h2 ⊢
    rwa [ho]
  · exact forall_mem_of_numbers (P := fun a => ∀ c ∈ fu', a < c.number) ho fun a ha =>
      forall_mem_of_numbers (P := fun b => a.number < b) hf (h3 a ha)

/-- The copies of an amended cue replaced in an engine (R110). -/
def TrackEngine.amended (c : Cue) (e : TrackEngine) : TrackEngine :=
  { e with look := replaceCue c e.look, active := replaceCue c e.active
           seek := e.seek.map fun k => { k with overlap := replaceCue c k.overlap, future := replaceCue c k.future } }

theorem TrackEngine.amended_orderly (c : Cue) {e : TrackEngine} (h : e.Orderly) : (e.amended c).Orderly := by
  intro hi
  obtain ⟨⟨hlen, hg, hbelow⟩, hseek⟩ := (cuesOk_iff _).mp (h hi)
  have hr := replaceCue_numbers c
  refine (cuesOk_iff _).mpr ⟨⟨?_, hg.of_numbers (hr _) (hr _), ?_⟩, fun k hk => ?_⟩
  · simpa [amended, replaceCue] using hlen
  · exact forall_mem_of_numbers (P := fun a => a < e.cursor ∧ a < e.cueCount) (by simp [amended, hr]) hbelow
  · obtain ⟨k', hk', rfl⟩ := Option.map_eq_some_iff.mp hk
    obtain ⟨hl, hg, hb, hf⟩ := hseek k' hk'
    refine ⟨by simpa [replaceCue] using hl, hg.of_numbers (hr _) (hr _), ?_, fun hne => hf ?_⟩
    · exact forall_mem_of_numbers (P := fun a => a < e.firstFrom k'.entry) (by simp [hr]) hb
    · rintro he; exact hne (by simp [replaceCue, he])

theorem TrackEngine.amended_silent (c : Cue) {e : TrackEngine} (h : e.Silent) : (e.amended c).Silent := by
  obtain ⟨h1, h2, h3, h4⟩ := h
  exact ⟨h1, by simp [amended, replaceCue, h2], by simp [amended, replaceCue, h3], by simp [amended, h4]⟩

theorem TrackEngine.amended_bounded (c : Cue) {e : TrackEngine} (h : e.Bounded) : (e.amended c).Bounded := by
  refine ⟨by simpa [amended, replaceCue] using h.1, fun k hk => ?_⟩
  obtain ⟨k', hk', rfl⟩ := Option.map_eq_some_iff.mp hk
  simpa [replaceCue] using h.2 k' hk'

theorem textAmended_eq (c : Cue) (s : State) (n : Aud) (t : TextTrack) : State.textAmended c s n t =
    let s' := s.modEng n t (TrackEngine.amended c)
    if ((s.eng n t).active.any fun d => decide (d.number = c.number)) ∧ s'.withheld n = false then s'.submit n (.cueOn t c) else s' := rfl

theorem textAmended_spec (c : Cue) (s : State) (n : Aud) (t : TextTrack) : EngineStep n t s (State.textAmended c s n t)
    ∧ (s.EnginesOk → (State.textAmended c s n t).EnginesOk) := by
  have hs := modEng_engineStep s n t _ (TrackEngine.amended_bounded c)
  have he := hs.engines (by rw [State.modEng_eng]; exact TrackEngine.amended_orderly c)
    fun _ => by rw [State.modEng_eng]; exact TrackEngine.amended_silent c
  rw [textAmended_eq]
  simp only
  split
  · have hq := submit_quietStep (s.modEng n t (TrackEngine.amended c)) n t (.cueOn t c)
    exact ⟨hs.trans hq.toEngineStep, hq.enginesOk ∘ he⟩
  · exact ⟨hs, he⟩

end Sys2Proof.Machine

/-! ## What a step keeps of the store, the event lists, the playout queues and the engines -/

namespace Sys2Proof.Machine

/-- The flash, the phase and the scan are as they were, and the laws of the directory, the request queue, the event lists, the playout queues
and the track engines are kept. -/
structure Keeps (s t : State) : Prop where
  flash : t.flash = s.flash
  phase : t.phase = s.phase
  scan : t.scan = s.scan
  directory : InOrder s.packages → InOrder t.packages
  queue : s.QueueOk → t.QueueOk
  events : s.EventsWithin → t.EventsWithin
  playouts : s.PlayoutsOk → t.PlayoutsOk
  engines : s.EnginesOk → t.EnginesOk

namespace Keeps

variable {n : Aud} {s s' s'' : State}

theorem refl (s : State) : Keeps s s := ⟨rfl, rfl, rfl, id, id, id, id, id⟩

theorem trans (h : Keeps s s') (k : Keeps s' s'') : Keeps s s'' where
  flash := k.flash.trans h.flash
  phase := k.phase.trans h.phase
  scan := k.scan.trans h.scan
  directory := k.directory ∘ h.directory
  queue := k.queue ∘ h.queue
  events := k.events ∘ h.events
  playouts := k.playouts ∘ h.playouts
  engines := k.engines ∘ h.engines

/-- A change outside the flash, the scan, the requests and the auditoriums. -/
theorem of_packages (flash : s'.flash = s.flash) (phase : s'.phase = s.phase) (scan : s'.scan = s.scan)
    (queue : s'.queue = s.queue) (flight : s'.flight = s.flight) (auds : s'.auds = s.auds)
    (directory : InOrder s.packages → InOrder s'.packages) : Keeps s s' where
  flash := flash
  phase := phase
  scan := scan
  directory := directory
  queue := by simp only [State.QueueOk, queue, flight, imp_self]
  events := by simp only [State.EventsWithin, State.aud, auds, imp_self]
  playouts := by simp only [State.PlayoutsOk, State.play, State.aud, auds, imp_self]
  engines := by simp only [State.EnginesOk, State.eng, State.textOn, State.aud, auds, imp_self]

/-- A change outside the flash, the scan, the directory, the requests and the auditoriums. -/
theorem of_same (flash : s'.flash = s.flash) (phase : s'.phase = s.phase) (scan : s'.scan = s.scan) (packages : s'.packages = s.packages)
    (queue : s'.queue = s.queue) (flight : s'.flight = s.flight) (auds : s'.auds = s.auds) : Keeps s s' :=
  of_packages flash phase scan queue flight auds (by rw [packages]; exact id)

theorem of_only (h : OnlyAud n s s') (queue : s.QueueOk → s'.QueueOk) (events : s.EventsWithin → s'.EventsWithin)
    (playouts : s.PlayoutsOk → s'.PlayoutsOk) (engines : s.EnginesOk → s'.EnginesOk) : Keeps s s' where
  flash := h.flash
  phase := h.phase
  scan := h.scan
  directory := by rw [h.packages]; exact id
  queue := queue
  events := events
  playouts := playouts
  engines := engines

end Keeps

theorem EngineStep.keeps {n : Aud} {t : TextTrack} {s s' : State} (h : EngineStep n t s s') (engines : s.EnginesOk → s'.EnginesOk) :
    Keeps s s' :=
  .of_only h.only h.queue h.events (fun k m u => by rw [h.play]; exact k m u) engines

theorem QuietStep.keeps {n : Aud} {t : TextTrack} {s s' : State} (h : QuietStep n t s s') : Keeps s s' :=
  h.toEngineStep.keeps h.enginesOk

/-- A step of an engine that has to keep its cues in order in a live show. -/
theorem EngineStep.keeps_live {n : Aud} {t : TextTrack} {s s' : State} (h : EngineStep n t s s') (on : s.textOn n t = true)
    (live : (s.aud n).ctx.st.Live) (cues : (s.eng n t).Orderly → (s'.eng n t).Orderly) : Keeps s s' :=
  h.keeps (h.engines cues fun k => by
    rcases k with k | k
    · rw [on] at k; cases k
    · exact absurd live k)

/-! ### The updates of an auditorium -/

theorem raise_keeps (s : State) (src : Source) (k : NoticeKind) (x : List Byte) : Keeps s (s.raise src k x) :=
  .of_same rfl rfl rfl rfl rfl rfl rfl

theorem modInput_keeps (s : State) (n : Aud) (f : InputUnit → InputUnit) : Keeps s (s.modInput n f) :=
  .of_only (modInput_only s n f) id (by simp [State.EventsWithin, Auditorium.EventsOk]) (by simp [State.PlayoutsOk, State.play])
    (by simp [State.EnginesOk, State.eng, State.textOn])

theorem modEmit_keeps (s : State) (n : Aud) (f : Emitter → Emitter) : Keeps s (s.modEmit n f) :=
  .of_only (modEmit_only s n f) id (by simp [State.EventsWithin, Auditorium.EventsOk]) (by simp [State.PlayoutsOk, State.play])
    (by simp [State.EnginesOk, State.eng, State.textOn])

theorem modAir_keeps (s : State) (n : Aud) (f : AirSched → AirSched)
    (h : (s.aud n).air.pend.length ≤ pendingLimit → (f (s.aud n).air).pend.length ≤ pendingLimit) : Keeps s (s.modAir n f) :=
  (modAir_quietStep s n 0 f fun k => h (k n).1).keeps

/-- A change of the show context keeps the engines' law where it makes no more of them silent. -/
theorem modCtx_keeps (s : State) (n : Aud) (f : ShowCtx → ShowCtx)
    (h : ∀ t, ((f (s.aud n).ctx).text.get t).enabled = false ∨ ¬ (f (s.aud n).ctx).st.Live →
      ((s.aud n).ctx.text.get t).enabled = false ∨ ¬ (s.aud n).ctx.st.Live) : Keeps s (s.modCtx n f) := by
  refine .of_only (modCtx_only s n f) id (by simp [State.EventsWithin, Auditorium.EventsOk]) (by simp [State.PlayoutsOk, State.play]) ?_
  intro k
  rw [enginesOk_iff] at k ⊢
  intro m t
  obtain ⟨k1, k2⟩ := k m t
  have he : (s.modCtx n f).eng m t = s.eng m t := by simp [State.eng]
  rw [he]
  refine ⟨k1, fun hs => k2 ?_⟩
  by_cases hm : m = n
  · subst hm
    simp only [State.textOn, State.modCtx_same] at hs
    exact h t hs
  · simpa only [State.textOn, State.modCtx_other _ _ _ _ hm] using hs

/-- A change of the show context that leaves the enables and the show state. -/
theorem modCtx_keeps_of_eq (s : State) (n : Aud) (f : ShowCtx → ShowCtx) (ht : (f (s.aud n).ctx).text = (s.aud n).ctx.text)
    (hst : (f (s.aud n).ctx).st = (s.aud n).ctx.st) : Keeps s (s.modCtx n f) :=
  modCtx_keeps s n f fun t => by rw [ht, hst]; exact id

/-- A change of the show context that leaves the enables, to a live show state. -/
theorem modCtx_keeps_live (s : State) (n : Aud) (f : ShowCtx → ShowCtx) (ht : (f (s.aud n).ctx).text = (s.aud n).ctx.text)
    (hst : (f (s.aud n).ctx).st.Live) : Keeps s (s.modCtx n f) :=
  modCtx_keeps s n f fun t k => .inl (by rw [ht] at k; exact k.resolve_right fun hn => hn hst)

theorem modPlay_keeps (s : State) (n : Aud) (t : SoundTrack) (f : Playout → Playout)
    (h : (s.play n t).QueueOk → (f (s.play n t)).QueueOk) : Keeps s (s.modPlay n t f) := by
  refine .of_only (modPlay_only s n t f) id (by simp [State.EventsWithin, Auditorium.EventsOk]) (fun k m u => ?_)
    (by simp [State.EnginesOk, State.eng, State.textOn])
  by_cases hm : m = n
  · subst hm
    by_cases hu : u = t
    · subst hu; rw [State.modPlay_play]; exact h (k m u)
    · rw [State.modPlay_play_other _ _ _ _ _ hu]; exact k m u
  · simpa only [State.play, State.modPlay_other _ _ _ _ _ hm] using k m u

theorem submit_keeps (s : State) (n : Aud) (ev : Event) : Keeps s (s.submit n ev) := (submit_quietStep s n 0 ev).keeps

theorem restoreAll_keeps (s : State) (n : Aud) : Keeps s (s.restoreAll n) := (restoreAll_quietStep s n 0).keeps

theorem graded_keeps (s : State) (f : Flight) (errs : Nat) : Keeps s (s.graded f errs) := (graded_quietStep s f errs 0 0).keeps

theorem withdraw_keeps (s : State) (w : Requester) : Keeps s (s.withdraw w) := (QuietStep.mk (withdraw_engineStep s 0 0 w) (.refl _)).keeps

theorem foldl_keeps {α : Type} (f : State → α → State) (h : ∀ s a, Keeps s (f s a)) (l : List α) : ∀ s, Keeps s (l.foldl f s) := by
  induction l with
  | nil => exact .refl
  | cons a as ih => exact fun s => (h s a).trans (ih _)

/-! ### Requests -/

/-- Starting a waiting request leaves the laws of the engines and of what is not a request. -/
theorem start_laws (s : State) (r : Request) : (s.start r).flash = s.flash ∧ (s.start r).phase = s.phase ∧ (s.start r).scan = s.scan
    ∧ (s.start r).packages = s.packages := by
  unfold State.start
  split <;> exact ⟨rfl, rfl, rfl, rfl⟩

theorem EnginesOk_of_alike {s s' : State} (eng : ∀ n t, (s.eng n t).Alike (s'.eng n t)) (ctx : ∀ n, (s'.aud n).ctx = (s.aud n).ctx)
    (h : s.EnginesOk) : s'.EnginesOk := by
  rw [enginesOk_iff] at h ⊢
  intro n t
  simp only [State.textOn, ctx]
  exact ⟨(eng n t).orderly (h n t).1, fun hs => (eng n t).silent ((h n t).2 hs)⟩

theorem EventsWithin_of_alike {s s' : State} (eng : ∀ n t, (s.eng n t).Alike (s'.eng n t)) (air : ∀ n, (s'.aud n).air = (s.aud n).air)
    (h : s.EventsWithin) : s'.EventsWithin := by
  rw [eventsWithin_iff] at h ⊢
  intro n
  rw [air]
  exact ⟨(h n).1, fun t => (eng n t).bounded ((h n).2 t)⟩

theorem PlayoutsOk_of_sound {s s' : State} (sound : ∀ n, (s'.aud n).sound = (s.aud n).sound) (h : s.PlayoutsOk) : s'.PlayoutsOk :=
  fun n t => by simpa only [State.play, sound] using h n t

theorem request_keeps_laws (s : State) (r : Request) : Keeps s (s.request r) where
  flash := (request_keeps s r).2.2.2.2.2.2.1
  phase := by unfold State.request; simp only; split; exacts [(start_laws _ r).2.1, rfl]
  scan := by unfold State.request; simp only; split; exacts [(start_laws _ r).2.2.1, rfl]
  directory := by rw [(request_keeps s r).2.2.1]; exact id
  queue := request_queueOk s r
  events := EventsWithin_of_alike (request_alike s r) fun n => (request_aud s r n).2.2.1
  playouts := PlayoutsOk_of_sound fun n => (request_aud s r n).2.1
  engines := EnginesOk_of_alike (request_alike s r) fun n => (request_aud s r n).1

theorem startNext_alike (s : State) (n : Aud) (t : TextTrack) : (s.eng n t).Alike (s.startNext.eng n t) := by
  unfold State.startNext
  simp only
  split
  · exact start_alike (State.withdraw { s with flight := none } _) _ n t
  · exact .refl _

theorem startNext_aud (s : State) (n : Aud) : (s.startNext.aud n).ctx = (s.aud n).ctx
    ∧ (s.startNext.aud n).sound = (s.aud n).sound ∧ (s.startNext.aud n).air = (s.aud n).air
    ∧ (s.startNext.aud n).input = (s.aud n).input ∧ (s.startNext.aud n).emit = (s.aud n).emit := by
  unfold State.startNext
  simp only
  split
  · exact start_aud (State.withdraw { s with flight := none } _) _ n
  · exact ⟨rfl, rfl, rfl, rfl, rfl⟩

/-- What the hand-over to the next waiting request leaves as it is. -/
theorem startNext_rest (s : State) : s.startNext.flash = s.flash ∧ s.startNext.phase = s.phase ∧ s.startNext.scan = s.scan
    ∧ s.startNext.packages = s.packages := by
  unfold State.startNext
  simp only
  split
  · exact start_laws _ _
  · exact ⟨rfl, rfl, rfl, rfl⟩

theorem startNext_keeps (s : State) : Keeps s s.startNext where
  flash := (startNext_rest s).1
  phase := (startNext_rest s).2.1
  scan := (startNext_rest s).2.2.1
  directory := by rw [(startNext_rest s).2.2.2]; exact id
  queue := fun h => startNext_queueOk s h.1
  events := EventsWithin_of_alike (startNext_alike s) fun n => (startNext_aud s n).2.2.1
  playouts := PlayoutsOk_of_sound fun n => (startNext_aud s n).2.1
  engines := EnginesOk_of_alike (startNext_alike s) fun n => (startNext_aud s n).1

/-! ### Playout queues (R113, R115) -/

/-- A point of the slot grid that z may stand at. -/
def OnGrid (z : Int) : Prop := z % slotTicks = 0 ∧ -24 ≤ z

theorem target_onGrid (e : Playout) (p : Nat) : OnGrid (e.target p : Int) ∧ OnGrid ((e.target p : Int) - slotTicks) := by
  unfold OnGrid Playout.target slotTicks
  omega

theorem Playout.QueueOk.of_empty {e : Playout} (hq : e.queue = []) (hz : ∀ z, e.z = some z → OnGrid z) : e.QueueOk := by
  refine ⟨by simp [hq], by simp [hq], by simp [hq], fun z h => ⟨(hz z h).1, (hz z h).2, by simp [hq]⟩⟩

/-- Blocks leave the queue and z moves below those that stay. -/
theorem Playout.QueueOk.of_filter {e e' : Playout} (h : e.QueueOk) (p : SoundBlk → Bool) {z : Int} (hq : e'.queue = e.queue.filter p)
    (hz : e'.z = some z) (hg : OnGrid z) (hp : ∀ b ∈ e.queue, p b = true → z < (b.stamp : Int)) : e'.QueueOk := by
  obtain ⟨hlen, hrise, hgrid, -⟩ := h
  unfold Playout.QueueOk
  rw [hq, hz]
  refine ⟨(List.length_filter_le ..).trans hlen, hrise.filter _, fun b hb => hgrid b (List.mem_of_mem_filter hb), fun z' hz' => ?_⟩
  cases hz'
  exact ⟨hg.1, hg.2, fun b hb => hp b (List.mem_of_mem_filter hb) (List.mem_filter.mp hb).2⟩

/-- The queue and z as they were. -/
theorem Playout.QueueOk.of_eq {e e' : Playout} (h : e.QueueOk) (hq : e'.queue = e.queue) (hz : e'.z = e.z) : e'.QueueOk := by
  simpa only [Playout.QueueOk, hq, hz] using h

/-- The queue emptied and z as it was. -/
theorem Playout.QueueOk.emptied {e e' : Playout} (h : e.QueueOk) (hq : e'.queue = []) (hz : e'.z = e.z) : e'.QueueOk :=
  .of_empty hq fun z hz' => by
    obtain ⟨h1, h2, -⟩ := h.2.2.2 z (hz ▸ hz')
    exact ⟨h1, h2⟩

theorem Playout.passTo_queueOk {e : Playout} {z : Int} (h : e.QueueOk) (hg : OnGrid z) : (e.passTo z).QueueOk :=
  h.of_filter _ rfl rfl hg fun _ _ hb => of_decide_eq_true hb

theorem Playout.moveTo_queueOk {e : Playout} (p : Nat) (h : e.QueueOk) : (e.moveTo (e.target p)).QueueOk :=
  h.of_filter _ rfl rfl (target_onGrid e p).2 fun b _ hb => by
    have := of_decide_eq_true hb
    simp only [slotTicks]
    omega

theorem Playout.onBound_queueOk {e : Playout} (set : TrackSetting) (h : e.QueueOk) : (e.onBound set).QueueOk := by
  by_cases hs : set.enabled = true
  · exact .of_empty (by simp [onBound, hs]) (by simp [onBound, hs])
  · exact h.of_eq (by simp [onBound, hs]) (by simp [onBound, hs])

theorem Playout.onStart_queueOk (p : Nat) {e : Playout} (h : e.QueueOk) : (e.onStart p).QueueOk := by
  unfold onStart
  split
  · exact h
  · exact (moveTo_queueOk p h).of_eq rfl rfl

theorem Playout.onLock_queueOk (p : Nat) {e : Playout} (h : e.QueueOk) : (e.onLock p).QueueOk := by
  unfold onLock
  split
  · exact (passTo_queueOk h (target_onGrid e p).2).of_eq rfl rfl
  · exact h

theorem Playout.onJump_queueOk (p : Nat) {e : Playout} (h : e.QueueOk) : (e.onJump p).QueueOk := by
  unfold onJump
  split
  · exact moveTo_queueOk p h
  · exact h

theorem Playout.onHold_queueOk {e : Playout} (h : e.QueueOk) : e.onHold.QueueOk := by
  unfold onHold
  split
  · exact h.of_eq rfl rfl
  · exact h

theorem Playout.onFinish_queueOk {e : Playout} (h : e.QueueOk) : e.onFinish.QueueOk := by
  unfold onFinish
  split
  · exact h.emptied rfl rfl
  · exact h

theorem Playout.onUnbind_queueOk (e : Playout) : e.onUnbind.QueueOk := .of_empty rfl fun _ h => by cases h

theorem Playout.onTrack_queueOk (st : ShowState) (p : Nat) (set : TrackSetting) {e : Playout} (h : e.QueueOk) :
    (e.onTrack st p set).QueueOk := by
  have hgrid (lead : Nat) := (target_onGrid { e with lead := lead } p).2
  unfold onTrack
  split
  · exact .of_empty rfl fun _ hz => by cases hz
  · split
    · simp only
      split
      · exact h.emptied rfl rfl
      · exact h.emptied rfl rfl
      · exact .of_empty rfl fun _ hz => by cases hz
      · exact .of_empty rfl fun z hz => by cases hz; exact hgrid set.lead
    · exact h.of_eq rfl rfl

/-- Serving the slot after z keeps the rest of the queue above the new z (R118). -/
theorem Playout.served_queueOk {e : Playout} {p u : Nat} (h : e.QueueOk) (hd : e.due p = some u) : (e.served_ u).QueueOk := by
  unfold due at hd
  split at hd
  · rename_i z _ hz
    split at hd
    · obtain rfl := Option.some.inj hd
      obtain ⟨hmod, hlow, habove⟩ := h.2.2.2 z hz
      have hcast : (((z + (slotTicks : Int)).toNat : Nat) : Int) = z + 24 := by simp only [slotTicks]; omega
      refine h.of_filter _ rfl rfl ?_ fun b hb hne => ?_
      · rw [hcast]
        simp only [OnGrid, slotTicks] at hmod ⊢
        omega
      · rw [hcast]
        have h1 := habove b hb
        have h2 := h.2.2.1 b hb
        have h3 : b.stamp ≠ (z + (slotTicks : Int)).toNat := of_decide_eq_true hne
        simp only [slotTicks] at hmod h2 h3
        omega
    · cases hd
  · cases hd

theorem Playout.passClosed_queueOk (p : Nat) {e : Playout} (h : e.QueueOk) : (e.passClosed p).QueueOk := by
  unfold passClosed
  split
  · split
    · exact passTo_queueOk h (target_onGrid e p).1
    · exact h
  · exact h

theorem insertBlock_perm (b : SoundBlk) (l : List SoundBlk) : (insertBlock b l).Perm (b :: l) := by
  induction l with
  | nil => exact .refl _
  | cons c cs ih =>
    unfold insertBlock
    split
    · exact .refl _
    · exact (ih.cons c).trans (.swap b c cs)

theorem insertBlock_rising (b : SoundBlk) {l : List SoundBlk} (h : l.Pairwise fun b c => b.stamp < c.stamp)
    (hn : ∀ c ∈ l, c.stamp ≠ b.stamp) : (insertBlock b l).Pairwise fun b c => b.stamp < c.stamp := by
  induction l with
  | nil => exact List.pairwise_singleton _ _
  | cons c cs ih =>
    obtain ⟨hc, hcs⟩ := List.pairwise_cons.mp h
    have hcb := hn c (List.mem_cons_self ..)
    unfold insertBlock
    split
    · refine List.pairwise_cons.mpr ⟨fun d hd => ?_, h⟩
      rcases List.mem_cons.mp hd with rfl | hd
      · assumption
      · exact lt_trans (by assumption) (hc d hd)
    · refine List.pairwise_cons.mpr ⟨fun d hd => ?_, ih hcs fun d hd => hn d (List.mem_cons_of_mem _ hd)⟩
      rcases List.mem_cons.mp ((insertBlock_perm b cs).mem_iff.mp hd) with rfl | hd
      · omega
      · exact hc d hd

/-! ### Signals to the tracks of an auditorium (R86) -/

theorem soundSignal_keeps (s : State) (n : Aud) (f : Playout → Playout) (h : ∀ e : Playout, e.QueueOk → (f e).QueueOk) :
    Keeps s (s.soundSignal n f) := by
  unfold State.soundSignal
  exact foldl_keeps _ (fun s t => modPlay_keeps s n t f (h _)) _ s

theorem textSignal_keeps (s : State) (n : Aud) (f : State → Aud → TextTrack → State)
    (hf : ∀ s t, EngineStep n t s (f s n t)) (ho : ∀ s t, (s.eng n t).Orderly → ((f s n t).eng n t).Orderly)
    (live : (s.aud n).ctx.st.Live) : Keeps s (s.textSignal n f) := by
  unfold State.textSignal
  have key : ∀ (l : List TextTrack) (s : State), (s.aud n).ctx.st.Live →
      Keeps s (l.foldl (fun s t => if s.textOn n t then f s n t else s) s) := by
    intro l
    induction l with
    | nil => exact fun s _ => .refl s
    | cons t ts ih =>
      intro s live
      rw [List.foldl_cons]
      split
      · rename_i hon
        exact ((hf s t).keeps_live hon live (ho s t)).trans (ih _ (by rw [(hf s t).ctx]; exact live))
      · exact ih s live
  exact key _ s live

theorem mem_allText (t : TextTrack) : t ∈ allText := by revert t; decide

/-- A signal to the text tracks, seen from one track: it meets an enabled track, and passes a disabled one by. -/
theorem textSignal_eng (s : State) (n : Aud) (f : State → Aud → TextTrack → State) (hf : ∀ s t, EngineStep n t s (f s n t)) (t : TextTrack) :
    (s.textOn n t = false → (s.textSignal n f).eng n t = s.eng n t)
      ∧ (s.textOn n t = true → ∃ s', (s.textSignal n f).eng n t = (f s' n t).eng n t) := by
  unfold State.textSignal
  have key : ∀ (l : List TextTrack) (s : State), l.Nodup →
      (s.textOn n t = false ∨ t ∉ l → (l.foldl (fun s t => if s.textOn n t then f s n t else s) s).eng n t = s.eng n t)
        ∧ (s.textOn n t = true → t ∈ l →
          ∃ s', (l.foldl (fun s t => if s.textOn n t then f s n t else s) s).eng n t = (f s' n t).eng n t) := by
    intro l
    induction l with
    | nil => exact fun s _ => ⟨fun _ => rfl, fun _ h => by cases h⟩
    | cons u us ih =>
      intro s hl
      obtain ⟨hu, hus⟩ := List.nodup_cons.mp hl
      rw [List.foldl_cons]
      by_cases hon : s.textOn n u = true
      · rw [if_pos hon]
        obtain ⟨ih1, ih2⟩ := ih (f s n u) hus
        rw [(hf s u).textOn] at ih1 ih2
        by_cases htu : t = u
        · subst htu
          refine ⟨fun h => ?_, fun _ _ => ⟨s, ih1 (.inr hu)⟩⟩
          rcases h with h | h
          · rw [hon] at h; cases h
          · exact absurd (List.mem_cons_self ..) h
        · refine ⟨fun h => ?_, fun h1 h2 => ih2 h1 ((List.mem_cons.mp h2).resolve_left htu)⟩
          rw [ih1 (h.imp_right fun h h' => h (List.mem_cons_of_mem _ h')), (hf s u).others t htu]
      · rw [if_neg hon]
        obtain ⟨ih1, ih2⟩ := ih s hus
        refine ⟨fun h => ih1 (h.imp_right fun h h' => h (List.mem_cons_of_mem _ h')), fun h1 h2 => ih2 h1 ?_⟩
        refine (List.mem_cons.mp h2).resolve_left fun e => hon (e ▸ h1)
  obtain ⟨h1, h2⟩ := key allText s (by decide)
  exact ⟨fun h => h1 (.inl h), fun h => h2 h (mem_allText t)⟩

end Sys2Proof.Machine

/-! ## The show timeline, the input units, the air and the emitters keep the laws -/

namespace Sys2Proof.Machine

/-! ### The show timeline (chapter 4) -/

@[simp] theorem raise_aud (s : State) (src : Source) (k : NoticeKind) (x : List Byte) (n : Aud) : (s.raise src k x).aud n = s.aud n := rfl

/-- The show state of an auditorium after a change of its context. -/
theorem modCtx_live (s : State) (n : Aud) (f : ShowCtx → ShowCtx) (h : (f (s.aud n).ctx).st.Live) : ((s.modCtx n f).aud n).ctx.st.Live := by
  rw [State.modCtx_same]
  exact h

theorem finish_keeps (s : State) (n : Aud) : Keeps s (s.finish n) := by
  unfold State.finish
  refine .trans (.trans (.trans (modCtx_keeps_live s n _ rfl ⟨by simp, by simp⟩) (raise_keeps _ _ _ _)) (textSignal_keeps _ n _ (fun s t => textFinish_engineStep s n t)
    (fun s t _ => textFinish_orderly s n t) (by simp [ShowState.Live]))) (soundSignal_keeps _ n _ fun _ => Playout.onFinish_queueOk)

theorem finishTest_keeps (s : State) (n : Aud) : Keeps s (s.finishTest n) := by
  unfold State.finishTest
  split
  · exact finish_keeps s n
  · exact .refl s

/-- A computation of P leaves a live show live. -/
theorem textSignal_ctx (s : State) (n : Aud) (f : State → Aud → TextTrack → State) (hf : ∀ s t, EngineStep n t s (f s n t)) :
    ((s.textSignal n f).aud n).ctx = (s.aud n).ctx := by
  unfold State.textSignal
  generalize allText = l
  induction l generalizing s with
  | nil => rfl
  | cons t ts ih =>
    rw [List.foldl_cons, ih]
    split
    · exact (hf s t).ctx
    · rfl

theorem soundSignal_ctx (s : State) (n : Aud) (f : Playout → Playout) : ((s.soundSignal n f).aud n).ctx = (s.aud n).ctx := by
  simp [State.soundSignal, allSound]

theorem finish_st (s : State) (n : Aud) : ((s.finish n).aud n).ctx.st = .finished := by
  unfold State.finish
  simp only
  rw [soundSignal_ctx, textSignal_ctx _ _ _ fun s t => textFinish_engineStep s n t]
  rw [raise_aud, State.modCtx_same]

theorem finishTest_live (s : State) (n : Aud) (h : (s.aud n).ctx.st.Live) : ((s.finishTest n).aud n).ctx.st.Live := by
  unfold State.finishTest
  split
  · rw [finish_st]; exact ⟨by simp, by simp⟩
  · exact h

theorem ShowState.live_of_running {st : ShowState} (h : st.running = true) : st.Live := by
  cases st <;> simp [ShowState.running] at h <;> exact ⟨by simp, by simp⟩

/-- The signals of lock and jump: every enabled text track seeks, and the sound tracks follow (R92 c, d). -/
theorem seekSignal_keeps (s : State) (n : Aud) (p : Nat) (f : Playout → Playout) (h : ∀ e : Playout, e.QueueOk → (f e).QueueOk)
    (live : (s.aud n).ctx.st.Live) : Keeps s ((s.textSignal n (State.textSeek p)).soundSignal n f) :=
  (textSignal_keeps s n _ (fun s t => textSeek_engineStep p s n t) (fun s t _ => textSeek_orderly p s n t) live).trans
    (soundSignal_keeps _ n f h)

/-- The signals of start and hold: every enabled text track waits (R92 b, e). -/
theorem waitSignal_keeps (s : State) (n : Aud) (f : Playout → Playout) (h : ∀ e : Playout, e.QueueOk → (f e).QueueOk)
    (live : (s.aud n).ctx.st.Live) : Keeps s ((s.textSignal n State.textWait).soundSignal n f) :=
  (textSignal_keeps s n _ (fun s t => textWait_engineStep s n t) (fun s t => textWait_orderly s n t) live).trans
    (soundSignal_keeps _ n f h)

theorem gainLock_keeps (s : State) (n : Aud) : Keeps s (s.gainLock n) := by
  unfold State.gainLock
  split
  · exact finish_keeps s n
  · exact .trans (.trans (modCtx_keeps_live s n _ rfl ⟨by simp, by simp⟩) (raise_keeps _ _ _ _))
      (seekSignal_keeps _ n _ _ (fun _ => Playout.onLock_queueOk _) (by simp [ShowState.Live]))

theorem hold_keeps (s : State) (n : Aud) : Keeps s (s.hold n) := by
  unfold State.hold
  simp only
  split
  · exact (finish_keeps s n).trans (modInput_keeps _ n _)
  · refine .trans (.trans (.trans (modCtx_keeps_live s n _ rfl ⟨by simp, by simp⟩) (modInput_keeps _ n _)) (raise_keeps _ _ _ _))
      (waitSignal_keeps _ n _ (fun _ => Playout.onHold_queueOk) ?_)
    rw [raise_aud, State.modInput_aud_ctx]
    exact modCtx_live s n _ ⟨by simp, by simp⟩

theorem startShow_keeps (s : State) (n : Aud) (p : Nat) : Keeps s (s.startShow n p) := by
  unfold State.startShow
  simp only
  refine .trans (.trans (modCtx_keeps_live s n _ rfl ⟨by simp, by simp⟩) (modInput_keeps _ n _))
    (waitSignal_keeps _ n _ (fun _ => Playout.onStart_queueOk _) ?_)
  rw [State.modInput_aud_ctx]
  exact modCtx_live s n _ ⟨by simp, by simp⟩

theorem jump_keeps (s : State) (n : Aud) (r p : Nat) (live : (s.aud n).ctx.st.Live) : Keeps s (s.jump n r p) := by
  unfold State.jump
  simp only
  have hs := (((modCtx_keeps_of_eq s n (fun x => { x with c := r }) rfl rfl).trans (modInput_keeps _ n InputUnit.restart)).trans
    (modCtx_keeps_of_eq _ n (fun x => { x with k := 0, adv := x.ticks }) rfl rfl)).trans
    (raise_keeps _ (.aud n) .jumped (u32 r ++ u32 p ++ s32 ((r : Int) - p)))
  split
  · exact hs.trans (finish_keeps _ n)
  · refine hs.trans (seekSignal_keeps _ n _ _ (fun _ => Playout.onJump_queueOk _) ?_)
    simpa using live

theorem report_keeps (s : State) (n : Aud) (r p : Nat) : Keeps s (s.report n r p).1 := by
  unfold State.report
  simp only
  split
  · rename_i hrun
    split
    · exact .refl s
    · split
      · exact modCtx_keeps_of_eq s n (fun x => { x with k := (r : Int) - p }) rfl rfl
      · exact jump_keeps s n r p (ShowState.live_of_running hrun)
  · exact .trans (modCtx_keeps_of_eq s n (fun x => { x with c := r, k := 0 }) rfl rfl) (modInput_keeps _ n _)

theorem modAud_input_ctx_keeps (s : State) (n : Aud) (f : InputUnit → InputUnit) (g : ShowCtx → ShowCtx)
    (ht : (g (s.aud n).ctx).text = (s.aud n).ctx.text) (hst : (g (s.aud n).ctx).st = (s.aud n).ctx.st) :
    Keeps s (s.modAud n fun a => { a with input := f a.input, ctx := g a.ctx }) := by
  have h : s.modAud n (fun a => { a with input := f a.input, ctx := g a.ctx }) = (s.modInput n f).modCtx n g := by
    unfold State.modCtx State.modAud
    rw [State.modInput_same]
    simp [State.modInput, State.modAud, State.setAud]
  rw [h]
  exact (modInput_keeps s n f).trans (modCtx_keeps_of_eq _ n g (by simpa using ht) (by simpa using hst))

theorem adopt_keeps (s : State) (n : Aud) : Keeps s (s.adopt n) := by
  unfold State.adopt
  exact modAud_input_ctx_keeps s n (fun u => { u with wCurrent := u.wStaged })
    (fun x => { x with coastLimit := x.coastLimitStaged, slewWindow := x.slewWindowStaged }) rfl rfl

/-! ### Binding (R65 to R67) -/

theorem modPackage_keeps (s : State) (id : Nat) (f : Package → Package) (hf : ∀ p, (f p).id = p.id) : Keeps s (s.modPackage id f) := by
  refine .of_packages rfl rfl rfl rfl rfl rfl fun h => ?_
  have hid : ∀ p : Package, (if p.id = id then f p else p).id = p.id := fun p => by split; exacts [hf p, rfl]
  refine ⟨List.pairwise_map.mpr (h.1.imp fun {p q} hpq => by rw [hid, hid]; exact hpq), fun p hp => ?_⟩
  obtain ⟨q, hq, rfl⟩ := List.mem_map.mp hp
  rw [hid]
  exact h.2 q hq

theorem bindRead_keeps (s : State) (n : Aud) : Keeps s (s.bindRead n) := by
  unfold State.bindRead
  simp only
  split
  · exact (modCtx_keeps_of_eq s n _ rfl rfl).trans (request_keeps_laws _ _)
  · exact .refl s

/-- The bound signal to the text tracks meets silent engines (R92 a). -/
theorem textBounds_keeps (n : Aud) (l : List TextTrack) : ∀ s : State, l.Nodup → (s.aud n).ctx.st.Live → (∀ t ∈ l, (s.eng n t).Silent) →
    Keeps s (l.foldl (fun s t => s.textBound n t) s) := by
  induction l with
  | nil => exact fun s _ _ _ => .refl s
  | cons t ts ih =>
    intro s hl live hsil
    obtain ⟨ht, hts⟩ := List.nodup_cons.mp hl
    rw [List.foldl_cons]
    have hstep := textBound_engineStep s n t
    obtain ⟨hord, hoff⟩ := textBound_spec s n t (hsil t (List.mem_cons_self ..))
    refine (hstep.keeps (hstep.engines (fun _ => hord) fun k _ => hoff (k.resolve_right fun hn => hn live))).trans
      (ih _ hts (by rw [hstep.ctx]; exact live) fun u hu => ?_)
    rw [hstep.others u fun e => ht (e ▸ hu)]
    exact hsil u (List.mem_cons_of_mem _ hu)

/-- Binding ends in STANDBY with the laws kept, from a show whose engines are silent. -/
theorem bound_keeps (s : State) (n : Aud) (h : ∀ t, (s.eng n t).Silent) : Keeps s (s.bound n) := by
  unfold State.bound
  simp only
  refine .trans (.trans (.trans (modCtx_keeps_live s n _ rfl ⟨by simp, by simp⟩) (raise_keeps _ _ _ _))
    (textBounds_keeps n allText _ (by decide) (by simp [ShowState.Live]) fun t _ => ?_))
    (foldl_keeps _ (fun s t => modPlay_keeps s n t _ (Playout.onBound_queueOk _)) _ _)
  have he : ((s.modCtx n fun x => { x with st := .standby }).eng n t) = s.eng n t := by simp [State.eng]
  exact he ▸ h t

/-- The engines of a show in BINDING or VACANT are silent, so the end of its bind keeps their laws. -/
theorem Keeps.of_silent {s s' : State} (n : Aud) (live : ¬ (s.aud n).ctx.st.Live) (h : (∀ t, (s.eng n t).Silent) → Keeps s s')
    (only : OnlyAud n s s') (queue : s.QueueOk → s'.QueueOk) (events : s.EventsWithin → s'.EventsWithin)
    (playouts : s.PlayoutsOk → s'.PlayoutsOk) : Keeps s s' :=
  .of_only only queue events playouts fun k => (h fun t => ((enginesOk_iff s).mp k n t).2 (.inr live)).engines k

end Sys2Proof.Machine

/-! ## Binding, unbinding and the tracks' settings keep the laws (chapter 4) -/

namespace Sys2Proof.Machine

/-- A step that touches one auditorium and keeps the laws of the requests, the event lists and the playout queues; its engines are judged apart. -/
structure AudStep (n : Aud) (s s' : State) : Prop where
  only : OnlyAud n s s'
  queue : s.QueueOk → s'.QueueOk
  events : s.EventsWithin → s'.EventsWithin
  playouts : s.PlayoutsOk → s'.PlayoutsOk

namespace AudStep

variable {n : Aud} {s s' s'' : State}

theorem refl (n : Aud) (s : State) : AudStep n s s := ⟨.refl n s, id, id, id⟩

theorem trans (h : AudStep n s s') (k : AudStep n s' s'') : AudStep n s s'' :=
  ⟨h.only.trans k.only, k.queue ∘ h.queue, k.events ∘ h.events, k.playouts ∘ h.playouts⟩

theorem of_keeps (h : Keeps s s') (only : OnlyAud n s s') : AudStep n s s' := ⟨only, h.queue, h.events, h.playouts⟩

theorem of_engineStep {t : TextTrack} (h : EngineStep n t s s') : AudStep n s s' :=
  ⟨h.only, h.queue, h.events, fun k m u => by rw [h.play]; exact k m u⟩

theorem modCtx (s : State) (n : Aud) (f : ShowCtx → ShowCtx) : AudStep n s (s.modCtx n f) :=
  ⟨modCtx_only s n f, id, by simp [State.EventsWithin, Auditorium.EventsOk], by simp [State.PlayoutsOk, State.play]⟩

theorem raise (s : State) (n : Aud) (src : Source) (k : NoticeKind) (x : List Byte) : AudStep n s (s.raise src k x) :=
  of_keeps (raise_keeps s src k x) (raise_only n s src k x)

theorem foldl {α : Type} (f : State → α → State) (h : ∀ s a, AudStep n s (f s a)) (l : List α) : ∀ s, AudStep n s (l.foldl f s) := by
  induction l with
  | nil => exact .refl n
  | cons a as ih => exact fun s => (h s a).trans (ih _)

theorem textSignal (s : State) (n : Aud) (f : State → Aud → TextTrack → State) (h : ∀ s t, EngineStep n t s (f s n t)) :
    AudStep n s (s.textSignal n f) := by
  refine foldl _ (fun s t => ?_) _ s
  split
  · exact of_engineStep (h s t)
  · exact .refl n s

/-- The step keeps the laws of the engines when those of its own auditorium stand after it. -/
theorem keeps (h : AudStep n s s')
    (own : s.EnginesOk → ∀ t, (s'.eng n t).Orderly ∧ (s'.textOn n t = false ∨ ¬ (s'.aud n).ctx.st.Live → (s'.eng n t).Silent)) : Keeps s s' := by
  refine .of_only h.only h.queue h.events h.playouts fun k => (enginesOk_iff s').mpr fun m t => ?_
  by_cases hm : m = n
  · exact hm ▸ own k t
  · have hk := (enginesOk_iff s).mp k m t
    simpa only [State.eng, State.textOn, h.only.auds m hm] using hk

end AudStep

theorem TrackEngine.Silent.orderly {e : TrackEngine} (h : e.Silent) : e.Orderly := h.emptied.orderly

/-- The engines of a show in VACANT or BINDING are silent. -/
theorem State.EnginesOk.silent {s : State} (h : s.EnginesOk) {n : Aud} (live : ¬ (s.aud n).ctx.st.Live) (t : TextTrack) : (s.eng n t).Silent :=
  ((enginesOk_iff s).mp h n t).2 (.inr live)

/-! ### Binding (R65 to R67) -/

theorem bound_audStep (s : State) (n : Aud) : AudStep n s (s.bound n) := by
  unfold State.bound
  simp only
  exact .trans (.trans (.trans (.modCtx s n _) (.raise _ n _ _ _)) (.foldl _ (fun s t => .of_engineStep (textBound_engineStep s n t)) _ _))
    (.foldl _ (fun s t => .of_keeps (modPlay_keeps s n t _ (Playout.onBound_queueOk _)) (modPlay_only s n t _)) _ _)

/-- Binding ends in STANDBY with the laws kept: the engines of a show in BINDING are silent. -/
theorem bound_keeps_of_binding (s : State) (n : Aud) (h : ¬ (s.aud n).ctx.st.Live) : Keeps s (s.bound n) :=
  (bound_audStep s n).keeps fun k t =>
    have hs := (bound_keeps s n (k.silent h)).engines k
    (enginesOk_iff _).mp hs n t

theorem vacate_keeps (s : State) (n : Aud) (h : ¬ (s.aud n).ctx.st.Live) : Keeps s (s.modCtx n ShowCtx.vacate) :=
  modCtx_keeps s n _ fun _ => Or.imp id fun _ => h

theorem unbindCount_keeps (s : State) (id : Nat) : Keeps s (s.unbindCount id) := modPackage_keeps s id _ fun _ => rfl

theorem bindFail_keeps (s : State) (n : Aud) (h : ¬ (s.aud n).ctx.st.Live) : Keeps s (s.bindFail n) := by
  unfold State.bindFail
  simp only
  exact (((vacate_keeps s n h).trans (unbindCount_keeps _ _)).trans (modInput_keeps _ n _)).trans (raise_keeps _ _ _ _)

theorem not_live_of_binding {st : ShowState} (h : st = .binding) : ¬ st.Live := fun k => k.2 h

theorem bindReadDone_keeps (s : State) (f : Flight) (n : Aud) (errs : Nat) : Keeps s (s.bindReadDone f n errs) := by
  unfold State.bindReadDone
  refine (graded_keeps s f errs).trans ?_
  generalize s.graded f errs = s
  simp only
  split
  · rename_i hb
    have hn := not_live_of_binding hb.1
    split
    · split
      · rename_i r rest _
        have hs := modCtx_keeps_of_eq s n (fun x => { x with
          index := x.index.set r.track.val (x.index.get r.track ++ indexEntries r.entries (readBytes s.flash f.addr)) r.track.isLt
          bindTodo := rest }) rfl rfl
        split
        · exact hs.trans (bound_keeps_of_binding _ n (by simpa using hn))
        · exact hs.trans (bindRead_keeps _ n)
      · exact .refl s
    · exact bindFail_keeps s n hn
  · split
    · exact bindRead_keeps s n
    · exact .refl s

theorem unbind_keeps (s : State) (n : Aud) : Keeps s (s.unbind n) := by
  unfold State.unbind
  simp only
  refine .trans (.trans ?_ (unbindCount_keeps _ _)) (modInput_keeps _ n _)
  split
  · rename_i hb
    exact (vacate_keeps s n (not_live_of_binding hb)).trans (withdraw_keeps _ _)
  · refine .trans ?_ (soundSignal_keeps _ n _ fun _ _ => Playout.onUnbind_queueOk _)
    refine ((AudStep.modCtx s n ShowCtx.vacate).trans (.textSignal _ n _ fun s t => textUnbind_engineStep s n t)).keeps fun k t => ?_
    have hsig := textSignal_eng (s.modCtx n ShowCtx.vacate) n State.textUnbind (fun s t => textUnbind_engineStep s n t) t
    have hsil : (((s.modCtx n ShowCtx.vacate).textSignal n State.textUnbind).eng n t).Silent := by
      cases hon : (s.modCtx n ShowCtx.vacate).textOn n t
      · rw [hsig.1 hon]
        have hoff : s.textOn n t = false := by simpa [State.textOn, ShowCtx.vacate] using hon
        simpa [State.eng] using ((enginesOk_iff s).mp k n t).2 (.inl hoff)
      · obtain ⟨s', hs'⟩ := hsig.2 hon
        rw [hs']
        exact textUnbind_silent s' n t
    exact ⟨hsil.orderly, fun _ => hsil⟩

/-! ### The settings of tracks (R85) -/

/-- A finish leaves the track settings as they are. -/
theorem finishTest_text (s : State) (n : Aud) : ((s.finishTest n).aud n).ctx.text = (s.aud n).ctx.text := by
  unfold State.finishTest State.finish
  split
  · rw [soundSignal_ctx, textSignal_ctx _ _ _ fun s t => textFinish_engineStep s n t, raise_aud, State.modCtx_same]
  · rfl

theorem setText_keeps (s : State) (n : Aud) (t : TextTrack) (set : TrackSetting) (h : (s.aud n).ctx.st ≠ .vacant) :
    Keeps s (s.setText n t set) := by
  unfold State.setText
  simp only
  generalize hs1 : s.modCtx n (fun x => { x with text := x.text.set t.val set t.isLt }) = s1
  have hctx : (s1.aud n).ctx = { (s.aud n).ctx with text := (s.aud n).ctx.text.set t.val set t.isLt } := by rw [← hs1, State.modCtx_same]
  have heng (u : TextTrack) : s1.eng n u = s.eng n u := by rw [← hs1]; simp [State.eng]
  have hself : s1.textOn n t = set.enabled := by simp [State.textOn, hctx, Vector.get]
  have hother (u : TextTrack) (hu : u ≠ t) : s1.textOn n u = s.textOn n u := by
    have hv : t.val ≠ u.val := fun e => hu (Fin.ext e.symm)
    simp [State.textOn, hctx, Vector.get, hv]
  have hmod : AudStep n s s1 := hs1 ▸ .modCtx s n _
  /- the tracks but `t` keep their enables, and the show state is as it was -/
  have hrest (k : s.EnginesOk) (u : TextTrack) (hu : u ≠ t) :
      (s.eng n u).Orderly ∧ (s1.textOn n u = false ∨ ¬ (s1.aud n).ctx.st.Live → (s.eng n u).Silent) := by
    rw [hother u hu, hctx]
    exact (enginesOk_iff s).mp k n u
  split
  · -- track off: the engine falls silent
    refine (hmod.trans (.of_engineStep (textOff_engineStep s1 n t))).keeps fun k u => ?_
    by_cases hu : u = t
    · subst hu
      have := textOff_silent s1 n u
      exact ⟨this.orderly, fun _ => this⟩
    · have hstep := textOff_engineStep s1 n t
      rw [hstep.others u hu, heng u, hstep.ctx, State.textOn, hstep.ctx]
      exact hrest k u hu
  · rename_i hnoff
    have hkeep : Keeps s s1 := hmod.keeps fun k u => by
      rw [heng u]
      by_cases hu : u = t
      · subst hu
        have hku := (enginesOk_iff s).mp k n u
        refine ⟨hku.1, fun hoff => hku.2 ?_⟩
        rw [hself, hctx] at hoff
        rcases hoff with hoff | hoff
        · exact .inl (by simpa [State.textOn, hoff] using hnoff)
        · exact .inr hoff
      · exact hrest k u hu
    split
    · -- track on: the engine takes its place by the show state
      rename_i hon
      have hlive : (s1.aud n).ctx.st.Live := ⟨by rw [hctx]; exact h, hon.2.2⟩
      have hfin : Keeps s1 (s1.finishTest n) := finishTest_keeps s1 n
      have hon' : (s1.finishTest n).textOn n t = true := by
        rw [State.textOn, finishTest_text, ← State.textOn, hself]; exact hon.2.1
      exact (hkeep.trans hfin).trans ((textOnSignal_engineStep _ _ n t).keeps_live hon' (finishTest_live s1 n hlive)
        fun _ => textOnSignal_orderly _ _ n t (finishTest_live s1 n hlive))
    · exact hkeep

theorem setSound_keeps (s : State) (n : Aud) (t : SoundTrack) (set : TrackSetting) : Keeps s (s.setSound n t set) := by
  unfold State.setSound
  simp only
  refine .trans (.trans (modCtx_keeps_of_eq s n (fun x => { x with sound := x.sound.set t.val set t.isLt }) rfl rfl) ?_)
    (modPlay_keeps _ n t _ (Playout.onTrack_queueOk _ _ set))
  split
  · exact finishTest_keeps _ n
  · exact .refl _

end Sys2Proof.Machine

/-! ## Pulses, contacts, air and emitters keep the laws (chapters 3, 7 and 8) -/

namespace Sys2Proof.Machine

/-- Closes the parts of a step of the show timeline that leave the tracks' settings and the show state as they are. -/
theorem modCtx_keeps_text (s : State) (n : Aud) (f : ShowCtx → ShowCtx) (ht : ∀ x, (f x).text = x.text) (hst : ∀ x, (f x).st = x.st) :
    Keeps s (s.modCtx n f) := modCtx_keeps_of_eq s n f (ht _) (hst _)

theorem modAir_keeps_le (s : State) (n : Aud) (f : AirSched → AirSched) (h : ∀ a, (f a).pend.length ≤ a.pend.length) : Keeps s (s.modAir n f) :=
  modAir_keeps s n f (h _).trans

theorem ite_keeps {s a b : State} (c : Prop) [Decidable c] (ha : c → Keeps s a) (hb : ¬ c → Keeps s b) : Keeps s (if c then a else b) := by
  split
  · exact ha ‹_›
  · exact hb ‹_›

theorem ite_fst_keeps {α : Type} {s : State} {a b : State × α} (c : Prop) [Decidable c] (ha : c → Keeps s a.1) (hb : ¬ c → Keeps s b.1) :
    Keeps s (if c then a else b).1 := by
  split
  · exact ha ‹_›
  · exact hb ‹_›

@[simp] theorem newFrame_text (x : ShowCtx) : x.newFrame.text = x.text := by unfold ShowCtx.newFrame; split <;> [rfl; (split <;> rfl)]
@[simp] theorem newFrame_st (x : ShowCtx) : x.newFrame.st = x.st := by unfold ShowCtx.newFrame; split <;> [rfl; (split <;> rfl)]

/-! ### Pulses (R47 to R55, R70 to R77) -/

theorem acquirePulse_keeps (s : State) (n : Aud) (m w : Bool) (p : Nat) : Keeps s (s.acquirePulse n m w p) := by
  unfold State.acquirePulse
  refine ite_keeps _ (fun _ => modCtx_keeps_text s n _ (by simp) (by simp)) fun _ => ite_keeps _
    (fun _ => modCtx_keeps_text s n _ (by simp [ShowCtx.countFrame]) (by simp [ShowCtx.countFrame])) fun _ => ?_
  exact (modCtx_keeps_text s n (fun x => { x.countFrame with acquire := x.acquire + 1 }.newFrame)
    (by simp [ShowCtx.countFrame]) (by simp [ShowCtx.countFrame])).trans (ite_keeps _ (fun _ => gainLock_keeps _ n) fun _ => .refl _)

theorem runningPulse_keeps (s : State) (n : Aud) (m : Bool) (p : Nat) : Keeps s (s.runningPulse n m p) := by
  unfold State.runningPulse
  refine .trans (modCtx_keeps_live s n _ ?_ ⟨by simp, by simp⟩) (finishTest_keeps _ n)
  simp only [newFrame_text]
  split <;> rfl

theorem handPulse_keeps (s : State) (n : Aud) (m w : Bool) (p : Nat) : Keeps s (s.handPulse n m w p) := by
  unfold State.handPulse
  split
  · exact acquirePulse_keeps s n m w p
  · exact runningPulse_keeps s n m p
  · exact runningPulse_keeps s n m p
  · exact modCtx_keeps_live s n _ rfl ⟨by simp, by simp⟩
  · exact .refl s

theorem measure_keeps (s : State) (n : Aud) (r : RateClass) (m : Nat) : Keeps s (s.measure n r m) := by
  unfold State.measure
  simp only
  refine .trans (modInput_keeps s n fun u => { u with pm := newEstimate r u.pm m, lastInterval := m }) ?_
  exact ite_keeps _ (fun _ => modInput_keeps _ n _) fun _ => ite_keeps _
    (fun _ => .trans (modInput_keeps _ n _) (raise_keeps _ _ _ _)) fun _ => modInput_keeps _ n _

theorem acceptPulse_keeps (s : State) (n : Aud) : Keeps s (s.acceptPulse n) := by
  unfold State.acceptPulse
  simp only
  refine .trans (.trans (.trans ?_ (modInput_keeps _ n _)) (handPulse_keeps _ n _ _ _)) (adopt_keeps _ n)
  split
  · exact measure_keeps s n _ _
  · exact .refl s

theorem candidate_keeps (s : State) (n : Aud) : Keeps s (s.candidate n) := by
  unfold State.candidate
  refine .trans (modInput_keeps s n fun u => { u with candidates := wrap16 (u.candidates + 1) }) ?_
  exact ite_keeps _ (fun _ => .refl _) fun _ => ite_keeps _ (fun _ => raise_keeps _ _ _ _) fun _ => acceptPulse_keeps _ n

theorem syntheticPulse_keeps (s : State) (n : Aud) : Keeps s (s.syntheticPulse n) := by
  unfold State.syntheticPulse
  refine .trans (.trans ?_ (ite_keeps _ (fun _ => raise_keeps _ _ _ _) fun _ => .refl _)) (finishTest_keeps _ n)
  exact .trans (modCtx_keeps_live s n _ (by simp [ShowCtx.countFrame]) ⟨by simp, by simp⟩) (modInput_keeps _ n _)

theorem answerDeadline_keeps (s : State) (n : Aud) : Keeps s (s.answerDeadline n) := by
  unfold State.answerDeadline
  simp only
  split
  · exact .trans (modCtx_keeps_text s n _ (by intro; rfl) (by intro; rfl)) (modInput_keeps _ n _)
  · exact ite_keeps _ (fun _ => syntheticPulse_keeps s n) fun _ => hold_keeps s n
  · exact ite_keeps _ (fun _ => syntheticPulse_keeps s n) fun _ => hold_keeps s n
  · exact modInput_keeps s n _

theorem missDeadline_keeps (s : State) (n : Aud) : Keeps s (s.missDeadline n) := by
  unfold State.missDeadline
  exact ite_keeps _ (fun _ => .refl s) fun _ => .trans (.trans (modInput_keeps s n _) (answerDeadline_keeps _ n)) (adopt_keeps _ n)

theorem risingEdge_keeps (s : State) (n : Aud) : Keeps s (s.risingEdge n) := by
  unfold State.risingEdge
  refine .trans (modInput_keeps s n fun u => { u with fp := true }) ?_
  refine ite_keeps _ (fun _ => ite_keeps _ (fun _ => ?_) fun _ => modInput_keeps _ n _) fun _ => .refl _
  exact .trans (modInput_keeps _ n _) (candidate_keeps _ n)

theorem qualify_keeps (s : State) (n : Aud) : Keeps s (s.qualify n) := by
  unfold State.qualify
  exact ite_keeps _ (fun _ => .trans (modInput_keeps s n _) (candidate_keeps _ n)) fun _ => .refl s

/-! ### Contacts and the gate (R57 to R60) -/

theorem modLine_keeps (s : State) (l : ContactLine) (f : Debouncer → Debouncer) : Keeps s (s.modLine l f) := by
  unfold State.modLine
  split
  · exact modInput_keeps s _ _
  · exact modInput_keeps s _ _
  · exact .of_same rfl rfl rfl rfl rfl rfl rfl

theorem regateLine_keeps (s : State) (l : ContactLine) : Keeps s (s.regateLine l) := by
  unfold State.regateLine State.regate
  split
  · exact modInput_keeps s _ _
  · exact modInput_keeps s _ _
  · exact foldl_keeps _ (fun s n => modInput_keeps s n _) _ s

theorem settle_keeps (s : State) (l : ContactLine) : Keeps s (s.settle l) := (modLine_keeps s l _).trans (regateLine_keeps _ l)

/-! ### The air scheduler (chapter 7) -/

theorem endAnnouncement_keeps (s : State) (n : Aud) : Keeps s (s.endAnnouncement n) :=
  (modAir_keeps_le s n _ (by intro; rfl)).trans (submit_keeps _ n _)

theorem ageAnnouncement_keeps (s : State) (n : Aud) : Keeps s (s.ageAnnouncement n) := by
  unfold State.ageAnnouncement
  split
  · exact ite_keeps _ (fun _ => endAnnouncement_keeps s n) fun _ => modAir_keeps_le s n _ (by intro; rfl)
  · exact .refl s

theorem claimAnnouncement_keeps (s : State) (n : Aud) (b : Build) : Keeps s (s.claimAnnouncement n b).1 := by
  unfold State.claimAnnouncement
  split
  · split
    · split
      · dsimp only
        exact modAir_keeps_le s n _ (by intro; rfl)
      · exact .refl s
    · dsimp only
      exact modAir_keeps_le s n _ (by intro; rfl)
  · exact .refl s

theorem announce_pend_le (text : List Byte) (i d k : Nat) (a : AirSched) : (a.announce text i d k).pend.length ≤ a.pend.length := by
  unfold AirSched.announce
  simp only
  split
  · exact List.length_filter_le _ _
  · exact le_rfl

theorem cancel_keeps (mask : Nat) (l : List Aud) : ∀ s : State, Keeps s (State.cancel mask s l).1 := by
  induction l with
  | nil => exact .refl
  | cons n ns ih =>
    intro s
    unfold State.cancel
    split
    · exact (endAnnouncement_keeps s n).trans (ih _)
    · exact ih s

theorem skipTest_keeps (s : State) (n : Aud) (p : Nat) (t : SoundTrack) : Keeps s (s.skipTest n p t) := by
  unfold State.skipTest
  simp only
  split
  · refine ite_keeps _ (fun _ => .trans (modPlay_keeps s n t _ fun h => ?_) (raise_keeps _ _ _ _)) fun _ => .refl s
    exact (Playout.passTo_queueOk h (target_onGrid _ p).2).of_eq rfl rfl
  · exact .refl s

theorem serveTurns_keeps (n : Aud) (p : Nat) (l : List SoundTrack) : ∀ (s : State) (b : Build), Keeps s (State.serveTurns n p l s b).1 := by
  induction l with
  | nil => exact fun s _ => .refl s
  | cons t ts ih =>
    intro s b
    unfold State.serveTurns
    simp only
    split
    · exact ih s b
    · rename_i u hu
      split
      · exact .refl s
      · exact (modPlay_keeps s n t _ fun h => Playout.served_queueOk h hu).trans (ih _ _)

theorem slotService_keeps (s : State) (n : Aud) (p : Nat) (b : Build) : Keeps s (s.slotService n p b).1 :=
  (foldl_keeps _ (fun s t => skipTest_keeps s n p t) allSound s).trans (serveTurns_keeps n p _ _ _)

theorem packEvents_length (l : List Event) : ∀ b : Build, (packEvents l b).1.length ≤ l.length := by
  induction l with
  | nil => exact fun _ => le_rfl
  | cons e es ih =>
    intro b
    unfold packEvents
    split
    · exact le_rfl
    · exact (ih _).trans (Nat.le_succ _)

theorem purge_length (l : List Event) : (purge l).length ≤ l.length := List.length_filter_le _ _

theorem packPending_keeps (s : State) (n : Aud) (g : Gate) (b : Build) : Keeps s (s.packPending n g b).1 := by
  unfold State.packPending
  dsimp only
  refine modAir_keeps s n _ fun h => (packEvents_length _ b).trans (le_trans ?_ h)
  split
  · exact purge_length _
  · exact le_rfl

theorem runCarousel_keeps (s : State) (n : Aud) (b : Build) : Keeps s (s.runCarousel n b).1 := by
  unfold State.runCarousel
  dsimp only
  split
  · dsimp only
    exact modAir_keeps_le s n _ (by intro; rfl)
  · exact .refl s

theorem releaseCheck_keeps (s : State) (n : Aud) (p : Nat) (w : Bool) (t : TextTrack) : Keeps s (s.releaseCheck n p w t) :=
  (releaseCheck_spec s n p w t).1.keeps (releaseCheck_enginesOk s n p w t)

theorem closeFrame_keeps (s : State) (n : Aud) (g : Gate) (p : Nat) (b : Build) : Keeps s (s.closeFrame n g p b).1 := by
  unfold State.closeFrame
  dsimp only
  exact modAir_keeps_le s n _ (by intro; rfl)

theorem buildFrame_keeps (s : State) (n : Aud) (k : FrameKind) : Keeps s (s.buildFrame n k).1 := by
  unfold State.buildFrame
  -- the stages from the last to the first
  refine .trans ?_ (closeFrame_keeps _ n _ _ _)
  refine .trans ?_ (ite_fst_keeps _ (fun _ => runCarousel_keeps _ n _) fun _ => .refl _)
  refine .trans ?_ (ite_fst_keeps _ (fun _ => modAir_keeps_le _ n (fun a => { a with pend := if (s.finishTest n |>.aud n).input.gate = .closed then purge a.pend else a.pend }) ?_) fun _ => packPending_keeps _ n _ _)
  · refine .trans ?_ (ite_fst_keeps _ (fun _ => ite_fst_keeps _ (fun _ => slotService_keeps _ n _ _) fun _ =>
      soundSignal_keeps _ n _ fun _ => Playout.passClosed_queueOk _) fun _ => .refl _)
    refine .trans ?_ (ite_keeps _ (fun _ => restoreAll_keeps _ n) fun _ => .refl _)
    refine .trans ?_ (ite_keeps _ (fun _ => foldl_keeps _ (fun s t => releaseCheck_keeps s n _ _ t) _ _) fun _ => .refl _)
    refine .trans ?_ (ite_fst_keeps _ (fun _ => claimAnnouncement_keeps _ n _) fun _ => .refl _)
    exact (finishTest_keeps s n).trans (modAir_keeps_le _ n _ (by intro; rfl))
  · intro a; split; exacts [purge_length _, le_rfl]

/-! ### The emitter (chapter 8) -/

theorem noteDropped_keeps (s : State) (n : Aud) (q : Nat) : Keeps s (s.noteDropped n q) := raise_keeps _ _ _ _

theorem cutByFault_keeps (s : State) (n : Aud) (q : Nat) : Keeps s (s.cutByFault n q) := by
  unfold State.cutByFault
  refine .trans ?_ (ite_keeps _ (fun _ => modEmit_keeps _ n _) fun _ => .trans (modEmit_keeps _ n _) (raise_keeps _ _ _ _))
  exact .trans (.trans (modEmit_keeps s n _) (raise_keeps _ _ _ _)) (noteDropped_keeps _ n q)

theorem overcurrent_keeps (s : State) (n : Aud) : Keeps s (s.overcurrent n) := by
  unfold State.overcurrent
  split
  · exact cutByFault_keeps s n _
  · exact .refl s

theorem dropFrame_keeps (s : State) (n : Aud) (q : Nat) (b : Bool) : Keeps s (s.dropFrame n q b) :=
  (modEmit_keeps s n _).trans (ite_keeps _ (fun _ => noteDropped_keeps _ n q) fun _ => .refl _)

theorem sendFrame_keeps (s : State) (n : Aud) (f : AirFrame) (r : BitRate) : Keeps s (s.sendFrame n f r) :=
  (modEmit_keeps s n _).trans (ite_keeps _ (fun _ => overcurrent_keeps _ n) fun _ => .refl _)

theorem handOver_keeps (s : State) (n : Aud) (f : Option AirFrame) (r : BitRate) : Keeps s (s.handOver n f r) := by
  unfold State.handOver
  refine (modEmit_keeps s n fun u => { u with demand := f.isSome }).trans ?_
  simp only
  split
  · have hsend (c : Prop) [Decidable c] (s : State) (f : AirFrame) : Keeps s (if c then s.dropFrame n f.sequence true else s.sendFrame n f r) :=
      ite_keeps c (fun _ => dropFrame_keeps s n _ _) fun _ => sendFrame_keeps s n f r
    split
    · exact hsend _ _ _
    · exact hsend _ _ _
    · exact dropFrame_keeps _ n _ _
    · exact dropFrame_keeps _ n _ _
    · exact dropFrame_keeps _ n _ _
  · exact ite_keeps _ (fun _ => modEmit_keeps _ n _) fun _ => .refl _

theorem recover_keeps (s : State) (n : Aud) : Keeps s (s.recover n) := ite_keeps _ (fun _ => restoreAll_keeps s n) fun _ => .refl s

theorem endCooling_keeps (s : State) (n : Aud) : Keeps s (s.endCooling n) := by
  unfold State.endCooling
  exact ite_keeps _ (fun _ => .trans (modEmit_keeps s n _) (ite_keeps _ (fun _ => recover_keeps _ n) fun _ => .refl _)) fun _ => .refl s

theorem endTransmission_keeps (s : State) (n : Aud) : Keeps s (s.endTransmission n) := by
  unfold State.endTransmission
  split
  · exact modEmit_keeps s n _
  · exact .refl s

theorem enableEmitter_keeps (s : State) (n : Aud) (b : Bool) : Keeps s (s.enableEmitter n b) := by
  unfold State.enableEmitter
  refine ite_keeps _ (fun _ => ite_keeps _ (fun _ => ?_) fun _ => .refl s) fun _ => ite_keeps _ (fun _ => .refl s) fun _ => modEmit_keeps s n _
  exact .trans (modEmit_keeps s n _) (ite_keeps _ (fun _ => recover_keeps _ n) fun _ => .refl _)

theorem adoptAir_keeps (s : State) (n : Aud) : Keeps s (s.adoptAir n) := by
  have h : s.adoptAir n = (s.modAir n fun a => { a with current := a.staged }).modEmit n fun u => { u with current := u.staged } := by
    unfold State.adoptAir State.modEmit State.modAud
    rw [State.modAir_same]
    simp [State.modAir, State.modAud, State.setAud]
  rw [h]
  exact .trans (modAir_keeps_le s n _ (by intro; rfl)) (modEmit_keeps _ n _)

theorem expire_keeps (s : State) (n : Aud) : Keeps s (s.expire n) := by
  have hpre : Keeps s (((s.modAir n fun a => { a with timer := cycleCounts }).adoptAir n).ageAnnouncement n) :=
    .trans (.trans (modAir_keeps_le s n _ (by intro; rfl)) (adoptAir_keeps _ n)) (ageAnnouncement_keeps _ n)
  unfold State.expire
  refine hpre.trans ?_
  dsimp only
  split
  · exact .trans (.trans (buildFrame_keeps _ n _) (modAir_keeps_le _ n _ (by intro; rfl))) (handOver_keeps _ n _ _)
  · exact .trans (modAir_keeps_le _ n _ (by intro; rfl)) (handOver_keeps _ n _ _)

/-! ### One measure count -/

/-- The counters that run of themselves are none that the laws speak of. -/
theorem count_keeps (s : State) : Keeps s s.count := by
  have haud (n : Aud) : s.count.aud n = (s.aud n).count :=
    show (s.auds.map Auditorium.count)[n.val] = (s.auds[n.val]).count from Vector.getElem_map ..
  refine ⟨rfl, rfl, rfl, id, id, ?_, ?_, ?_⟩
  · simp only [State.EventsWithin, haud]; exact id
  · simp only [State.PlayoutsOk, State.play, haud]; exact id
  · simp only [State.EnginesOk, State.eng, State.textOn, haud]; exact id

theorem when_keeps (s : State) (c : Bool) (f : State → State) (h : ∀ s, Keeps s (f s)) : Keeps s (s.when_ c f) :=
  ite_keeps _ (fun _ => h s) fun _ => .refl s

theorem dueOf_keeps (s : State) (n : Aud) : Keeps s (s.dueOf n) := by
  unfold State.dueOf
  refine .trans ?_ (when_keeps _ _ _ fun s => expire_keeps s n)
  refine .trans ?_ (when_keeps _ _ _ fun s => endCooling_keeps s n)
  refine .trans ?_ (when_keeps _ _ _ fun s => missDeadline_keeps s n)
  refine .trans ?_ (when_keeps _ _ _ fun s => settle_keeps s _)
  refine .trans ?_ (when_keeps _ _ _ fun s => settle_keeps s _)
  refine .trans ?_ (when_keeps _ _ _ fun s => qualify_keeps s n)
  exact when_keeps _ _ _ fun s => endTransmission_keeps s n

end Sys2Proof.Machine

/-! ## The commands and the store's steps keep the laws -/

namespace Sys2Proof.Machine

/-! ### The control link (R160 to R163) -/

theorem startTx_keeps (s : State) (src : TxSource) : Keeps s (s.startTx src) := by
  unfold State.startTx
  split
  · exact .of_same rfl rfl rfl rfl rfl rfl rfl
  · exact .refl s

theorem ready_keeps (s : State) (r : Reply) : Keeps s (s.ready r) :=
  .trans (s' := { s with replyBuf := .ready r }) (.of_same rfl rfl rfl rfl rfl rfl rfl) (startTx_keeps _ _)

theorem refuse_keeps (s : State) (r : Reply) : Keeps s (s.refuse r) := by
  unfold State.refuse
  split
  · exact .refl s
  · exact .trans (s' := { s with refusal := some r }) (.of_same rfl rfl rfl rfl rfl rfl rfl) (startTx_keeps _ _)

theorem frameError_keeps (s : State) : Keeps s s.frameError :=
  .trans (s' := { s with framer := .hunting }) (.of_same rfl rfl rfl rfl rfl rfl rfl) (refuse_keeps _ _)

theorem answer_keeps (kind tag : Byte) (s : State) (d : Done) (h : Keeps s d.1) : Keeps s (State.answer kind tag d) := by
  unfold State.answer
  split
  · exact h.trans (ready_keeps _ _)
  · exact h.trans (.of_same rfl rfl rfl rfl rfl rfl rfl)

/-- A command keeps the laws when its owner's action does. -/
theorem take_keeps (s : State) (kind tag : Byte) (inStarting : Bool) (action : Option (State → Done))
    (h : ∀ act, action = some act → ∀ s, Keeps s (act s).1) : Keeps s (s.take kind tag inStarting action) := by
  unfold State.take
  refine .trans (s' := { s with framer := .hunting }) (.of_same rfl rfl rfl rfl rfl rfl rfl) ?_
  refine ite_keeps _ (fun _ => refuse_keeps _ _) fun _ => ite_keeps _ (fun _ => answer_keeps _ _ _ _ (.refl _)) fun _ => ?_
  split
  · exact answer_keeps _ _ _ _ (h _ rfl _)
  · exact answer_keeps _ _ _ _ (.refl _)

/-! ### The store's own operations -/

theorem modBlock_keeps (s : State) (b : Nat) (f : BlockRec → BlockRec) : Keeps s (s.modBlock b f) := .of_same rfl rfl rfl rfl rfl rfl rfl

theorem claim_keeps (s : State) (b : Nat) (c : BlockClass) (o : Nat) : Keeps s (s.claim b c o) := modBlock_keeps s b _

theorem release_keeps (s : State) (b : Nat) (c : BlockClass) : Keeps s (s.release b c) := modBlock_keeps s b _

theorem endOp_keeps (s : State) : Keeps s s.endOp := .of_same rfl rfl rfl rfl rfl rfl rfl

theorem setOp_keeps (s : State) (op : HostOp) : Keeps s (s.setOp op) := .of_same rfl rfl rfl rfl rfl rfl rfl

theorem setPkgState_keeps (s : State) (id : Nat) (st : PkgState) : Keeps s (s.setPkgState id st) := modPackage_keeps s id _ fun _ => rfl

theorem storeFail_keeps (s : State) (id op cause : Nat) : Keeps s (s.storeFail id op cause) := raise_keeps _ _ _ _

/-- The page register and the load are none that the laws speak of. -/
theorem pageReg_keeps (s : State) (p : Option PageImage) : Keeps s { s with pageReg := p } := .of_same rfl rfl rfl rfl rfl rfl rfl

theorem load_keeps (s : State) (l : Option Load) : Keeps s { s with load := l } := .of_same rfl rfl rfl rfl rfl rfl rfl

/-- The page register, the load and the slot take a load page. -/
theorem handed_keeps (s : State) (op : HostOp) (p : Option PageImage) (l : Option Load) :
    Keeps s { s.setOp op with pageReg := p, load := l } := .of_same rfl rfl rfl rfl rfl rfl rfl

theorem hostRead_keeps (s : State) (op : StoreOp) : Keeps s (s.hostRead op) := request_keeps_laws s _

theorem hostWrite_keeps_laws (s : State) (op : StoreOp) : Keeps s (s.hostWrite op) :=
  ite_keeps _ (fun _ => .of_same rfl rfl rfl rfl rfl rfl rfl) fun _ => request_keeps_laws s _

theorem retireTag_keeps (s : State) (b : Nat) : Keeps s (s.retireTag b) := (pageReg_keeps s _).trans (hostWrite_keeps_laws _ _)

theorem InOrder.filter {ps : List Package} (h : InOrder ps) (p : Package → Bool) : InOrder (ps.filter p) :=
  ⟨h.1.filter p, fun q hq => h.2 q (List.mem_of_mem_filter hq)⟩

theorem InOrder.map {ps : List Package} (h : InOrder ps) (f : Package → Package) (hf : ∀ p, (f p).id = p.id) : InOrder (ps.map f) := by
  refine ⟨List.pairwise_map.mpr (h.1.imp fun {p q} hpq => by rwa [hf, hf]), fun p hp => ?_⟩
  obtain ⟨q, hq, rfl⟩ := List.mem_map.mp hp
  rw [hf]
  exact h.2 q hq

theorem dropPackage_keeps (s : State) (id : Nat) : Keeps s (s.dropPackage id) := .of_packages rfl rfl rfl rfl rfl rfl fun h => h.filter _

theorem insertPackage_perm (p : Package) (ps : List Package) : (insertPackage p ps).Perm (p :: ps) := by
  induction ps with
  | nil => exact .refl _
  | cons q qs ih =>
    unfold insertPackage
    split
    · exact .refl _
    · exact (ih.cons q).trans (.swap p q qs)

/-- A new entry of a free id joins the directory in order (R1). -/
theorem InOrder.insert {ps : List Package} (h : InOrder ps) (p : Package) (hid : p.id < Config.packageIds) (hfree : ∀ q ∈ ps, q.id ≠ p.id) :
    InOrder (insertPackage p ps) := by
  refine ⟨?_, fun q hq => ?_⟩
  · obtain ⟨hps, -⟩ := h
    induction ps with
    | nil => exact List.pairwise_singleton _ _
    | cons q qs ih =>
      obtain ⟨hq, hqs⟩ := List.pairwise_cons.mp hps
      have hne := hfree q (List.mem_cons_self ..)
      unfold insertPackage
      split
      · rename_i hlt
        exact List.pairwise_cons.mpr ⟨fun r hr => by
          rcases List.mem_cons.mp hr with rfl | hr
          · exact hlt
          · exact hlt.trans (hq r hr), hps⟩
      · rename_i hge
        refine List.pairwise_cons.mpr ⟨fun r hr => ?_, ih (fun r hr => hfree r (List.mem_cons_of_mem _ hr)) hqs⟩
        rcases List.mem_cons.mp ((insertPackage_perm p qs).mem_iff.mp hr) with rfl | hr
        · omega
        · exact hq r hr
  · rcases List.mem_cons.mp ((insertPackage_perm p ps).mem_iff.mp hq) with rfl | hq
    · exact hid
    · exact h.2 q hq

theorem freeId_spec {s : State} {id : Nat} (h : s.freeId = some id) : id < Config.packageIds ∧ ∀ q ∈ s.packages, q.id ≠ id := by
  have hf := List.find?_some h
  refine ⟨List.mem_range.mp (List.mem_of_find?_eq_some h), fun q hq e => ?_⟩
  rw [State.package, Option.isNone_iff_eq_none, List.find?_eq_none] at hf
  exact hf q hq (by simpa using e)

/-! ### The commands of the directory and the cue store (R6 to R24, R42, R43) -/

theorem packageOpen_keeps (a : OpenArgs) (s : State) : Keeps s (packageOpenAction a s).1 := by
  unfold packageOpenAction
  split
  · exact .refl s
  · split
    · exact .refl s
    · rename_i id hid
      refine ite_fst_keeps _ (fun _ => .refl s) fun _ => ?_
      split
      · exact .refl s
      · obtain ⟨hlt, hfree⟩ := freeId_spec hid
        refine .of_packages rfl rfl rfl rfl rfl rfl fun h => h.insert _ hlt ?_
        exact hfree

theorem handover_keeps (s : State) (p : Package) (l : Load) : Keeps s (s.handover p l) := by
  unfold State.handover
  dsimp only
  refine .trans (.trans ?_ (handed_keeps _ _ _ _)) (hostWrite_keeps_laws _ _)
  split
  · exact .trans (claim_keeps s _ _ _) (modPackage_keeps _ _ _ (by intro; rfl))
  · exact .refl s

theorem stage_keeps (s : State) (id : Nat) (l : Load) (t : TextTrack) (c : Cue) : Keeps s (s.stage id l t c) := by
  unfold State.stage
  dsimp only
  exact .trans (modPackage_keeps s id _ (by intro; rfl)) (load_keeps _ _)

/-- A record of a batch leaves a state that meets a predicate, where it is accepted. -/
def RecordResult.Leaves (P : State → Prop) : RecordResult → Prop
  | .taken s' _ _ => P s'
  | .refused _ => True

theorem ite_leaves {P : State → Prop} {a b : RecordResult} (c : Prop) [Decidable c] (ha : c → a.Leaves P) (hb : ¬ c → b.Leaves P) :
    (if c then a else b).Leaves P := by
  split
  · exact ha ‹_›
  · exact hb ‹_›

/-- An accepted record is staged, after a handover where it needed one. -/
theorem appendRecord_leaves {P : State → Prop} {s : State} {p : Package} {l : Load} (info : PkgInfo) (r : RawRecord)
    (hstage : ∀ id l' t c, P (s.stage id l' t c)) (hhand : ∀ id l' t c, P ((s.handover p l).stage id l' t c)) :
    (appendRecord s p info l r).Leaves P := by
  unfold appendRecord
  split
  · refine ite_leaves _ (fun _ => trivial) fun _ => ?_
    split
    · exact trivial
    · refine ite_leaves _ (fun _ => trivial) fun _ => ite_leaves _ (fun _ => trivial) fun _ => ite_leaves _ (fun _ => trivial) fun _ =>
        ite_leaves _ (fun _ => ?_) fun _ => hstage _ _ _ _
      split
      · exact trivial
      · dsimp only
        split
        · exact hhand _ _ _ _
        · exact trivial
  · exact trivial

theorem appendRecord_keeps {s s' : State} {p : Package} {info : PkgInfo} {l : Load} {r : RawRecord} {k : Nat} {c : Bool}
    (h : appendRecord s p info l r = .taken s' k c) : Keeps s s' := by
  have hleaves := appendRecord_leaves (P := Keeps s) (s := s) (p := p) (l := l) info r (stage_keeps s) fun _ _ _ _ =>
    (handover_keeps s p l).trans (stage_keeps _ _ _ _ _)
  rwa [h] at hleaves

theorem appendBatch_keeps (id : Nat) (rs : List RawRecord) : ∀ (s : State) (b : Batch), Keeps s (appendBatch id rs s b).1 := by
  induction rs with
  | nil => exact fun s _ => .refl s
  | cons r rs ih =>
    intro s b
    unfold appendBatch
    split
    · split
      · split
        · rename_i h
          exact (appendRecord_keeps h).trans (ih _ _)
        · exact .refl s
      · exact .refl s
    · exact .refl s

theorem appendReply_keeps (s : State) (b : Batch) (c : Code) : Keeps s (appendReply s b c).1 := by
  unfold appendReply
  split
  · exact .refl s
  · exact .of_same rfl rfl rfl rfl rfl rfl rfl

theorem cueAppend_keeps (id : Nat) (rs : List RawRecord) (s : State) : Keeps s (cueAppendAction id rs s).1 := by
  unfold cueAppendAction
  split
  · exact .refl s
  · exact ite_fst_keeps _ (fun _ => .refl s) fun _ => ite_fst_keeps _ (fun _ => .refl s) fun _ =>
      (appendBatch_keeps id rs s _).trans (appendReply_keeps _ _ _)

theorem sealStep_keeps_laws (s : State) (id step : Nat) (l : Load) : Keeps s (s.sealStep id step l) := by
  unfold State.sealStep
  split
  · split
    · exact ((setOp_keeps s _).trans (pageReg_keeps _ _)).trans (hostWrite_keeps_laws _ _)
    · exact .refl s
  · exact .refl s

theorem packageSeal_keeps (id : Nat) (s : State) : Keeps s (packageSealAction id s).1 := by
  unfold packageSealAction
  split
  · exact .refl s
  · split
    · refine ite_fst_keeps _ (fun _ => .refl s) fun _ => ite_fst_keeps _ (fun _ => .refl s) fun _ =>
        ite_fst_keeps _ (fun _ => .refl s) fun _ => ite_fst_keeps _ (fun _ => .refl s) fun _ => ?_
      refine .trans ?_ (sealStep_keeps_laws _ _ _ _)
      refine .trans (.trans ?_ (setOp_keeps _ _)) (load_keeps _ _)
      exact .trans (foldl_keeps _ (fun s b => claim_keeps s b _ _) _ s) (modPackage_keeps _ _ _ (by intro; rfl))
    · exact .refl s

theorem deleteNext_keeps (s : State) (id : Nat) (rest : List Nat) (k : Nat) : Keeps s (s.deleteNext id rest k) := by
  unfold State.deleteNext
  split
  · exact (setOp_keeps s _).trans (hostWrite_keeps_laws _ _)
  · exact ((dropPackage_keeps s id).trans (endOp_keeps _)).trans (raise_keeps _ _ _ _)

theorem reclaimNext_keeps (s : State) (rest : List Nat) (j k : Nat) : Keeps s (s.reclaimNext rest j k) := by
  unfold State.reclaimNext
  split
  · exact (setOp_keeps s _).trans (hostWrite_keeps_laws _ _)
  · exact (raise_keeps s _ _ _).trans (endOp_keeps _)

theorem packageDelete_keeps (id : Nat) (s : State) : Keeps s (packageDeleteAction id s).1 := by
  unfold packageDeleteAction
  split
  · exact .refl s
  · refine ite_fst_keeps _ (fun _ => .refl s) fun _ => ite_fst_keeps _ (fun _ => .refl s) fun _ =>
      ite_fst_keeps _ (fun _ => .refl s) fun _ => ite_fst_keeps _ (fun _ => .refl s) fun _ => ite_fst_keeps _ (fun _ => .refl s) fun _ => ?_
    exact .trans (.trans (setPkgState_keeps s id _) (load_keeps _ _)) (deleteNext_keeps _ _ _ _)

theorem packageProtect_keeps (id : Nat) (level : Byte) (s : State) : Keeps s (packageProtectAction id level s).1 := by
  unfold packageProtectAction
  split
  · exact .refl s
  · split
    · exact .refl s
    · exact ite_fst_keeps _ (fun _ => .refl s) fun _ => ite_fst_keeps _ (fun _ => .refl s) fun _ => modPackage_keeps s _ _ fun _ => rfl

theorem cueAmend_keeps (id track cue : Nat) (x : Option CueText) (s : State) : Keeps s (cueAmendAction id track cue x s).1 := by
  unfold cueAmendAction
  split
  · exact .refl s
  · refine ite_fst_keeps _ (fun _ => .refl s) fun _ => ite_fst_keeps _ (fun _ => .refl s) fun _ => ?_
    split
    · split
      · exact .refl s
      · refine ite_fst_keeps _ (fun _ => .refl s) fun _ => ite_fst_keeps _ (fun _ => .refl s) fun _ =>
          ite_fst_keeps _ (fun _ => .refl s) fun _ => ite_fst_keeps _ (fun _ => .refl s) fun _ => ?_
        refine .trans (.trans ?_ (setOp_keeps _ _)) (hostRead_keeps _ _)
        exact ite_keeps _ (fun _ => claim_keeps _ _ _ _) fun _ => .refl s
    · exact .refl s

theorem cueRead_keeps (id track cue : Nat) (s : State) : Keeps s (cueReadAction id track cue s).1 := by
  unfold cueReadAction
  split
  · exact .refl s
  · refine ite_fst_keeps _ (fun _ => .refl s) fun _ => ?_
    split
    · exact ite_fst_keeps _ (fun _ => .refl s) fun _ => ite_fst_keeps _ (fun _ => .refl s) fun _ =>
        (setOp_keeps s _).trans (hostRead_keeps _ _)
    · exact .refl s

theorem storeReclaim_keeps (s : State) : Keeps s (storeReclaimAction s).1 :=
  ite_fst_keeps _ (fun _ => .refl s) fun _ => ite_fst_keeps _ (fun _ => .refl s) fun _ => reclaimNext_keeps s _ _ _

/-! ### The completions of the store's operations: what follows the change of the flash -/

theorem loadProgramDone_keeps (s : State) (id b p : Nat) (ok : Bool) : Keeps (s.programmed b p ok) (s.loadProgramDone id b p ok) := by
  unfold State.loadProgramDone
  refine (endOp_keeps _).trans (ite_keeps _ (fun _ => ite_keeps _ (fun _ => .refl _) fun _ => ?_) fun _ => setPkgState_keeps _ _ _)
  exact .trans (.trans (setPkgState_keeps _ _ _) (load_keeps _ none)) (storeFail_keeps _ _ _ _)

theorem sealProgramDone_keeps (s : State) (id k : Nat) (l : Load) (b p : Nat) (ok : Bool) :
    Keeps (s.programmed b p ok) (s.sealProgramDone id k l b p ok) := by
  unfold State.sealProgramDone
  dsimp only
  split
  · refine ite_keeps _ (fun _ => ?_) fun _ => ite_keeps _ (fun _ => sealStep_keeps_laws _ _ _ _) fun _ => ?_
    · exact .trans (.trans (setPkgState_keeps _ _ _) (endOp_keeps _)) (storeFail_keeps _ _ _ _)
    · exact .trans (.trans (modPackage_keeps _ _ _ (by intro; rfl)) (endOp_keeps _)) (raise_keeps _ _ _ _)
  · exact endOp_keeps _

theorem deleteErased_keeps (s : State) (id b : Nat) (rest : List Nat) (k : Nat) (ok : Bool) :
    Keeps (s.erased b ok) (s.deleteErased id b rest k ok) :=
  ite_keeps _ (fun _ => (release_keeps _ _ _).trans (deleteNext_keeps _ _ _ _)) fun _ => retireTag_keeps _ _

theorem reclaimErased_keeps (s : State) (b : Nat) (rest : List Nat) (j k : Nat) (ok : Bool) :
    Keeps (s.erased b ok) (s.reclaimErased b rest j k ok) :=
  ite_keeps _ (fun _ => (release_keeps _ _ _).trans (reclaimNext_keeps _ _ _ _)) fun _ => retireTag_keeps _ _

theorem amendNoRoom_keeps (s : State) (id b : Nat) (r : Bool) : Keeps s (s.amendNoRoom id b r) := by
  unfold State.amendNoRoom
  exact .trans (.trans (storeFail_keeps s _ _ _) (ite_keeps _ (fun _ => release_keeps _ _ _) fun _ => .refl _)) (endOp_keeps _)

theorem amendRead_keeps (s : State) (f : Flight) (errs id : Nat) (t : TextTrack) (cue : Nat) (pl : Placement) (sp : Option Nat)
    (ls : List Line) (b : Nat) (r : Bool) (stage : AmendStage) : Keeps s (s.amendRead f errs id t cue pl sp ls b r stage) := by
  unfold State.amendRead
  refine (graded_keeps s f errs).trans ?_
  dsimp only
  split
  · refine ite_keeps _ (fun _ => ?_) fun _ => (setOp_keeps _ _).trans (hostRead_keeps _ _)
    split
    · exact (setOp_keeps _ _).trans (hostRead_keeps _ _)
    · exact amendNoRoom_keeps _ _ _ _
  · split
    · exact ite_keeps _ (fun _ => amendNoRoom_keeps _ _ _ _) fun _ =>
        ((setOp_keeps _ _).trans (pageReg_keeps _ _)).trans (hostWrite_keeps_laws _ _)
    · exact amendNoRoom_keeps _ _ _ _
  · exact amendNoRoom_keeps _ _ _ _

theorem textAmended_keeps (c : Cue) (s : State) (n : Aud) (t : TextTrack) : Keeps s (State.textAmended c s n t) :=
  (textAmended_spec c s n t).1.keeps (textAmended_spec c s n t).2

theorem tellCommit_keeps (s : State) (id : Nat) (t : TextTrack) (c : Cue) : Keeps s (s.tellCommit id t c) :=
  foldl_keeps _ (fun s n => ite_keeps _ (fun _ => textAmended_keeps c s n t) fun _ => .refl s) _ s

theorem amendProgrammed_keeps (s : State) (id : Nat) (t : TextTrack) (cue : Nat) (pl : Placement) (sp : Option Nat) (ls : List Line)
    (b p : Nat) (r : Bool) (lg g : Nat) (c : Cue) (ok : Bool) :
    Keeps (s.programmed b p ok) (s.amendProgrammed id t cue pl sp ls b p r lg g c ok) := by
  unfold State.amendProgrammed
  refine ite_keeps _ (fun _ => ?_) fun _ => (storeFail_keeps _ _ _ _).trans (ite_keeps _
    (fun _ => (setOp_keeps _ _).trans (hostWrite_keeps_laws _ _)) fun _ => endOp_keeps _)
  exact .trans (.trans (.trans (modPackage_keeps _ _ _ (by intro; rfl)) (raise_keeps _ _ _ _)) (tellCommit_keeps _ _ _ _)) (endOp_keeps _)

theorem retireProgrammed_keeps (s : State) (b p : Nat) (op : HostOp) (ok : Bool) :
    Keeps (s.programmed b p ok) (s.retireProgrammed b p op ok) := by
  unfold State.retireProgrammed
  refine (release_keeps _ b (retiredClass ok)).trans ?_
  dsimp only
  split
  · exact deleteNext_keeps _ _ _ _
  · exact reclaimNext_keeps _ _ _ _
  · exact endOp_keeps _

theorem endCueRead_keeps (s : State) (c : Code) (v : List Byte) : Keeps s (s.endCueRead c v) := by
  unfold State.endCueRead
  refine (endOp_keeps s).trans ?_
  dsimp only
  split
  · exact ready_keeps _ _
  · exact .refl _

theorem cueReadStep_keeps (s : State) (f : Flight) (errs id : Nat) (t : TextTrack) (cue : Nat) (stage : CueReadStage) :
    Keeps s (s.cueReadStep f errs id t cue stage) := by
  unfold State.cueReadStep
  refine (graded_keeps s f errs).trans ?_
  dsimp only
  split
  · refine ite_keeps _ (fun _ => ?_) fun _ => (setOp_keeps _ _).trans (hostRead_keeps _ _)
    split
    · exact (setOp_keeps _ _).trans (hostRead_keeps _ _)
    · exact endCueRead_keeps _ _ _
  · split
    · exact endCueRead_keeps _ _ _
    · exact endCueRead_keeps _ _ _
  · exact endCueRead_keeps _ _ _

theorem swiReleased_keeps (s : State) : Keeps s s.swiReleased := by
  unfold State.swiReleased
  refine .trans (s' := { s with swi := false }) (.of_same rfl rfl rfl rfl rfl rfl rfl) ?_
  dsimp only
  split
  · exact .trans (s' := { { s with swi := false } with slot := s.slot.map HostSlot.going }) (.of_same rfl rfl rfl rfl rfl rfl rfl)
      (request_keeps_laws _ _)
  · exact .refl _

/-- An answer changes nothing that the action has not changed. -/
theorem done_keeps {s s' : State} (c : Code) (v : List Byte) (h : Keeps s s') : Keeps s (done s' c v).1 := h

/-! ### The commands of shows, sound, air and emitters -/

theorem gateSet_keeps (a : Byte) (es : List Byte) (s : State) : Keeps s (gateSetAction a es s).1 := by
  unfold gateSetAction
  split
  · exact done_keeps _ _ (.trans (modInput_keeps s _ _) (modInput_keeps _ _ _))
  · exact .refl s

theorem timingSet_keeps (a w c sl : Byte) (s : State) : Keeps s (timingSetAction a w c sl s).1 := by
  unfold timingSetAction
  split
  · rename_i n _
    refine ite_fst_keeps _ (fun _ => .refl s) fun _ => ?_
    refine .trans ?_ (ite_keeps _ (fun _ => adopt_keeps _ n) fun _ => .refl _)
    exact modAud_input_ctx_keeps s n (fun u => { u with wStaged := w.toNat })
      (fun x => { x with coastLimitStaged := c.toNat, slewWindowStaged := sl.toNat }) rfl rfl
  · exact .refl s

theorem showUnbind_keeps (a : Byte) (s : State) : Keeps s (showUnbindAction a s).1 := by
  unfold showUnbindAction
  split
  · exact ite_fst_keeps _ (fun _ => .refl s) fun _ => unbind_keeps s _
  · exact .refl s

theorem showStart_keeps (a : Byte) (p : Nat) (s : State) : Keeps s (showStartAction a p s).1 := by
  unfold showStartAction
  split
  · exact ite_fst_keeps _ (fun _ => .refl s) fun _ => ite_fst_keeps _ (fun _ => .refl s) fun _ => startShow_keeps s _ _
  · exact .refl s

theorem positionReport_keeps (a : Byte) (r : Nat) (s : State) : Keeps s (positionReportAction a r s).1 := by
  unfold positionReportAction
  split
  · refine ite_fst_keeps _ (fun _ => .refl s) fun _ => ite_fst_keeps _ (fun _ => .refl s) fun _ => ?_
    exact (finishTest_keeps s _).trans (ite_fst_keeps _ (fun _ => .refl _) fun _ => report_keeps _ _ _ _)
  · exact .refl s

theorem trackSet_keeps (a k t e l : Byte) (s : State) : Keeps s (trackSetAction a k t e l s).1 := by
  unfold trackSetAction
  split
  · refine ite_fst_keeps _ (fun _ => ?_) fun _ => ite_fst_keeps _ (fun _ => ?_) fun _ => .refl s
    · split
      · exact ite_fst_keeps _ (fun _ => .refl s) fun hv => ite_fst_keeps _ (fun _ => .refl s) fun _ => setText_keeps s _ _ _ hv
      · exact .refl s
    · split
      · exact ite_fst_keeps _ (fun _ => .refl s) fun hv => ite_fst_keeps _ (fun _ => .refl s) fun _ => setSound_keeps s _ _ _
      · exact .refl s
  · exact .refl s

theorem showStatus_keeps (a : Byte) (s : State) : Keeps s (showStatusAction a s).1 := by
  unfold showStatusAction
  split
  · exact finishTest_keeps s _
  · exact .refl s

theorem soundBlock_keeps (a t : Byte) (stamp : Nat) (x : List Byte) (s : State) : Keeps s (soundBlockAction a t stamp x s).1 := by
  unfold soundBlockAction
  split
  · rename_i n t _ _
    refine ite_fst_keeps _ (fun _ => .refl s) fun _ => ite_fst_keeps _ (fun _ => .refl s) fun _ =>
      ite_fst_keeps _ (fun _ => .refl s) fun _ => ite_fst_keeps _ (fun _ => .refl s) fun _ =>
      ite_fst_keeps _ (fun _ => .refl s) fun hgrid => ite_fst_keeps _ (fun _ => .refl s) fun hlate =>
      ite_fst_keeps _ (fun _ => .refl s) fun hdup => ite_fst_keeps _ (fun _ => .refl s) fun hfull => ?_
    refine done_keeps _ _ (modPlay_keeps s n t _ fun h => ?_)
    -- a block on the grid, above z, of a new stamp, where there is room
    obtain ⟨hlen, hrise, hstamps, hz⟩ := h
    have hperm := insertBlock_perm { stamp := stamp, payload := x } (s.play n t).queue
    have hnew : ∀ c ∈ (s.play n t).queue, c.stamp ≠ stamp := by simpa using hdup
    refine ⟨?_, insertBlock_rising _ hrise hnew, fun b hb => ?_, fun z hzz => ⟨(hz z hzz).1, (hz z hzz).2.1, fun b hb => ?_⟩⟩
    · rw [hperm.length_eq, List.length_cons]
      omega
    · rcases List.mem_cons.mp (hperm.mem_iff.mp hb) with rfl | hb
      · exact not_not.mp hgrid
      · exact hstamps b hb
    · rcases List.mem_cons.mp (hperm.mem_iff.mp hb) with rfl | hb
      · change (s.play n t).z = some z at hzz
        rw [hzz] at hlate
        simpa using hlate
      · exact (hz z hzz).2.2 b hb
  · exact .refl s

theorem soundFlush_keeps (a t : Byte) (s : State) : Keeps s (soundFlushAction a t s).1 := by
  unfold soundFlushAction
  split
  · exact ite_fst_keeps _ (fun _ => .refl s) fun _ => ite_fst_keeps _ (fun _ => .refl s) fun _ =>
      done_keeps _ _ (modPlay_keeps s _ _ _ fun h => h.emptied (by rfl) (by rfl))
  · exact .refl s

theorem emitterSet_keeps (a en ma pa mb pb pr : Byte) (p w : Nat) (s : State) : Keeps s (emitterSetAction a en ma pa mb pb pr p w s).1 := by
  unfold emitterSetAction
  split
  · exact ite_fst_keeps _ (fun _ => .refl s) fun _ => ite_fst_keeps _ (fun _ => .refl s) fun _ =>
      .trans (modEmit_keeps s _ _) (enableEmitter_keeps _ _ _)
  · exact .refl s

theorem airSet_keeps (a r : Byte) (site : Nat) (i : Byte) (s : State) : Keeps s (airSetAction a r site i s).1 := by
  unfold airSetAction
  split
  · exact ite_fst_keeps _ (fun _ => .refl s) fun _ => ite_fst_keeps _ (fun _ => .refl s) fun _ =>
      done_keeps _ _ (modAir_keeps_le s _ _ (by intro; rfl))
  · exact .refl s

theorem announce_keeps (mask i d : Nat) (x : List Byte) (s : State) : Keeps s (announceAction mask i d x s).1 := by
  unfold announceAction
  refine ite_fst_keeps _ (fun _ => .refl s) fun _ => ?_
  refine .trans (s' := { s with announces := (s.announces + 1) % 4294967296 }) (.of_same rfl rfl rfl rfl rfl rfl rfl) ?_
  exact foldl_keeps _ (fun s n => ite_keeps _ (fun _ => modAir_keeps_le s n _ fun a => announce_pend_le _ _ _ _ a) fun _ => .refl s) _ _

theorem announceCancel_keeps (mask : Nat) (s : State) : Keeps s (announceCancelAction mask s).1 := cancel_keeps mask allAuds s

end Sys2Proof.Machine

/-! ## What a step can do to the laws of the store and of the shows -/

namespace Sys2Proof.Machine

/-! ### Binding by command, and the part reset -/

theorem showBind_keeps (a p : Byte) (xs ys : List (Option TrackSetting)) (s : State) : Keeps s (showBindAction a p xs ys s).1 := by
  unfold showBindAction
  split
  · rename_i n _ _ _ _ _ _ _
    refine ite_fst_keeps _ (fun _ => .refl s) fun hv => ?_
    have hv : (s.aud n).ctx.st = .vacant := not_not.mp hv
    split
    · exact .refl s
    · split
      · refine ite_fst_keeps _ (fun _ => .refl s) fun _ => done_keeps _ _ ?_
        -- up to the input unit the show enters BINDING, its engines silent as they were in VACANT
        refine .trans ?_ (ite_keeps _ (fun _ => bound_keeps_of_binding _ n ?_) fun _ => ite_keeps _ (fun _ => .refl _) fun _ => bindRead_keeps _ n)
        · refine .trans (.trans (modPackage_keeps s _ _ (by intro; rfl)) (modCtx_keeps _ n _ fun t _ => .inr ?_)) (modInput_keeps _ n _)
          change ¬ (s.aud n).ctx.st.Live
          exact fun h => h.1 hv
        · rw [State.modInput_aud_ctx, State.modCtx_same]
          exact not_live_of_binding rfl
      · exact .refl s
  · exact .refl s

theorem closeLoad_keeps (s : State) : Keeps s s.closeLoad := by
  unfold State.closeLoad
  split
  · exact ite_keeps _ (fun _ => .trans (load_keeps s none) (ite_keeps _ (fun _ => .refl _) fun _ => setPkgState_keeps _ _ _)) fun _ => .refl s
  · exact .refl s

theorem closeSlot_keeps (s : State) : Keeps s s.closeSlot := by
  unfold State.closeSlot
  split
  · exact ite_keeps _ (fun _ => .refl s) fun _ => (endOp_keeps s).trans (withdraw_keeps _ _)
  · exact (endOp_keeps s).trans (withdraw_keeps _ _)
  · exact .refl s

/-- Auditoriums without cues, blocks and events meet their laws. -/
theorem laws_of_fresh {s : State} (g : Aud → Auditorium) (hauds : s.auds = Vector.ofFn g) (hair : ∀ n, (g n).air.pend = [])
    (htext : ∀ n, (g n).text = Vector.replicate 4 .reset) (hsound : ∀ n, (g n).sound = Vector.replicate 2 .reset) :
    s.EventsWithin ∧ s.PlayoutsOk ∧ s.EnginesOk := by
  have haud (n : Aud) : s.aud n = g n := by
    show s.auds[n.val] = g n
    simp [hauds]
  have heng (n : Aud) (t : TextTrack) : s.eng n t = .reset := by
    show (s.aud n).text[t.val] = .reset
    simp [haud, htext]
  have hplay (n : Aud) (t : SoundTrack) : s.play n t = .reset := by
    show (s.aud n).sound[t.val] = .reset
    simp [haud, hsound]
  refine ⟨(eventsWithin_iff s).mpr fun n => ⟨by simp [haud, hair n], fun t => ?_⟩, fun n t => ?_, (enginesOk_iff s).mpr fun n t => ?_⟩
  · rw [heng n t]; exact ⟨Nat.zero_le _, fun k hk => by cases hk⟩
  · rw [hplay n t]; exact .of_empty rfl fun z hz => by cases hz
  · have hsil : TrackEngine.reset.Silent := ⟨rfl, rfl, rfl, rfl⟩
    rw [heng n t]
    exact ⟨hsil.orderly, fun _ => hsil⟩

theorem partReset_keeps (s : State) : Keeps s s.partReset := by
  refine (closeLoad_keeps s).trans ((closeSlot_keeps _).trans ?_)
  obtain ⟨hev, hpl, hen⟩ := laws_of_fresh (s := s.partReset) (fun n => (s.closeLoad.closeSlot.aud n).partReset n.val) rfl
    (fun _ => rfl) (fun _ => rfl) fun _ => rfl
  exact ⟨rfl, rfl, rfl, fun h => h.map _ fun _ => rfl, fun h => ⟨h.1.filter _, fun hf =>
    show List.filter _ s.closeLoad.closeSlot.queue = [] by rw [h.2 hf]; rfl⟩, fun _ => hev, fun _ => hpl, fun _ => hen⟩

/-! ### Every command keeps the laws -/

/-- The action of a command's owner keeps the laws. -/
def ActionKeeps (o : Option (State → Done)) : Prop := ∀ act, o = some act → ∀ s, Keeps s (act s).1

theorem actionKeeps_none : ActionKeeps none := fun _ h => by cases h

theorem actionKeeps_some {act : State → Done} (h : ∀ s, Keeps s (act s).1) : ActionKeeps (some act) := fun _ e => by cases e; exact h

theorem actionKeeps_map {α : Type} (o : Option α) {act : α → State → Done} (h : ∀ a s, Keeps s (act a s).1) : ActionKeeps (o.map act) := by
  cases o
  · exact actionKeeps_none
  · exact actionKeeps_some (h _)

theorem next_keeps {s t : State} {kind tag : Byte} {b : Bool} {o : Option (State → Done)}
    (h : (Host.Outcome.next (s.take kind tag b o) : Host.Outcome State Fault Refusal) = .next t) (ho : ActionKeeps o) : Keeps s t := by
  cases h
  exact take_keeps s kind tag b o ho

theorem withNotices_keeps (s : State) (ns : List Notice) : Keeps s (s.withNotices ns) := .of_same rfl rfl rfl rfl rfl rfl rfl

theorem noticeSet_keeps (b : Byte) (s : State) : Keeps s (noticeSetAction b s).1 := by
  unfold noticeSetAction
  split
  · exact done_keeps _ _ (.of_same rfl rfl rfl rfl rfl rfl rfl)
  · exact .refl s

theorem packageInfo_keeps (id : Nat) (s : State) :
    Keeps s (match s.package id with | some p => done s .ok p.infoBytes | none => refused s .noSuch).1 := by
  split <;> exact .refl s

theorem execKind_keeps {kind tag : Byte} {body : List Byte} {s t : State} (h : execKind kind tag body s = .next t) : Keeps s t := by
  have answered (f : State → List Byte) : ActionKeeps (some fun s => done s .ok (f s)) := actionKeeps_some fun s => .refl s
  unfold execKind at h
  split at h
  · exact next_keeps h (by split; exacts [answered _, actionKeeps_none])
  · exact next_keeps h (by split; exacts [answered _, actionKeeps_none])
  · exact next_keeps h (by split; exacts [actionKeeps_some fun s => withNotices_keeps s _, actionKeeps_none])
  · exact next_keeps h (by split; exacts [actionKeeps_some (noticeSet_keeps _), actionKeeps_none])
  · exact next_keeps h (by split; exacts [actionKeeps_some partReset_keeps, actionKeeps_none])
  · exact next_keeps h (actionKeeps_map _ packageOpen_keeps)
  · exact next_keeps h (by split; exacts [actionKeeps_map _ (cueAppend_keeps _), actionKeeps_none])
  · exact next_keeps h (by split; exacts [actionKeeps_some (packageSeal_keeps _), actionKeeps_none])
  · exact next_keeps h (by split; exacts [actionKeeps_some (packageDelete_keeps _), actionKeeps_none])
  · exact next_keeps h (by split; exacts [actionKeeps_some (packageProtect_keeps _ _), actionKeeps_none])
  · exact next_keeps h (by split; exacts [actionKeeps_some (packageInfo_keeps _), actionKeeps_none])
  · exact next_keeps h (by split; exacts [answered _, actionKeeps_none])
  · exact next_keeps h (by
      split
      · split; exacts [actionKeeps_some (cueAmend_keeps _ _ _ _), actionKeeps_none]
      · exact actionKeeps_none)
  · exact next_keeps h (by split; exacts [actionKeeps_some (cueRead_keeps _ _ _), actionKeeps_none])
  · exact next_keeps h (by split; exacts [answered _, actionKeeps_none])
  · exact next_keeps h (by split; exacts [actionKeeps_some storeReclaim_keeps, actionKeeps_none])
  · exact next_keeps h (by split; exacts [actionKeeps_some (gateSet_keeps _ _), actionKeeps_none])
  · exact next_keeps h (by split; exacts [actionKeeps_some (timingSet_keeps _ _ _ _), actionKeeps_none])
  · exact next_keeps h (by split; exacts [actionKeeps_some (showBind_keeps _ _ _ _), actionKeeps_none])
  · exact next_keeps h (by split; exacts [actionKeeps_some (showUnbind_keeps _), actionKeeps_none])
  · exact next_keeps h (by split; exacts [actionKeeps_some (showStart_keeps _ _), actionKeeps_none])
  · exact next_keeps h (by split; exacts [actionKeeps_some (positionReport_keeps _ _), actionKeeps_none])
  · exact next_keeps h (by split; exacts [actionKeeps_some (trackSet_keeps _ _ _ _ _), actionKeeps_none])
  · exact next_keeps h (by split; exacts [actionKeeps_some (showStatus_keeps _), actionKeeps_none])
  · exact next_keeps h (by split; exacts [actionKeeps_some (soundBlock_keeps _ _ _ _), actionKeeps_none])
  · exact next_keeps h (by split; exacts [actionKeeps_some (soundFlush_keeps _ _), actionKeeps_none])
  · exact next_keeps h (by split; exacts [actionKeeps_some (airSet_keeps _ _ _ _), actionKeeps_none])
  · exact next_keeps h (by split; exacts [actionKeeps_some (announce_keeps _ _ _ _), actionKeeps_none])
  · exact next_keeps h (by split; exacts [actionKeeps_some (announceCancel_keeps _), actionKeeps_none])
  · exact next_keeps h (by split; exacts [actionKeeps_some (emitterSet_keeps _ _ _ _ _ _ _ _ _), actionKeeps_none])
  · cases h
    exact .trans (s' := { s with framer := .hunting }) (.of_same rfl rfl rfl rfl rfl rfl rfl) (refuse_keeps _ _)

theorem execFrame_keeps {bytes : List Byte} {s t : State} (h : execFrame bytes s = .next t) : Keeps s t := by
  unfold execFrame at h
  split at h
  · exact execKind_keeps h
  · cases h
    exact frameError_keeps s

/-! ### The receiver and the transmitter (R160, R161) -/

theorem collect_keeps (s : State) (n : Nat) : Keeps s (s.collect n) := by
  unfold State.collect
  split <;> exact .of_same rfl rfl rfl rfl rfl rfl rfl

theorem replySent_keeps (s : State) : Keeps s s.replySent := by
  unfold State.replySent
  split
  · dsimp only
    split
    · exact .trans (s' := { s with refusal := none, uartTx := none }) (.of_same rfl rfl rfl rfl rfl rfl rfl) (startTx_keeps _ _)
    · exact .of_same rfl rfl rfl rfl rfl rfl rfl
  · dsimp only
    split
    · exact .trans (s' := { s with replyBuf := .empty, uartTx := none }) (.of_same rfl rfl rfl rfl rfl rfl rfl) (startTx_keeps _ _)
    · exact .of_same rfl rfl rfl rfl rfl rfl rfl
  · exact .refl s

theorem clockOut_keeps (s : State) (out : List Byte) : Keeps s (s.clockOut out) := .of_same rfl rfl rfl rfl rfl rfl rfl

theorem readLinkStatus_keeps {s t : State} {code : Byte} {sent : List Byte} (h : execReadLinkStatus code s sent = .next t) : Keeps s t := by
  unfold execReadLinkStatus State.transfer at h
  split at h
  · dsimp only at h
    split at h
    · exact (clockOut_keeps s _).trans (execFrame_keeps h)
    · cases h; exact collect_keeps s _
    · cases h; exact clockOut_keeps s _
    · cases h; exact clockOut_keeps s _
  · cases h; exact .refl s

theorem uartByte_keeps {s t : State} {b : Byte} {ok : Bool} (h : execUartSyncByteReceived s b ok = .next t) : Keeps s t := by
  have hframer (x : Framer) : Keeps s { s with framer := x } := .of_same rfl rfl rfl rfl rfl rfl rfl
  unfold execUartSyncByteReceived State.byteReceived State.frameByte at h
  split at h
  · split at h
    · cases h; exact ite_keeps _ (fun _ => hframer _) fun _ => .refl s
    · split at h
      · cases h; exact frameError_keeps s
      · split at h
        · exact execFrame_keeps h
        · cases h; exact hframer _
  · cases h; exact .refl s
  · cases h; exact .refl s

theorem tick_keeps (s : State) : Keeps s s.tick := by
  unfold State.tick
  refine .trans ?_ (foldl_keeps _ (fun s n => dueOf_keeps s n) _ _)
  exact .trans (.trans (count_keeps s) (when_keeps _ _ _ frameError_keeps)) (when_keeps _ _ _ fun s => settle_keeps s _)

/-! ### The cases of a step -/

theorem complete_keeps (s : State) (hand : State → State) {u : State} (h : Keeps u (hand s)) : Keeps u (s.complete hand) :=
  h.trans (startNext_keeps _)

/-- What an instruction comes to, for the laws of the store and of the shows: all but six kinds of step keep each of them. -/
inductive Course (i : Instr) (s t : State) : Prop where
  | keeps (h : Keeps s t)
  | reset (linksel : Bool) (instr : i = .powerOnReset linksel ∨ i = .lineReset linksel) (h : t = s.hardReset linksel)
  | programmed (block page : Nat) (ok : Bool) (flight : s.hostProgram = some (block, page)) (busy : s.slot.isSome = true)
      (h : Keeps (s.programmed block page ok) t)
  | erased (block : Nat) (ok : Bool) (flight : s.hostErase = some block) (busy : s.slot.isSome = true) (h : Keeps (s.erased block ok) t)
  | trackRead (f : Flight) (n : Aud) (k : TextTrack) (errs : Nat) (flight : s.flight = some f) (who : f.req.who = .engine n k)
      (h : t = s.complete fun s => s.engineReadDone f n k errs)
  | scanTag (sc : Scan) (block page : Nat) (damaged : Bool) (scan : s.scan = some sc) (h : t = s.complete fun s => s.scanTag sc block page damaged)
  | scanSeal (f : Flight) (sc : Scan) (errs : Nat) (scan : s.scan = some sc) (h : t = s.complete fun s => s.scanSeal f sc errs)

theorem slot_isSome_of_hostOp {s : State} {op : HostOp} (h : s.hostOp = some op) : s.slot.isSome = true := by
  unfold State.hostOp at h
  cases hs : s.slot
  · simp [hs] at h
  · rfl

theorem trackReadDone_course (i : Instr) (s : State) (k : ReadKind) (errs : Nat) : Course i s (s.trackReadDone k errs) := by
  unfold State.trackReadDone
  split
  · rename_i f hf
    split
    · rename_i n u hw
      split
      · exact .trackRead f n u errs hf hw rfl
      · exact .keeps (.refl s)
    · exact .keeps (.refl s)
  · exact .keeps (.refl s)

theorem exec_course {i : Instr} {s t : State} (h : exec i s = .next t) : Course i s t := by
  have kind (k tag : Byte) (body : List Byte) (h : execKind k tag body s = .next t) : Course i s t := .keeps (execKind_keeps h)
  cases i with
  | powerOnReset b => cases h; exact .reset b (.inl rfl) rfl
  | lineReset b => cases h; exact .reset b (.inr rfl) rfl
  | partReset tag body => exact kind 0x05 tag body h
  | partInfo tag body => exact kind 0x01 tag body h
  | linkStatus tag body => exact kind 0x02 tag body h
  | takeNotices tag body => exact kind 0x03 tag body h
  | noticeSet tag body => exact kind 0x04 tag body h
  | packageOpen tag body => exact kind 0x10 tag body h
  | cueAppend tag body => exact kind 0x11 tag body h
  | packageSeal tag body => exact kind 0x12 tag body h
  | packageDelete tag body => exact kind 0x13 tag body h
  | packageProtect tag body => exact kind 0x14 tag body h
  | packageInfo tag body => exact kind 0x15 tag body h
  | packageList tag body => exact kind 0x16 tag body h
  | cueAmend tag body => exact kind 0x17 tag body h
  | cueRead tag body => exact kind 0x18 tag body h
  | storeInfo tag body => exact kind 0x20 tag body h
  | storeReclaim tag body => exact kind 0x21 tag body h
  | gateSet tag body => exact kind 0x30 tag body h
  | timingSet tag body => exact kind 0x31 tag body h
  | showBind tag body => exact kind 0x32 tag body h
  | showUnbind tag body => exact kind 0x33 tag body h
  | showStart tag body => exact kind 0x34 tag body h
  | positionReport tag body => exact kind 0x35 tag body h
  | trackSet tag body => exact kind 0x36 tag body h
  | showStatus tag body => exact kind 0x37 tag body h
  | soundBlock tag body => exact kind 0x40 tag body h
  | soundFlush tag body => exact kind 0x41 tag body h
  | airSet tag body => exact kind 0x50 tag body h
  | announce tag body => exact kind 0x51 tag body h
  | announceCancel tag body => exact kind 0x52 tag body h
  | emitterSet tag body => exact kind 0x60 tag body h
  | frameError => cases h; exact .keeps (frameError_keeps s)
  | unknownKind k tag =>
    cases h
    exact .keeps (.trans (s' := { s with framer := .hunting }) (.of_same rfl rfl rfl rfl rfl rfl rfl) (refuse_keeps _ _))
  | collectReply n =>
    cases h
    exact .keeps (by split; exacts [collect_keeps s n, .refl s])
  | readLinkStatus code sent => exact .keeps (readLinkStatus_keeps h)
  | uartFrameTimeout =>
    cases h
    exact .keeps (by split; exacts [frameError_keeps s, .refl s])
  | replySent => cases h; exact .keeps (replySent_keeps s)
  | uartSyncByteReceived b ok => exact .keeps (uartByte_keeps h)
  | fetchReadDone errs => cases h; exact trackReadDone_course _ s _ errs
  | seekReadDone errs => cases h; exact trackReadDone_course _ s _ errs
  | bindIndexReadDone errs =>
    cases h
    refine .keeps ?_
    split
    · split
      · exact complete_keeps s _ (bindReadDone_keeps s _ _ _)
      · exact .refl s
    · exact .refl s
  | cueReadStepDone errs =>
    cases h
    refine .keeps ?_
    split
    · split
      · exact complete_keeps s _ (cueReadStep_keeps s _ _ _ _ _ _)
      · exact .refl s
    · exact .refl s
  | amendReadDone errs =>
    cases h
    refine .keeps ?_
    split
    · split
      · exact complete_keeps s _ (amendRead_keeps s _ _ _ _ _ _ _ _ _ _ _)
      · exact complete_keeps s _ (amendRead_keeps s _ _ _ _ _ _ _ _ _ _ _)
      · exact .refl s
    · exact .refl s
  | loadPageProgramDone ok =>
    cases h
    split
    · rename_i b p _ hf ho
      exact .programmed b p ok hf (slot_isSome_of_hostOp ho) (complete_keeps s _ (loadProgramDone_keeps s _ _ _ _))
    · exact .keeps (.refl s)
  | sealStepDone ok =>
    cases h
    split
    · rename_i b p _ _ _ hf ho
      exact .programmed b p ok hf (slot_isSome_of_hostOp ho) (complete_keeps s _ (sealProgramDone_keeps s _ _ _ _ _ _))
    · exact .keeps (.refl s)
  | amendProgramDone ok =>
    cases h
    split
    · rename_i b p _ _ _ _ _ _ _ _ _ _ _ hf ho
      exact .programmed b p ok hf (slot_isSome_of_hostOp ho) (complete_keeps s _ (amendProgrammed_keeps s _ _ _ _ _ _ _ _ _ _ _ _ _))
    · exact .keeps (.refl s)
  | retireTagProgramDone ok =>
    cases h
    split
    · rename_i b p op hf ho
      split
      · exact .programmed b p ok hf (slot_isSome_of_hostOp ho) (complete_keeps s _ (retireProgrammed_keeps s _ _ _ _))
      · exact .keeps (.refl s)
    · exact .keeps (.refl s)
  | deleteEraseDone ok =>
    cases h
    split
    · rename_i b _ _ _ _ hf ho
      exact .erased b ok hf (slot_isSome_of_hostOp ho) (complete_keeps s _ (deleteErased_keeps s _ _ _ _ _))
    · exact .keeps (.refl s)
  | reclaimEraseDone ok =>
    cases h
    split
    · rename_i b _ _ _ _ hf ho
      exact .erased b ok hf (slot_isSome_of_hostOp ho) (complete_keeps s _ (reclaimErased_keeps s _ _ _ _ _))
    · exact .keeps (.refl s)
  | retireEraseDone ok =>
    cases h
    split
    · rename_i b _ _ _ _ _ _ _ _ hf ho
      exact .erased b ok hf (slot_isSome_of_hostOp ho) (complete_keeps s _ (retireTag_keeps _ _))
    · exact .keeps (.refl s)
  | scanTagReadDone d =>
    cases h
    split
    · rename_i f sc _ hs
      split
      · exact .scanTag sc _ _ d hs rfl
      · exact .keeps (.refl s)
    · exact .keeps (.refl s)
  | scanSealReadDone errs =>
    cases h
    split
    · rename_i f sc _ hs
      split
      · exact .scanSeal f sc errs hs rfl
      · exact .keeps (.refl s)
    · exact .keeps (.refl s)
  | swiInactive after =>
    cases h
    exact .keeps (.trans (swiReleased_keeps s) (.of_same rfl rfl rfl rfl rfl rfl rfl))
  | framePulseRisingEdge n => cases h; exact .keeps (risingEdge_keeps s n)
  | framePulseFallingEdge n => cases h; exact .keeps (modInput_keeps s n _)
  | qualifyingCountReached n => cases h; exact .keeps (qualify_keeps s n)
  | missingPulseDeadline n => cases h; exact .keeps (missDeadline_keeps s n)
  | contactLevelChange l b => cases h; exact .keeps (modLine_keeps s l _)
  | debounceSettled l => cases h; exact .keeps (settle_keeps s l)
  | cycleExpiry n => cases h; exact .keeps (expire_keeps s n)
  | transmissionEnd n => cases h; exact .keeps (endTransmission_keeps s n)
  | overcurrentFault n after => cases h; exact .keeps (.trans (overcurrent_keeps s n) (modEmit_keeps _ n _))
  | coolingEnd n => cases h; exact .keeps (endCooling_keeps s n)

end Sys2Proof.Machine

/-! ## The bounds of the queues and the changes of the flash (O54, O10) -/

namespace Sys2Proof.Machine

/-! ### The steps that change the flash, the scan or the directory, seen from the shows -/

theorem programmed_eq (s : State) (b p : Nat) (ok : Bool) : ∃ fl bl k, s.programmed b p ok = { s with flash := fl, blocks := bl, free := k } := by
  unfold State.programmed
  simp only
  split
  · exact ⟨_, _, _, rfl⟩
  · exact ⟨_, _, _, rfl⟩

theorem erased_eq (s : State) (b : Nat) (ok : Bool) : ∃ fl bl k, s.erased b ok = { s with flash := fl, blocks := bl, free := k } := by
  unfold State.erased
  simp only
  split
  · exact ⟨_, _, _, rfl⟩
  · exact ⟨_, _, _, rfl⟩

theorem scannedPackages_inOrder (found : List ScanBlock) : InOrder (scannedPackages found) := by
  have hid (id : Nat) (p : Package) (h : (chosenSerial found id).map (scannedPackage found id) = some p) : p.id = id := by
    obtain ⟨k, -, rfl⟩ := Option.map_eq_some_iff.mp h
    rfl
  refine ⟨?_, fun p hp => ?_⟩
  · refine List.pairwise_filterMap.mpr (List.pairwise_lt_range.imp fun {a b} hab p hp q hq => ?_)
    rw [hid a p hp, hid b q hq]
    exact hab
  · obtain ⟨id, hmem, h⟩ := List.mem_filterMap.mp hp
    rw [hid id p h]
    exact List.mem_range.mp hmem

/-- What a step of the scan comes to: it goes on with a scan whose directory is in order, or ends with that directory as the part's. -/
def ScanCourse (s : State) (sc : Scan) (t : State) : Prop :=
  ∃ u sc', Keeps s u ∧ u.packages = s.packages ∧ u.load = s.load ∧ u.slot = s.slot ∧ (∀ n, u.aud n = s.aud n)
    ∧ (InOrder sc.dir → InOrder sc'.dir)
    ∧ ((∃ op, t = { u with scan := some sc' }.request (scanRequest op))
      ∨ t = ({ u with scan := none, phase := .running, packages := sc'.dir } : State).raise .part .startDone
          ({ u with scan := none, phase := .running, packages := sc'.dir } : State).startDetail)

theorem scanSeals_course (s u : State) (sc sc' : Scan) (h : Keeps s u) (hp : u.packages = s.packages) (hl : u.load = s.load)
    (hs : u.slot = s.slot) (ha : ∀ n, u.aud n = s.aud n) (hd : InOrder sc.dir → InOrder sc'.dir) : ScanCourse s sc (u.scanSeals sc') := by
  refine ⟨u, sc', h, hp, hl, hs, ha, hd, ?_⟩
  unfold State.scanSeals
  split
  · exact .inl ⟨_, rfl⟩
  · exact .inr rfl

theorem scanTag_course (s : State) (sc : Scan) (b p : Nat) (d : Bool) : ScanCourse s sc (s.scanTag sc b p d) := by
  unfold State.scanTag
  dsimp only
  split
  · split
    · exact ⟨s, _, .refl s, rfl, rfl, rfl, fun _ => rfl, by exact id, .inl ⟨_, rfl⟩⟩
    · exact scanSeals_course s (s.resolved _) sc _ (.of_same rfl rfl rfl rfl rfl rfl rfl) rfl rfl rfl (fun _ => rfl)
        fun _ => scannedPackages_inOrder _
  · exact ⟨s, _, .refl s, rfl, rfl, rfl, fun _ => rfl, by exact id, .inl ⟨_, rfl⟩⟩

theorem graded_eq (s : State) (f : Flight) (errs : Nat) : ∃ ns b, s.graded f errs = { s with notices := ns, attn := b } := by
  unfold State.graded
  dsimp only
  split
  · exact ⟨s.notices, s.attn, rfl⟩
  · split
    · exact ⟨_, _, rfl⟩
    · exact ⟨_, _, rfl⟩

theorem scanSeal_course (s : State) (f : Flight) (sc : Scan) (errs : Nat) : ScanCourse s sc (s.scanSeal f sc errs) := by
  have hg := graded_keeps s f errs
  obtain ⟨ns, b, he⟩ := graded_eq s f errs
  unfold State.scanSeal
  dsimp only
  split
  · refine scanSeals_course s _ sc _ hg (by rw [he]) (by rw [he]) (by rw [he]) (by rw [he]; exact fun _ => rfl) fun h => ?_
    dsimp only
    split
    · exact h.map _ fun p => by split <;> rfl
    · exact h
  · exact scanSeals_course s _ sc _ hg (by rw [he]) (by rw [he]) (by rw [he]) (by rw [he]; exact fun _ => rfl) id

/-- The laws of the requests and of the shows. -/
structure ShowLaws (s t : State) : Prop where
  queue : s.QueueOk → t.QueueOk
  events : s.EventsWithin → t.EventsWithin
  playouts : s.PlayoutsOk → t.PlayoutsOk
  engines : s.EnginesOk → t.EnginesOk

theorem ShowLaws.trans {s s' s'' : State} (h : ShowLaws s s') (k : ShowLaws s' s'') : ShowLaws s s'' :=
  ⟨k.queue ∘ h.queue, k.events ∘ h.events, k.playouts ∘ h.playouts, k.engines ∘ h.engines⟩

theorem Keeps.shows {s t : State} (h : Keeps s t) : ShowLaws s t := ⟨h.queue, h.events, h.playouts, h.engines⟩

theorem programmed_shows (s : State) (b p : Nat) (ok : Bool) : ShowLaws s (s.programmed b p ok) := by
  obtain ⟨fl, bl, k, h⟩ := programmed_eq s b p ok
  rw [h]
  exact ⟨id, id, id, id⟩

theorem erased_shows (s : State) (b : Nat) (ok : Bool) : ShowLaws s (s.erased b ok) := by
  obtain ⟨fl, bl, k, h⟩ := erased_eq s b ok
  rw [h]
  exact ⟨id, id, id, id⟩

theorem ScanCourse.shows {s t : State} {sc : Scan} (h : ScanCourse s sc t) : ShowLaws s t := by
  obtain ⟨u, sc', hk, -, -, -, -, -, ⟨op, rfl⟩ | rfl⟩ := h
  · exact hk.shows.trans (.trans (s' := { u with scan := some sc' }) ⟨id, id, id, id⟩ (request_keeps_laws _ _).shows)
  · exact hk.shows.trans (.trans (s' := { u with scan := none, phase := .running, packages := sc'.dir }) ⟨id, id, id, id⟩ (raise_keeps _ _ _ _).shows)

theorem hardReset_laws (s : State) (b : Bool) : (s.hardReset b).EventsWithin ∧ (s.hardReset b).PlayoutsOk ∧ (s.hardReset b).EnginesOk :=
  laws_of_fresh (fun n => (s.cutOff.aud n).hardReset n.val) rfl (fun _ => rfl) (fun _ => rfl) fun _ => rfl

/-- The read of a track engine: its cues stay in order where the page delivered is the one it asked for. -/
theorem trackRead_shows {s : State} {f : Flight} {n : Aud} {k : TextTrack} {errs : Nat} (hf : s.flight = some f)
    (hw : f.req.who = .engine n k) :
    (s.QueueOk → (s.complete fun s => s.engineReadDone f n k errs).QueueOk)
      ∧ (s.EventsWithin → (s.complete fun s => s.engineReadDone f n k errs).EventsWithin)
      ∧ (s.PlayoutsOk → (s.complete fun s => s.engineReadDone f n k errs).PlayoutsOk)
      ∧ (s.DeliversItsPage → s.EnginesOk → (s.complete fun s => s.engineReadDone f n k errs).EnginesOk) := by
  have hstep := AudStep.of_engineStep (engineReadDone_engineStep s f n k errs)
  have hnext := startNext_keeps (s.engineReadDone f n k errs)
  exact ⟨hnext.queue ∘ hstep.queue, hnext.events ∘ hstep.events, hnext.playouts ∘ hstep.playouts,
    fun hd => hnext.engines ∘ engineReadDone_enginesOk s f n k errs hf hw hd⟩

theorem Course.queuesBounded {i : Instr} {s t : State} (h : Course i s t) : (s.EventsWithin → t.EventsWithin) ∧ (s.PlayoutsOk → t.PlayoutsOk)
    ∧ (s.EnginesOk → s.DeliversItsPage → t.EnginesOk) := by
  have of_shows (k : ShowLaws s t) : (s.EventsWithin → t.EventsWithin) ∧ (s.PlayoutsOk → t.PlayoutsOk)
      ∧ (s.EnginesOk → s.DeliversItsPage → t.EnginesOk) := ⟨k.events, k.playouts, fun h _ => k.engines h⟩
  cases h with
  | keeps h => exact of_shows h.shows
  | reset b _ h =>
    have hl := hardReset_laws s b
    rw [← h] at hl
    exact ⟨fun _ => hl.1, fun _ => hl.2.1, fun _ _ => hl.2.2⟩
  | programmed b p ok _ _ h => exact of_shows ((programmed_shows s b p ok).trans h.shows)
  | erased b ok _ _ h => exact of_shows ((erased_shows s b ok).trans h.shows)
  | trackRead f n k errs hf hw h =>
    subst h
    obtain ⟨-, he, hp, hn⟩ := trackRead_shows (errs := errs) hf hw
    exact ⟨he, hp, fun k d => hn d k⟩
  | scanTag sc b p d _ h => subst h; exact of_shows ((scanTag_course s sc b p d).shows.trans (startNext_keeps _).shows)
  | scanSeal f sc errs _ h => subst h; exact of_shows ((scanSeal_course s f sc errs).shows.trans (startNext_keeps _).shows)

/-- A step is a measure count, or the course of the instruction at the front of the queue. -/
theorem step_course {s t : State} (h : step s = .next t) : Keeps s t ∨ ∃ i rest, Course i (s.withPending rest) t := by
  unfold step at h
  split at h
  · exact .inr ⟨_, _, exec_course h⟩
  · exact .inl (Host.Outcome.next.inj h ▸ tick_keeps s)

/-- Settles O54: every step but a track engine's read keeps the laws of the queues outright, and that read keeps the order of the cues where the
page delivered is the page asked for. -/
theorem everyStepKeepsTheQueuesBounded : Obligations.EveryStepKeepsTheQueuesBounded := by
  unfold Obligations.EveryStepKeepsTheQueuesBounded
  have hstep (s t : State) (h : step s = .next t) : (s.EventsWithin → t.EventsWithin) ∧ (s.PlayoutsOk → t.PlayoutsOk)
      ∧ (s.EnginesOk → s.DeliversItsPage → t.EnginesOk) := by
    rcases step_course h with hk | ⟨i, rest, hc⟩
    · exact ⟨hk.events, hk.playouts, fun h _ => hk.engines h⟩
    · exact hc.queuesBounded
  exact ⟨fun s t h hs => (hstep s t hs).1 h, fun s t h hs => (hstep s t hs).2.1 h, fun s t h hd hs => (hstep s t hs).2.2 h hd⟩

end Sys2Proof.Machine

/-! ## The flash changes where the engine works (O10) -/

namespace Sys2Proof.Machine

/-! ### The completions of programs and erases -/

theorem exec_loadPageProgramDone {s : State} {b p id : Nat} (ok : Bool) (hp : s.hostProgram = some (b, p)) (ho : s.hostOp = some (.loadPage id)) :
    exec (.loadPageProgramDone ok) s = .next (s.complete fun s => s.loadProgramDone id b p ok) := by
  simp only [exec, execLoadPageProgramDone, hp, ho]

theorem exec_sealStepDone {s : State} {b p id k : Nat} {l : Load} (ok : Bool) (hp : s.hostProgram = some (b, p))
    (ho : s.hostOp = some (.sealing id k l)) :
    exec (.sealStepDone ok) s = .next (s.complete fun s => s.sealProgramDone id k l b p ok) := by
  simp only [exec, execSealStepDone, hp, ho]

theorem exec_amendProgramDone {s : State} {b p id cue block lg g : Nat} {t : TextTrack} {pl : Placement} {sp : Option Nat} {ls : List Line}
    {r : Bool} {c : Cue} (ok : Bool) (hp : s.hostProgram = some (b, p))
    (ho : s.hostOp = some (.amend id t cue pl sp ls block r (.program lg g c))) :
    exec (.amendProgramDone ok) s = .next (s.complete fun s => s.amendProgrammed id t cue pl sp ls b p r lg g c ok) := by
  simp only [exec, execAmendProgramDone, hp, ho]

theorem exec_retireTagProgramDone {s : State} {b p : Nat} {op : HostOp} (ok : Bool) (hp : s.hostProgram = some (b, p))
    (ho : s.hostOp = some op) (hr : op.retires = true) :
    exec (.retireTagProgramDone ok) s = .next (s.complete fun s => s.retireProgrammed b p op ok) := by
  simp only [exec, execRetireTagProgramDone, hp, ho, hr, if_true]

theorem exec_deleteEraseDone {s : State} {b id c k : Nat} {rest : List Nat} (ok : Bool) (he : s.hostErase = some b)
    (ho : s.hostOp = some (.delete id c rest k)) :
    exec (.deleteEraseDone ok) s = .next (s.complete fun s => s.deleteErased id b rest k ok) := by
  simp only [exec, execDeleteEraseDone, he, ho]

theorem exec_reclaimEraseDone {s : State} {b c j k : Nat} {rest : List Nat} (ok : Bool) (he : s.hostErase = some b)
    (ho : s.hostOp = some (.reclaim c rest j k)) :
    exec (.reclaimEraseDone ok) s = .next (s.complete fun s => s.reclaimErased b rest j k ok) := by
  simp only [exec, execReclaimEraseDone, he, ho]

theorem exec_retireEraseDone {s : State} {b id cue block : Nat} {t : TextTrack} {pl : Placement} {sp : Option Nat} {ls : List Line} {r : Bool}
    (ok : Bool) (he : s.hostErase = some b) (ho : s.hostOp = some (.amend id t cue pl sp ls block r .retire)) :
    exec (.retireEraseDone ok) s = .next (s.complete fun s => (s.erased b ok).retireTag b) := by
  simp only [exec, execRetireEraseDone, he, ho]

/-! ### What a program and an erase leave in the flash -/

theorem programmed_flash (s : State) (b p : Nat) {img : PageImage} (h : s.pageReg = some img) :
    (s.programmed b p true).flash = flashPut (pageAddr b p) (.programmed img.tag img.body) s.flash := by
  simp only [State.programmed, State.modBlock, h]

theorem programmed_flash_failed (s : State) (b p : Nat) :
    (s.programmed b p false).flash = flashPut (pageAddr b p) (failedCell s.pageReg s.free) s.flash := rfl

theorem programmed_flash_outside (s : State) (b p : Nat) (ok : Bool) {a : Nat} (h : a ≠ pageAddr b p) :
    flashGet (s.programmed b p ok).flash a = flashGet s.flash a := by
  unfold State.programmed
  simp only
  split
  · exact flashGet_put_other _ _ h
  · exact flashGet_put_other _ _ h

theorem erased_flash (s : State) (b : Nat) : (s.erased b true).flash = flashErase b s.flash := rfl

theorem erased_flash_outside (s : State) (b : Nat) (ok : Bool) {a : Nat} (h : a / 64 ≠ b) :
    flashGet (s.erased b ok).flash a = flashGet s.flash a := by
  cases ok
  · exact flashGet_tear_outside _ _ h
  · exact flashGet_erase_outside _ h

theorem ScanCourse.flash {s t : State} {sc : Scan} (h : ScanCourse s sc t) : t.flash = s.flash := by
  obtain ⟨u, sc', hk, -, -, -, -, -, ⟨op, rfl⟩ | rfl⟩ := h
  · exact (request_keeps_laws _ _).flash.trans hk.flash
  · exact hk.flash

/-- Outside the page and the block that the engine works on, a step that is no reset leaves the flash as it is (R25, R30). -/
theorem Course.flash_outside {i : Instr} {s t : State} (h : Course i s t) (hi : ∀ b, i ≠ .powerOnReset b ∧ i ≠ .lineReset b) {a : Nat}
    (hp : ∀ block page, s.hostProgram = some (block, page) → a ≠ pageAddr block page)
    (he : ∀ block, s.hostErase = some block → a / 64 ≠ block) : flashGet t.flash a = flashGet s.flash a := by
  cases h with
  | keeps h => rw [h.flash]
  | reset b hb _ => exact absurd hb (not_or.mpr (hi b))
  | programmed b p ok hf _ h => rw [h.flash, programmed_flash_outside s b p ok (hp b p hf)]
  | erased b ok hf _ h => rw [h.flash, erased_flash_outside s b ok (he b hf)]
  | trackRead f n k errs _ _ h =>
    rw [h, State.complete, (startNext_rest _).1, (engineReadDone_engineStep s f n k errs).only.flash]
  | scanTag sc b p d _ h => rw [h, State.complete, (startNext_rest _).1, (scanTag_course s sc b p d).flash]
  | scanSeal f sc errs _ h => rw [h, State.complete, (startNext_rest _).1, (scanSeal_course s f sc errs).flash]

/-- After a completion that goes on from a program, the flash is as the program left it. -/
theorem flash_of_programmed {i : Instr} {s t : State} {b p : Nat} {ok : Bool} {hand : State → State} (h : exec i s = .next t)
    (he : exec i s = .next (s.complete hand)) (hk : Keeps (s.programmed b p ok) (hand s)) : t.flash = (s.programmed b p ok).flash := by
  rw [he] at h
  rw [← Host.Outcome.next.inj h]
  exact (complete_keeps s hand hk).flash

theorem flash_of_erased {i : Instr} {s t : State} {b : Nat} {ok : Bool} {hand : State → State} (h : exec i s = .next t)
    (he : exec i s = .next (s.complete hand)) (hk : Keeps (s.erased b ok) (hand s)) : t.flash = (s.erased b ok).flash := by
  rw [he] at h
  rw [← Host.Outcome.next.inj h]
  exact (complete_keeps s hand hk).flash

/-- Settles O10: by the course of a step, and by the page that each completion leaves. -/
theorem flashChangesWhereTheEngineWorks : Obligations.FlashChangesWhereTheEngineWorks := by
  unfold Obligations.FlashChangesWhereTheEngineWorks
  intro i s t h hi
  refine ⟨fun a hp he => (exec_course h).flash_outside hi hp he, fun block page op img hp ho himg hlt => ⟨fun hcase => ?_, ?_⟩,
    fun block op he ho hcase a ha => ?_⟩
  · have hflash : t.flash = (s.programmed block page true).flash := by
      rcases hcase with ⟨id, rfl, rfl⟩ | ⟨id, k, l, rfl, rfl⟩ | ⟨id, tr, cue, pl, sp, ls, b, r, l, g, c, rfl, rfl⟩ | ⟨rfl, hr⟩
      · exact flash_of_programmed h (exec_loadPageProgramDone _ hp ho) (loadProgramDone_keeps ..)
      · exact flash_of_programmed h (exec_sealStepDone _ hp ho) (sealProgramDone_keeps ..)
      · exact flash_of_programmed h (exec_amendProgramDone _ hp ho) (amendProgrammed_keeps ..)
      · exact flash_of_programmed h (exec_retireTagProgramDone _ hp ho hr) (retireProgrammed_keeps ..)
    rw [hflash, programmed_flash s block page himg, flashGet_put_self _ _ hlt]
  · rintro rfl hr hrole damaged
    have hflash := flash_of_programmed h (exec_retireTagProgramDone _ hp ho hr) (retireProgrammed_keeps ..)
    have hcell : failedCell s.pageReg s.free = .unrecognised s.free := by simp [failedCell, himg, hrole]
    refine readTag_unrecognised _ _ s.free damaged ?_
    rw [hflash, programmed_flash_failed, hcell, flashGet_put_self _ _ hlt]
  · have hflash : t.flash = (s.erased block true).flash := by
      rcases hcase with ⟨id, b, rest, n, rfl, rfl⟩ | ⟨b, rest, k, n, rfl, rfl⟩ | ⟨id, tr, cue, pl, sp, ls, b, r, rfl, rfl⟩
      · exact flash_of_erased h (exec_deleteEraseDone _ he ho) (deleteErased_keeps ..)
      · exact flash_of_erased h (exec_reclaimEraseDone _ he ho) (reclaimErased_keeps ..)
      · exact flash_of_erased h (exec_retireEraseDone _ he ho) (retireTag_keeps _ _)
    rw [hflash, erased_flash, flashGet_erase_inside _ ha]

end Sys2Proof.Machine

/-! ## The laws of the store and of STARTING (O52) -/

namespace Sys2Proof.Machine

/-! ### What the part keeps while no show is bound -/

/-- Every show is VACANT. -/
def State.AllVacant (s : State) : Prop := ∀ n, (s.aud n).ctx.st = .vacant

/-- The directory, the load, the slot and the show states are as they were. -/
structure StaysIdle (s t : State) : Prop where
  packages : t.packages = s.packages
  load : t.load = s.load
  slot : t.slot = s.slot
  st : ∀ n, (t.aud n).ctx.st = (s.aud n).ctx.st

/-- A step that keeps them where no show is bound. -/
def IdleStep (s t : State) : Prop := s.AllVacant → StaysIdle s t

namespace IdleStep

variable {s s' s'' : State}

theorem refl (s : State) : IdleStep s s := fun _ => ⟨rfl, rfl, rfl, fun _ => rfl⟩

theorem trans (h : IdleStep s s') (k : IdleStep s' s'') : IdleStep s s'' := fun v => by
  have h1 := h v
  have h2 := k fun n => (h1.st n).trans (v n)
  exact ⟨h2.packages.trans h1.packages, h2.load.trans h1.load, h2.slot.trans h1.slot, fun n => (h2.st n).trans (h1.st n)⟩

theorem of_same (packages : s'.packages = s.packages) (load : s'.load = s.load) (slot : s'.slot = s.slot) (auds : s'.auds = s.auds) :
    IdleStep s s' := fun _ => ⟨packages, load, slot, fun n => by simp only [State.aud, auds]⟩

theorem of_only {n : Aud} (h : OnlyAud n s s') (st : (s'.aud n).ctx.st = (s.aud n).ctx.st) : IdleStep s s' := fun _ =>
  ⟨h.packages, h.load, h.slot, fun m => by
    by_cases hm : m = n
    · rw [hm, st]
    · rw [h.auds m hm]⟩

theorem of_engineStep {n : Aud} {t : TextTrack} (h : EngineStep n t s s') : IdleStep s s' := .of_only h.only (by rw [h.ctx])

/-- What happens only in a bound show does not happen here. -/
theorem of_bound {n : Aud} (h : (s.aud n).ctx.st ≠ .vacant) : IdleStep s s' := fun v => absurd (v n) h

theorem ite {a b : State} (c : Prop) [Decidable c] (ha : c → IdleStep s a) (hb : ¬ c → IdleStep s b) : IdleStep s (if c then a else b) := by
  split
  · exact ha ‹_›
  · exact hb ‹_›

theorem ite_fst {α : Type} {a b : State × α} (c : Prop) [Decidable c] (ha : c → IdleStep s a.1) (hb : ¬ c → IdleStep s b.1) :
    IdleStep s (if c then a else b).1 := by
  split
  · exact ha ‹_›
  · exact hb ‹_›

theorem foldl {α : Type} (f : State → α → State) (h : ∀ s a, IdleStep s (f s a)) (l : List α) : ∀ s, IdleStep s (l.foldl f s) := by
  induction l with
  | nil => exact .refl
  | cons a as ih => exact fun s => (h s a).trans (ih _)

theorem when_ (s : State) (c : Bool) (f : State → State) (h : ∀ s, IdleStep s (f s)) : IdleStep s (s.when_ c f) :=
  ite _ (fun _ => h s) fun _ => refl s

theorem raise (s : State) (src : Source) (k : NoticeKind) (x : List Byte) : IdleStep s (s.raise src k x) := .of_same rfl rfl rfl rfl

theorem modInput (s : State) (n : Aud) (f : InputUnit → InputUnit) : IdleStep s (s.modInput n f) := .of_only (modInput_only s n f) (by simp)

theorem modAir (s : State) (n : Aud) (f : AirSched → AirSched) : IdleStep s (s.modAir n f) := .of_only (modAir_only s n f) (by simp)

theorem modEmit (s : State) (n : Aud) (f : Emitter → Emitter) : IdleStep s (s.modEmit n f) := .of_only (modEmit_only s n f) (by simp)

theorem submit (s : State) (n : Aud) (ev : Event) : IdleStep s (s.submit n ev) := .of_engineStep (submit_quietStep s n 0 ev).toEngineStep

theorem restoreAll (s : State) (n : Aud) : IdleStep s (s.restoreAll n) := .of_engineStep (restoreAll_quietStep s n 0).toEngineStep

end IdleStep

theorem ShowState.running_ne_vacant {st : ShowState} (h : st.running = true) : st ≠ .vacant := (live_of_running h).1

theorem ShowState.framed_ne_vacant {st : ShowState} (h : st.framed = true) : st ≠ .vacant := by rintro rfl; cases h

theorem finishTest_idle (s : State) (n : Aud) : IdleStep s (s.finishTest n) :=
  .ite _ (fun h => .of_bound (ShowState.running_ne_vacant h.1)) fun _ => .refl s

theorem adopt_idle (s : State) (n : Aud) : IdleStep s (s.adopt n) := .of_only (adopt_only s n) (by simp [State.adopt])

theorem candidate_idle (s : State) (n : Aud) : IdleStep s (s.candidate n) := by
  unfold State.candidate
  refine .trans (.modInput s n fun u => { u with candidates := wrap16 (u.candidates + 1) }) ?_
  exact .ite _ (fun _ => .refl _) fun h => .of_bound h

theorem missDeadline_idle (s : State) (n : Aud) : IdleStep s (s.missDeadline n) := by
  unfold State.missDeadline
  refine .ite _ (fun _ => .refl s) fun _ => .trans (.trans (.modInput s n fun u => { u with e := u.deadline }) fun v => ?_) (adopt_idle _ n)
  unfold State.answerDeadline
  dsimp only
  rw [v n]
  exact IdleStep.modInput _ n _ v

theorem risingEdge_idle (s : State) (n : Aud) : IdleStep s (s.risingEdge n) := by
  unfold State.risingEdge
  refine .trans (.modInput s n fun u => { u with fp := true }) ?_
  exact .ite _ (fun _ => .ite _ (fun _ => .trans (.modInput _ n _) (candidate_idle _ n)) fun _ => .modInput _ n _) fun _ => .refl _

theorem qualify_idle (s : State) (n : Aud) : IdleStep s (s.qualify n) :=
  .ite _ (fun _ => .trans (.modInput s n _) (candidate_idle _ n)) fun _ => .refl s

theorem modLine_idle (s : State) (l : ContactLine) (f : Debouncer → Debouncer) : IdleStep s (s.modLine l f) := by
  unfold State.modLine
  split
  · exact .modInput s _ _
  · exact .modInput s _ _
  · exact .of_same rfl rfl rfl rfl

theorem settle_idle (s : State) (l : ContactLine) : IdleStep s (s.settle l) := by
  unfold State.settle
  refine (modLine_idle s l .settle).trans ?_
  unfold State.regateLine State.regate
  split
  · exact .modInput _ _ _
  · exact .modInput _ _ _
  · exact .foldl _ (fun s n => .modInput s n _) _ _

/-! ### Air and emitters while no show is bound -/

theorem endAnnouncement_idle (s : State) (n : Aud) : IdleStep s (s.endAnnouncement n) := .trans (.modAir s n _) (.submit _ n _)

theorem ageAnnouncement_idle (s : State) (n : Aud) : IdleStep s (s.ageAnnouncement n) := by
  unfold State.ageAnnouncement
  split
  · exact .ite _ (fun _ => endAnnouncement_idle s n) fun _ => .modAir s n _
  · exact .refl s

theorem claimAnnouncement_idle (s : State) (n : Aud) (b : Build) : IdleStep s (s.claimAnnouncement n b).1 := by
  unfold State.claimAnnouncement
  split
  · split
    · split
      · dsimp only; exact .modAir s n _
      · exact .refl s
    · dsimp only; exact .modAir s n _
  · exact .refl s

theorem packPending_idle (s : State) (n : Aud) (g : Gate) (b : Build) : IdleStep s (s.packPending n g b).1 := by
  unfold State.packPending
  dsimp only
  exact .modAir s n _

theorem runCarousel_idle (s : State) (n : Aud) (b : Build) : IdleStep s (s.runCarousel n b).1 := by
  unfold State.runCarousel
  dsimp only
  split
  · dsimp only; exact .modAir s n _
  · exact .refl s

theorem closeFrame_idle (s : State) (n : Aud) (g : Gate) (p : Nat) (b : Build) : IdleStep s (s.closeFrame n g p b).1 := by
  unfold State.closeFrame
  dsimp only
  exact .modAir s n _

theorem buildFrame_idle (s : State) (n : Aud) (k : FrameKind) : IdleStep s (s.buildFrame n k).1 := by
  intro v
  unfold State.buildFrame
  extract_lets sp s1 p gate opening s2 b sb3 s3 running withhold s4 s5 sb6 sb7 sb8
  have h3 : IdleStep s s3 := .trans (.trans (finishTest_idle s n) (.modAir _ n _)) (.ite_fst _ (fun _ => claimAnnouncement_idle _ n _) fun _ => .refl _)
  -- no show runs, so the release check and the sound service are passed by
  have hrun : running = false := by
    have hst : (s3.aud n).ctx.st = .vacant := ((h3 v).st n).trans (v n)
    simp [running, hst, ShowState.running]
  have h4 : s4 = s3 := by simp [s4, hrun]
  have h6 : sb6.1 = s5 := by simp [sb6, hrun]
  have h5 : IdleStep s s5 := h3.trans (h4 ▸ .ite _ (fun _ => .restoreAll _ n) fun _ => .refl _)
  have h7 : IdleStep sb6.1 sb7.1 := .ite_fst _ (fun _ => by dsimp only; exact .modAir _ n _) fun _ => packPending_idle _ n _ _
  have h8 : IdleStep sb7.1 sb8.1 := .ite_fst _ (fun _ => runCarousel_idle _ n _) fun _ => .refl _
  exact ((h5.trans (h6 ▸ h7)).trans h8).trans (closeFrame_idle _ n _ _ _) v

theorem noteDropped_idle (s : State) (n : Aud) (q : Nat) : IdleStep s (s.noteDropped n q) := .raise _ _ _ _

theorem overcurrent_idle (s : State) (n : Aud) : IdleStep s (s.overcurrent n) := by
  unfold State.overcurrent
  split
  · unfold State.cutByFault
    refine .trans ?_ (.ite _ (fun _ => .modEmit _ n _) fun _ => .trans (.modEmit _ n _) (.raise _ _ _ _))
    exact .trans (.trans (.modEmit s n _) (.raise _ _ _ _)) (noteDropped_idle _ n _)
  · exact .refl s

theorem dropFrame_idle (s : State) (n : Aud) (q : Nat) (b : Bool) : IdleStep s (s.dropFrame n q b) :=
  .trans (.modEmit s n _) (.ite _ (fun _ => noteDropped_idle _ n q) fun _ => .refl _)

theorem sendFrame_idle (s : State) (n : Aud) (f : AirFrame) (r : BitRate) : IdleStep s (s.sendFrame n f r) :=
  .trans (.modEmit s n _) (.ite _ (fun _ => overcurrent_idle _ n) fun _ => .refl _)

theorem handOver_idle (s : State) (n : Aud) (f : Option AirFrame) (r : BitRate) : IdleStep s (s.handOver n f r) := by
  unfold State.handOver
  refine .trans (.modEmit s n fun u => { u with demand := f.isSome }) ?_
  dsimp only
  split
  · have hsend (c : Prop) [Decidable c] (s : State) (f : AirFrame) : IdleStep s (if c then s.dropFrame n f.sequence true else s.sendFrame n f r) :=
      .ite c (fun _ => dropFrame_idle s n _ _) fun _ => sendFrame_idle s n f r
    split
    · exact hsend _ _ _
    · exact hsend _ _ _
    · exact dropFrame_idle _ n _ _
    · exact dropFrame_idle _ n _ _
    · exact dropFrame_idle _ n _ _
  · exact .ite _ (fun _ => .modEmit _ n _) fun _ => .refl _

theorem endCooling_idle (s : State) (n : Aud) : IdleStep s (s.endCooling n) := by
  unfold State.endCooling
  refine .ite _ (fun _ => .trans (.modEmit s n _) (.ite _ (fun _ => ?_) fun _ => .refl _)) fun _ => .refl s
  exact .ite _ (fun _ => .restoreAll _ n) fun _ => .refl _

theorem endTransmission_idle (s : State) (n : Aud) : IdleStep s (s.endTransmission n) := by
  unfold State.endTransmission
  split
  · exact .modEmit s n _
  · exact .refl s

theorem adoptAir_idle (s : State) (n : Aud) : IdleStep s (s.adoptAir n) := .of_only (modAud_only s n _) (by simp [State.adoptAir])

theorem expire_idle (s : State) (n : Aud) : IdleStep s (s.expire n) := by
  have hpre : IdleStep s (((s.modAir n fun a => { a with timer := cycleCounts }).adoptAir n).ageAnnouncement n) :=
    .trans (.trans (.modAir s n _) (adoptAir_idle _ n)) (ageAnnouncement_idle _ n)
  unfold State.expire
  refine hpre.trans ?_
  dsimp only
  split
  · exact .trans (.trans (buildFrame_idle _ n _) (.modAir _ n _)) (handOver_idle _ n _ _)
  · exact .trans (.modAir _ n _) (handOver_idle _ n _ _)

theorem dueOf_idle (s : State) (n : Aud) : IdleStep s (s.dueOf n) := by
  unfold State.dueOf
  refine .trans ?_ (.when_ _ _ _ fun s => expire_idle s n)
  refine .trans ?_ (.when_ _ _ _ fun s => endCooling_idle s n)
  refine .trans ?_ (.when_ _ _ _ fun s => missDeadline_idle s n)
  refine .trans ?_ (.when_ _ _ _ fun s => settle_idle s _)
  refine .trans ?_ (.when_ _ _ _ fun s => settle_idle s _)
  refine .trans ?_ (.when_ _ _ _ fun s => qualify_idle s n)
  exact .when_ _ _ _ fun s => endTransmission_idle s n

/-! ### Every step in STARTING -/

/-- No package entry, no load, no host operation and no bound show (R164). -/
def State.Idle (s : State) : Prop := s.packages = [] ∧ s.load = none ∧ s.slot = none ∧ s.AllVacant

theorem IdleStep.idle {s t : State} (h : IdleStep s t) (k : s.Idle) : t.Idle := by
  obtain ⟨hp, hl, hs, hv⟩ := k
  have ht := h hv
  exact ⟨ht.packages.trans hp, ht.load.trans hl, ht.slot.trans hs, fun n => (ht.st n).trans (hv n)⟩

theorem startTx_idle (s : State) (src : TxSource) : IdleStep s (s.startTx src) := by
  unfold State.startTx
  split <;> exact .of_same rfl rfl rfl rfl

theorem ready_idle (s : State) (r : Reply) : IdleStep s (s.ready r) :=
  .trans (s' := { s with replyBuf := .ready r }) (.of_same rfl rfl rfl rfl) (startTx_idle _ _)

theorem refuse_idle (s : State) (r : Reply) : IdleStep s (s.refuse r) := by
  unfold State.refuse
  split
  · exact .refl s
  · exact .trans (s' := { s with refusal := some r }) (.of_same rfl rfl rfl rfl) (startTx_idle _ _)

theorem frameError_idle (s : State) : IdleStep s s.frameError :=
  .trans (s' := { s with framer := .hunting }) (.of_same rfl rfl rfl rfl) (refuse_idle _ _)

theorem answer_idle (kind tag : Byte) (s : State) (d : Done) (h : d.1 = s) : IdleStep s (State.answer kind tag d) := by
  unfold State.answer
  rw [h]
  split
  · exact ready_idle _ _
  · exact .of_same rfl rfl rfl rfl

/-- In STARTING a command acts only where it is one that reports (R162 d, R164). -/
theorem take_idle {s : State} (hp : s.phase = .starting) (kind tag : Byte) (inStarting : Bool) (action : Option (State → Done))
    (h : inStarting = true → ∀ act, action = some act → ∀ s, (act s).1 = s) : IdleStep s (s.take kind tag inStarting action) := by
  unfold State.take
  refine .trans (s' := { s with framer := .hunting }) (.of_same rfl rfl rfl rfl) ?_
  refine .ite _ (fun _ => refuse_idle _ _) fun _ => .ite _ (fun _ => answer_idle _ _ _ _ rfl) fun hn => ?_
  split
  · exact answer_idle _ _ _ _ (h (by simpa [hp] using hn) _ rfl _)
  · exact answer_idle _ _ _ _ rfl

theorem next_idle {s t : State} {kind tag : Byte} {o : Option (State → Done)} (hp : s.phase = .starting)
    (h : (Host.Outcome.next (s.take kind tag false o) : Host.Outcome State Fault Refusal) = .next t) : IdleStep s t := by
  cases h
  exact take_idle hp kind tag false o nofun

theorem report_idle {s t : State} {kind tag : Byte} {o : Option (State → Done)} (hp : s.phase = .starting)
    (h : (Host.Outcome.next (s.take kind tag true o) : Host.Outcome State Fault Refusal) = .next t)
    (ho : ∀ act, o = some act → ∀ s, (act s).1 = s) : IdleStep s t := by
  cases h
  exact take_idle hp kind tag true o fun _ => ho

theorem execKind_idle {kind tag : Byte} {body : List Byte} {s t : State} (hp : s.phase = .starting)
    (h : execKind kind tag body s = .next t) : IdleStep s t := by
  have done_fst (f : State → List Byte) (act : State → Done) (e : some (fun s => done s .ok (f s)) = some act) (s : State) : (act s).1 = s := by
    cases e
    rfl
  unfold execKind at h
  split at h
  case h_1 =>
    refine report_idle hp h fun act e => ?_
    split at e
    · exact done_fst _ act e
    · cases e
  case h_2 =>
    refine report_idle hp h fun act e => ?_
    split at e
    · exact done_fst _ act e
    · cases e
  case h_31 =>
    cases h
    exact .trans (s' := { s with framer := .hunting }) (.of_same rfl rfl rfl rfl) (refuse_idle _ _)
  all_goals exact next_idle hp h

theorem execFrame_idle {bytes : List Byte} {s t : State} (hp : s.phase = .starting) (h : execFrame bytes s = .next t) : IdleStep s t := by
  unfold execFrame at h
  split at h
  · exact execKind_idle hp h
  · cases h
    exact frameError_idle s

theorem collect_idle (s : State) (n : Nat) : IdleStep s (s.collect n) := by
  unfold State.collect
  split <;> exact .of_same rfl rfl rfl rfl

theorem replySent_idle (s : State) : IdleStep s s.replySent := by
  unfold State.replySent
  split
  · dsimp only
    split
    · exact .trans (s' := { s with refusal := none, uartTx := none }) (.of_same rfl rfl rfl rfl) (startTx_idle _ _)
    · exact .of_same rfl rfl rfl rfl
  · dsimp only
    split
    · exact .trans (s' := { s with replyBuf := .empty, uartTx := none }) (.of_same rfl rfl rfl rfl) (startTx_idle _ _)
    · exact .of_same rfl rfl rfl rfl
  · exact .refl s

theorem readLinkStatus_idle {s t : State} {code : Byte} {sent : List Byte} (hp : s.phase = .starting)
    (h : execReadLinkStatus code s sent = .next t) : IdleStep s t := by
  have hout (out : List Byte) : IdleStep s (s.clockOut out) := .of_same rfl rfl rfl rfl
  unfold execReadLinkStatus State.transfer at h
  split at h
  · dsimp only at h
    split at h
    · exact (hout _).trans (execFrame_idle (by exact hp) h)
    · cases h; exact collect_idle s _
    · cases h; exact hout _
    · cases h; exact hout _
  · cases h; exact .refl s

theorem uartByte_idle {s t : State} {b : Byte} {ok : Bool} (hp : s.phase = .starting) (h : execUartSyncByteReceived s b ok = .next t) :
    IdleStep s t := by
  have hframer (x : Framer) : IdleStep s { s with framer := x } := .of_same rfl rfl rfl rfl
  unfold execUartSyncByteReceived State.byteReceived State.frameByte at h
  split at h
  · split at h
    · cases h; exact .ite _ (fun _ => hframer _) fun _ => .refl s
    · split at h
      · cases h; exact frameError_idle s
      · split at h
        · exact execFrame_idle hp h
        · cases h; exact hframer _
  · cases h; exact .refl s
  · cases h; exact .refl s

theorem count_idle (s : State) : IdleStep s s.count := fun _ => ⟨rfl, rfl, rfl, fun n => by
  have haud : s.count.aud n = (s.aud n).count :=
    show (s.auds.map Auditorium.count)[n.val] = (s.auds[n.val]).count from Vector.getElem_map ..
  rw [haud]
  rfl⟩

theorem tick_idle (s : State) : IdleStep s s.tick := by
  unfold State.tick
  refine .trans ?_ (.foldl _ (fun s n => dueOf_idle s n) _ _)
  exact .trans (.trans (count_idle s) (.when_ _ _ _ frameError_idle)) (.when_ _ _ _ fun s => settle_idle s _)

/-! ### The store engine in STARTING -/

theorem start_idle (s : State) (r : Request) : IdleStep s (s.start r) := by
  unfold State.start
  split
  · exact .trans (s' := { s with flight := some { req := r, addr := s.resolve r.op } }) (.of_same rfl rfl rfl rfl)
      (.of_only (modEng_only _ _ _ _) (by simp))
  · exact .of_same rfl rfl rfl rfl

theorem withdraw_idle (s : State) (w : Requester) : IdleStep s (s.withdraw w) := .of_same rfl rfl rfl rfl

theorem request_idle (s : State) (r : Request) : IdleStep s (s.request r) := by
  unfold State.request
  refine (withdraw_idle s r.who).trans ?_
  dsimp only
  split
  · exact start_idle _ r
  · exact .of_same rfl rfl rfl rfl

theorem startNext_idle (s : State) : IdleStep s s.startNext := by
  unfold State.startNext
  refine .trans (s' := { s with flight := none }) (.of_same rfl rfl rfl rfl) ?_
  dsimp only
  split
  · exact (withdraw_idle _ _).trans (start_idle _ _)
  · exact .refl _

theorem graded_idle (s : State) (f : Flight) (errs : Nat) : IdleStep s (s.graded f errs) := by
  obtain ⟨ns, b, h⟩ := graded_eq s f errs
  rw [h]
  exact .of_same rfl rfl rfl rfl

theorem bindReadDone_idle (s : State) (f : Flight) (n : Aud) (errs : Nat) : IdleStep s (s.bindReadDone f n errs) := by
  unfold State.bindReadDone
  refine (graded_idle s f errs).trans ?_
  have hb {s : State} {c : Prop} (h : (s.aud n).ctx.st = .binding ∧ c) : (s.aud n).ctx.st ≠ .vacant := by rw [h.1]; simp
  exact .ite _ (fun h => .of_bound (hb h)) fun _ => .ite _ (fun h => .of_bound (hb h)) fun _ => .refl _

theorem trackReadDone_idle (s : State) (k : ReadKind) (errs : Nat) : IdleStep s (s.trackReadDone k errs) := by
  unfold State.trackReadDone
  split
  · split
    · exact .ite _ (fun _ => .trans (.of_engineStep (engineReadDone_engineStep s _ _ _ errs)) (startNext_idle _)) fun _ => .refl s
    · exact .refl s
  · exact .refl s

/-- A step of the scan leaves the part idle as long as it is STARTING. -/
theorem ScanCourse.idle {s t : State} {sc : Scan} (h : ScanCourse s sc t) (k : s.Idle) : t.phase = .starting → t.Idle := by
  obtain ⟨u, sc', -, hp, hl, hs, ha, -, ⟨op, rfl⟩ | rfl⟩ := h
  · refine fun _ => (request_idle _ _).idle ?_
    obtain ⟨h1, h2, h3, h4⟩ := k
    exact ⟨hp.trans h1, hl.trans h2, hs.trans h3, fun n => (congrArg (fun a => a.ctx.st) (ha n)).trans (h4 n)⟩
  · exact fun hst => nomatch hst

theorem complete_idle {s : State} {hand : State → State} (h : (hand s).phase = .starting → (hand s).Idle) :
    (s.complete hand).phase = .starting → (s.complete hand).Idle := fun hp =>
  (startNext_idle _).idle (h ((startNext_rest _).2.1 ▸ hp))

theorem hardReset_idle (s : State) (b : Bool) : (s.hardReset b).Idle := by
  refine ⟨rfl, rfl, rfl, fun n => ?_⟩
  have haud : (s.hardReset b).aud n = (s.cutOff.aud n).hardReset n.val := by
    show (Vector.ofFn fun n => (s.cutOff.aud n).hardReset n.val)[n.val] = _
    simp
  rw [haud]
  rfl

/-- In STARTING no step makes an entry, a load, a host operation or a bound show (R164). -/
theorem exec_idle {i : Instr} {s t : State} (hp : s.phase = .starting) (hi : s.Idle) (h : exec i s = .next t) :
    t.phase = .starting → t.Idle := by
  have kind (k tag : Byte) (body : List Byte) (h : execKind k tag body s = .next t) : t.phase = .starting → t.Idle :=
    fun _ => (execKind_idle hp h).idle hi
  have hop : s.hostOp = none := by rw [State.hostOp, hi.2.2.1]; rfl
  have same (h : s = t) : t.phase = .starting → t.Idle := fun _ => h ▸ hi
  cases i with
  | powerOnReset b => cases h; exact fun _ => hardReset_idle s b
  | lineReset b => cases h; exact fun _ => hardReset_idle s b
  | partReset tag body => exact kind 0x05 tag body h
  | partInfo tag body => exact kind 0x01 tag body h
  | linkStatus tag body => exact kind 0x02 tag body h
  | takeNotices tag body => exact kind 0x03 tag body h
  | noticeSet tag body => exact kind 0x04 tag body h
  | packageOpen tag body => exact kind 0x10 tag body h
  | cueAppend tag body => exact kind 0x11 tag body h
  | packageSeal tag body => exact kind 0x12 tag body h
  | packageDelete tag body => exact kind 0x13 tag body h
  | packageProtect tag body => exact kind 0x14 tag body h
  | packageInfo tag body => exact kind 0x15 tag body h
  | packageList tag body => exact kind 0x16 tag body h
  | cueAmend tag body => exact kind 0x17 tag body h
  | cueRead tag body => exact kind 0x18 tag body h
  | storeInfo tag body => exact kind 0x20 tag body h
  | storeReclaim tag body => exact kind 0x21 tag body h
  | gateSet tag body => exact kind 0x30 tag body h
  | timingSet tag body => exact kind 0x31 tag body h
  | showBind tag body => exact kind 0x32 tag body h
  | showUnbind tag body => exact kind 0x33 tag body h
  | showStart tag body => exact kind 0x34 tag body h
  | positionReport tag body => exact kind 0x35 tag body h
  | trackSet tag body => exact kind 0x36 tag body h
  | showStatus tag body => exact kind 0x37 tag body h
  | soundBlock tag body => exact kind 0x40 tag body h
  | soundFlush tag body => exact kind 0x41 tag body h
  | airSet tag body => exact kind 0x50 tag body h
  | announce tag body => exact kind 0x51 tag body h
  | announceCancel tag body => exact kind 0x52 tag body h
  | emitterSet tag body => exact kind 0x60 tag body h
  | frameError => cases h; exact fun _ => (frameError_idle s).idle hi
  | unknownKind k tag =>
    cases h
    exact fun _ => (IdleStep.trans (s' := { s with framer := .hunting }) (.of_same rfl rfl rfl rfl) (refuse_idle _ _)).idle hi
  | collectReply n =>
    cases h
    exact fun _ => IdleStep.idle (by split; exacts [collect_idle s n, .refl s]) hi
  | readLinkStatus code sent => exact fun _ => (readLinkStatus_idle hp h).idle hi
  | uartFrameTimeout =>
    cases h
    exact fun _ => IdleStep.idle (by split; exacts [frameError_idle s, .refl s]) hi
  | replySent => cases h; exact fun _ => (replySent_idle s).idle hi
  | uartSyncByteReceived b ok => exact fun _ => (uartByte_idle hp h).idle hi
  | fetchReadDone errs => cases h; exact fun _ => (trackReadDone_idle s _ errs).idle hi
  | seekReadDone errs => cases h; exact fun _ => (trackReadDone_idle s _ errs).idle hi
  | bindIndexReadDone errs =>
    cases h
    refine fun _ => IdleStep.idle ?_ hi
    split
    · split
      · exact .trans (bindReadDone_idle s _ _ _) (startNext_idle _)
      · exact .refl s
    · exact .refl s
  | cueReadStepDone errs => exact same (by simpa [exec, execCueReadStepDone, hop] using h)
  | amendReadDone errs => exact same (by simpa [exec, execAmendReadDone, hop] using h)
  | loadPageProgramDone ok => exact same (by simpa [exec, execLoadPageProgramDone, hop] using h)
  | sealStepDone ok => exact same (by simpa [exec, execSealStepDone, hop] using h)
  | amendProgramDone ok => exact same (by simpa [exec, execAmendProgramDone, hop] using h)
  | retireTagProgramDone ok => exact same (by simpa [exec, execRetireTagProgramDone, hop] using h)
  | deleteEraseDone ok => exact same (by simpa [exec, execDeleteEraseDone, hop] using h)
  | reclaimEraseDone ok => exact same (by simpa [exec, execReclaimEraseDone, hop] using h)
  | retireEraseDone ok => exact same (by simpa [exec, execRetireEraseDone, hop] using h)
  | scanTagReadDone d =>
    cases h
    split
    · split
      · exact complete_idle ((scanTag_course s _ _ _ d).idle hi)
      · exact fun _ => hi
    · exact fun _ => hi
  | scanSealReadDone errs =>
    cases h
    split
    · split
      · exact complete_idle ((scanSeal_course s _ _ errs).idle hi)
      · exact fun _ => hi
    · exact fun _ => hi
  | swiInactive after =>
    cases h
    obtain ⟨h1, h2, h3, h4⟩ := hi
    have hs : s.swiReleased = { s with swi := false } := by simp [State.swiReleased, h3]
    rw [hs]
    exact fun _ => ⟨h1, h2, h3, h4⟩
  | framePulseRisingEdge n => cases h; exact fun _ => (risingEdge_idle s n).idle hi
  | framePulseFallingEdge n => cases h; exact fun _ => (IdleStep.modInput s n _).idle hi
  | qualifyingCountReached n => cases h; exact fun _ => (qualify_idle s n).idle hi
  | missingPulseDeadline n => cases h; exact fun _ => (missDeadline_idle s n).idle hi
  | contactLevelChange l b => cases h; exact fun _ => (modLine_idle s l _).idle hi
  | debounceSettled l => cases h; exact fun _ => (settle_idle s l).idle hi
  | cycleExpiry n => cases h; exact fun _ => (expire_idle s n).idle hi
  | transmissionEnd n => cases h; exact fun _ => (endTransmission_idle s n).idle hi
  | overcurrentFault n after => cases h; exact fun _ => (IdleStep.trans (overcurrent_idle s n) (.modEmit _ n _)).idle hi
  | coolingEnd n => cases h; exact fun _ => (endCooling_idle s n).idle hi

/-! ### The laws of the store, step by step -/

theorem Course.flashOk {i : Instr} {s t : State} (h : Course i s t) (k : s.FlashOk) : t.FlashOk := by
  have same {u : State} (e : u.flash = s.flash) : u.FlashOk := by rw [State.FlashOk, e]; exact k
  cases h with
  | keeps h => exact same h.flash
  | reset b _ h => rw [h]; exact cutOff_flashOk s k
  | programmed b p ok _ _ h => rw [State.FlashOk, h.flash]; exact programmed_flashOk s b p ok k
  | erased b ok _ _ h => rw [State.FlashOk, h.flash]; exact erased_flashOk s b ok k
  | trackRead f n k errs _ _ h =>
    exact same (by rw [h, State.complete, (startNext_rest _).1, (engineReadDone_engineStep s f n k errs).only.flash])
  | scanTag sc b p d _ h => exact same (by rw [h, State.complete, (startNext_rest _).1, (scanTag_course s sc b p d).flash])
  | scanSeal f sc errs _ h => exact same (by rw [h, State.complete, (startNext_rest _).1, (scanSeal_course s f sc errs).flash])

theorem Keeps.directoryOk {s t : State} (h : Keeps s t) (k : s.DirectoryOk) : t.DirectoryOk := ⟨h.directory k.1, by rw [h.scan]; exact k.2⟩

theorem ScanCourse.directoryOk {s t : State} {sc : Scan} (h : ScanCourse s sc t) (hs : s.scan = some sc) (k : s.DirectoryOk) : t.DirectoryOk := by
  obtain ⟨u, sc', hk, -, -, -, -, hd, ⟨op, rfl⟩ | rfl⟩ := h
  · exact (request_keeps_laws _ _).directoryOk ⟨hk.directory k.1, fun x hx => by cases hx; exact hd (k.2 sc hs)⟩
  · exact ⟨hd (k.2 sc hs), fun x hx => by cases hx⟩

theorem Course.directoryOk {i : Instr} {s t : State} (h : Course i s t) (k : s.DirectoryOk) : t.DirectoryOk := by
  cases h with
  | keeps h => exact h.directoryOk k
  | reset b _ h =>
    have hnil : InOrder [] := ⟨.nil, nofun⟩
    rw [h]
    exact ⟨hnil, fun sc hsc => by cases hsc; exact hnil⟩
  | programmed b p ok _ _ h =>
    obtain ⟨fl, bl, x, e⟩ := programmed_eq s b p ok
    rw [e] at h
    exact h.directoryOk k
  | erased b ok _ _ h =>
    obtain ⟨fl, bl, x, e⟩ := erased_eq s b ok
    rw [e] at h
    exact h.directoryOk k
  | trackRead f n u errs _ _ h =>
    have hstep := (engineReadDone_engineStep s f n u errs).only
    rw [h]
    exact (startNext_keeps _).directoryOk ⟨by rw [hstep.packages]; exact k.1, by rw [hstep.scan]; exact k.2⟩
  | scanTag sc b p d hs h => rw [h]; exact (startNext_keeps _).directoryOk ((scanTag_course s sc b p d).directoryOk hs k)
  | scanSeal f sc errs hs h => rw [h]; exact (startNext_keeps _).directoryOk ((scanSeal_course s f sc errs).directoryOk hs k)

theorem Course.queueOk {i : Instr} {s t : State} (h : Course i s t) (k : s.QueueOk) : t.QueueOk := by
  cases h with
  | keeps h => exact h.queue k
  | reset b _ h => rw [h]; exact ⟨.nil, fun _ => rfl⟩
  | programmed b p ok _ _ h => exact h.queue ((programmed_shows s b p ok).queue k)
  | erased b ok _ _ h => exact h.queue ((erased_shows s b ok).queue k)
  | trackRead f n u errs hf hw h => rw [h]; exact (trackRead_shows hf hw).1 k
  | scanTag sc b p d _ h => rw [h]; exact (startNext_keeps _).queue ((scanTag_course s sc b p d).shows.queue k)
  | scanSeal f sc errs _ h => rw [h]; exact (startNext_keeps _).queue ((scanSeal_course s f sc errs).shows.queue k)

/-- The phase is STARTING as long as the scan runs. -/
def State.ScanIsStarting (s : State) : Prop := s.phase = .starting ↔ s.scan.isSome = true

theorem Keeps.scanIsStarting {s t : State} (h : Keeps s t) (k : s.ScanIsStarting) : t.ScanIsStarting := by
  rw [State.ScanIsStarting, h.phase, h.scan]
  exact k

theorem ScanCourse.scanIsStarting {s t : State} {sc : Scan} (h : ScanCourse s sc t) (hs : s.scan = some sc) (k : s.ScanIsStarting) :
    t.ScanIsStarting := by
  have hp : s.phase = .starting := k.mpr (by rw [hs]; rfl)
  obtain ⟨u, sc', hk, -, -, -, -, -, ⟨op, rfl⟩ | rfl⟩ := h
  · exact (request_keeps_laws _ _).scanIsStarting ⟨fun _ => rfl, fun _ => hk.phase.trans hp⟩
  · exact ⟨nofun, nofun⟩

theorem Course.scanIsStarting {i : Instr} {s t : State} (h : Course i s t) (k : s.ScanIsStarting) : t.ScanIsStarting := by
  cases h with
  | keeps h => exact h.scanIsStarting k
  | reset b _ h => rw [h]; exact ⟨fun _ => rfl, fun _ => rfl⟩
  | programmed b p ok _ _ h =>
    obtain ⟨fl, bl, x, e⟩ := programmed_eq s b p ok
    rw [e] at h
    exact h.scanIsStarting k
  | erased b ok _ _ h =>
    obtain ⟨fl, bl, x, e⟩ := erased_eq s b ok
    rw [e] at h
    exact h.scanIsStarting k
  | trackRead f n u errs _ _ h =>
    have hstep := (engineReadDone_engineStep s f n u errs).only
    rw [h]
    exact (startNext_keeps _).scanIsStarting (by rw [State.ScanIsStarting, hstep.phase, hstep.scan]; exact k)
  | scanTag sc b p d hs h => rw [h]; exact (startNext_keeps _).scanIsStarting ((scanTag_course s sc b p d).scanIsStarting hs k)
  | scanSeal f sc errs hs h => rw [h]; exact (startNext_keeps _).scanIsStarting ((scanSeal_course s f sc errs).scanIsStarting hs k)

/-- Only a reset brings STARTING back (R159). -/
theorem Course.idle_of_running {i : Instr} {s t : State} (h : Course i s t) (k : s.ScanIsStarting) (hp : s.phase ≠ .starting)
    (ht : t.phase = .starting) : t.Idle := by
  have noScan {sc : Scan} (hs : s.scan = some sc) : t.Idle := absurd (k.mpr (by rw [hs]; rfl)) hp
  cases h with
  | keeps h => exact absurd (h.phase ▸ ht) hp
  | reset b _ h => rw [h]; exact hardReset_idle s b
  | programmed b p ok _ _ h =>
    obtain ⟨fl, bl, x, e⟩ := programmed_eq s b p ok
    rw [e] at h
    exact absurd (h.phase ▸ ht) hp
  | erased b ok _ _ h =>
    obtain ⟨fl, bl, x, e⟩ := erased_eq s b ok
    rw [e] at h
    exact absurd (h.phase ▸ ht) hp
  | trackRead f n u errs _ _ h =>
    rw [h, State.complete, (startNext_rest _).2.1, (engineReadDone_engineStep s f n u errs).only.phase] at ht
    exact absurd ht hp
  | scanTag sc b p d hs _ => exact noScan hs
  | scanSeal f sc errs hs _ => exact noScan hs

/-- Rising ids below 64 are at most 64. -/
theorem InOrder.length_le {ps : List Package} (h : InOrder ps) : ps.length ≤ 64 := by
  have hnodup : (ps.map (·.id)).Nodup := List.pairwise_map.mpr (h.1.imp fun hpq => Nat.ne_of_lt hpq)
  have hsub : ps.map (·.id) ⊆ List.range 64 := fun id hid => by
    obtain ⟨p, hp, rfl⟩ := List.mem_map.mp hid
    exact List.mem_range.mpr (h.2 p hp)
  have := (List.subperm_of_subset hnodup hsub).length_le
  simpa using this

/-- A law that a measure count and the course of every instruction keep is kept by every step; the commands that wait are no part of it. -/
theorem step_keeps_of {P : State → Prop} (hwait : ∀ s rest, P s → P (s.withPending rest)) (htick : ∀ s, P s → P s.tick)
    (hexec : ∀ i s t, exec i s = .next t → P s → P t) {s t : State} (h : step s = .next t) (k : P s) : P t := by
  unfold step at h
  split at h
  · exact hexec _ _ _ h (hwait s _ k)
  · exact Host.Outcome.next.inj h ▸ htick s k

/-- Settles O52: each law is read off the course of a step; STARTING's own part from what a step can do while no show is bound. -/
theorem everyStepKeepsTheStore : Obligations.EveryStepKeepsTheStore := by
  unfold Obligations.EveryStepKeepsTheStore
  refine ⟨fun s t k h => ?_, fun s t k h => ?_, fun s t k h => ?_, fun s k => k.1.length_le, fun s t k h => ?_⟩
  · exact step_keeps_of (P := State.FlashOk) (fun _ _ k => k) (fun s k => by rw [State.FlashOk, (tick_keeps s).flash]; exact k)
      (fun _ _ _ h k => (exec_course h).flashOk k) h k
  · exact step_keeps_of (P := State.DirectoryOk) (fun _ _ k => k) (fun s k => (tick_keeps s).directoryOk k)
      (fun _ _ _ h k => (exec_course h).directoryOk k) h k
  · exact step_keeps_of (P := State.QueueOk) (fun _ _ k => k) (fun s k => (tick_keeps s).queue k)
      (fun _ _ _ h k => (exec_course h).queueOk k) h k
  · refine step_keeps_of (P := State.StartingOk) (fun _ _ k => k) (fun s k => ⟨(tick_keeps s).scanIsStarting k.1, fun hp => ?_⟩)
      (fun _ s _ h k => ⟨(exec_course h).scanIsStarting k.1, ?_⟩) h k
    · exact (tick_idle s).idle (k.2 ((tick_keeps s).phase ▸ hp))
    · intro ht
      by_cases hp : s.phase = .starting
      · exact exec_idle hp (k.2 hp) h ht
      · exact (exec_course h).idle_of_running k.1 hp ht

end Sys2Proof.Machine

/-! ## The rules of the store: what its operations leave and change -/

namespace Sys2Proof.Machine

/-! ### Commands and replies -/

@[simp] theorem taken_package (s : State) (id : Nat) : s.taken.package id = s.package id := rfl
@[simp] theorem taken_block (s : State) (b : Nat) : s.taken.block b = s.block b := rfl
@[simp] theorem taken_pool (s : State) : s.taken.pool = s.pool := rfl
@[simp] theorem taken_lowestBlank (s : State) : s.taken.lowestBlank = s.lowestBlank := rfl
@[simp] theorem taken_pagesUsed (s : State) (b : Nat) : s.taken.pagesUsed b = s.pagesUsed b := rfl
@[simp] theorem taken_freeId (s : State) : s.taken.freeId = s.freeId := rfl
@[simp] theorem taken_loading (s : State) (id : Nat) : s.taken.loading id = s.loading id := rfl
@[simp] theorem taken_noAmendPage (s : State) (p : Package) : s.taken.noAmendPage p = s.noAmendPage p := rfl
@[simp] theorem taken_packages (s : State) : s.taken.packages = s.packages := rfl
@[simp] theorem taken_swi (s : State) : s.taken.swi = s.swi := rfl
@[simp] theorem taken_slot (s : State) : s.taken.slot = s.slot := rfl
@[simp] theorem taken_load (s : State) : s.taken.load = s.load := rfl
@[simp] theorem taken_serialHigh (s : State) : s.taken.serialHigh = s.serialHigh := rfl
@[simp] theorem taken_aud (s : State) (n : Aud) : s.taken.aud n = s.aud n := rfl

/-- A reply goes to the reply buffer, and on the UART perhaps to the transmitter; the rest is as it was (R161, R163). -/
theorem replied_eq (s : State) (kind tag : Byte) (code : Code) (vals : List Byte) : ∃ x, s.replied kind tag code vals =
    { s with replyBuf := .ready { kind := replyKind kind, tag := tag, code := code, vals := vals }, uartTx := x } := by
  unfold State.replied State.ready State.startTx
  split
  · exact ⟨_, rfl⟩
  · exact ⟨_, rfl⟩

section replied

variable (s : State) (kind tag : Byte) (code : Code) (vals : List Byte)

@[simp] theorem replied_replyBuf : (s.replied kind tag code vals).replyBuf = .ready { kind := replyKind kind, tag := tag, code := code, vals := vals } := by
  obtain ⟨x, h⟩ := replied_eq s kind tag code vals
  rw [h]

@[simp] theorem replied_packages : (s.replied kind tag code vals).packages = s.packages := by
  obtain ⟨x, h⟩ := replied_eq s kind tag code vals
  rw [h]

@[simp] theorem replied_load : (s.replied kind tag code vals).load = s.load := by
  obtain ⟨x, h⟩ := replied_eq s kind tag code vals
  rw [h]

@[simp] theorem replied_slot : (s.replied kind tag code vals).slot = s.slot := by
  obtain ⟨x, h⟩ := replied_eq s kind tag code vals
  rw [h]

@[simp] theorem replied_flash : (s.replied kind tag code vals).flash = s.flash := by
  obtain ⟨x, h⟩ := replied_eq s kind tag code vals
  rw [h]

@[simp] theorem replied_blocks : (s.replied kind tag code vals).blocks = s.blocks := by
  obtain ⟨x, h⟩ := replied_eq s kind tag code vals
  rw [h]

@[simp] theorem replied_pageReg : (s.replied kind tag code vals).pageReg = s.pageReg := by
  obtain ⟨x, h⟩ := replied_eq s kind tag code vals
  rw [h]

@[simp] theorem replied_flight : (s.replied kind tag code vals).flight = s.flight := by
  obtain ⟨x, h⟩ := replied_eq s kind tag code vals
  rw [h]

@[simp] theorem replied_queue : (s.replied kind tag code vals).queue = s.queue := by
  obtain ⟨x, h⟩ := replied_eq s kind tag code vals
  rw [h]

@[simp] theorem replied_notices : (s.replied kind tag code vals).notices = s.notices := by
  obtain ⟨x, h⟩ := replied_eq s kind tag code vals
  rw [h]

@[simp] theorem replied_auds : (s.replied kind tag code vals).auds = s.auds := by
  obtain ⟨x, h⟩ := replied_eq s kind tag code vals
  rw [h]

@[simp] theorem replied_package (id : Nat) : (s.replied kind tag code vals).package id = s.package id := by
  simp only [State.package, replied_packages]

@[simp] theorem replied_block (b : Nat) : (s.replied kind tag code vals).block b = s.block b := by
  simp only [State.block, replied_blocks]

@[simp] theorem replied_aud (n : Aud) : (s.replied kind tag code vals).aud n = s.aud n := by
  simp only [State.aud, replied_auds]

end replied

/-! ### Entries of the directory -/

theorem package_id {s : State} {id : Nat} {p : Package} (h : s.package id = some p) : p.id = id := by
  simpa using List.find?_some h

theorem package_mem {s : State} {id : Nat} {p : Package} (h : s.package id = some p) : p ∈ s.packages := List.mem_of_find?_eq_some h

/-- A change of entries that keeps their ids is seen in each entry. -/
theorem find?_map_id {ps : List Package} (g : Package → Package) (hg : ∀ p, (g p).id = p.id) (id : Nat) :
    (ps.map g).find? (fun p => p.id = id) = (ps.find? fun p => p.id = id).map g := by
  rw [List.find?_map]
  congr 2
  funext p
  simp [hg]

theorem package_modPackage (s : State) (id : Nat) (f : Package → Package) (hf : ∀ p, (f p).id = p.id) :
    (s.modPackage id f).package id = (s.package id).map f := by
  unfold State.modPackage State.package
  rw [find?_map_id _ fun p => by split; exacts [hf p, rfl]]
  cases h : s.packages.find? fun p => p.id = id with
  | none => rfl
  | some p => simp [package_id (s := s) h]

theorem package_dropPackage (s : State) (id : Nat) : (s.dropPackage id).package id = none := by
  unfold State.dropPackage State.package
  simp

theorem package_of_packages {s t : State} (h : t.packages = s.packages) (id : Nat) : t.package id = s.package id := by
  simp only [State.package, h]

/-! ### Block records -/

theorem block_of_blocks {s t : State} (h : t.blocks = s.blocks) (b : Nat) : t.block b = s.block b := by simp only [State.block, h]

theorem block_modBlock_same (s : State) {b : Nat} (f : BlockRec → BlockRec) (h : b < 128) : (s.modBlock b f).block b = f (s.block b) := by
  simp [State.modBlock, State.block, h]

theorem block_modBlock_other (s : State) {b c : Nat} (f : BlockRec → BlockRec) (h : c ≠ b) : (s.modBlock b f).block c = s.block c := by
  simp [State.modBlock, State.block, Vector.getElem?_setIfInBounds_ne (Ne.symm h)]

theorem block_programmed (s : State) {b : Nat} (p : Nat) (ok : Bool) (h : b < 128) :
    (s.programmed b p ok).block b = { s.block b with nextPage := p + 1, marked := (s.block b).marked || !ok } := by
  have hb : (s.programmed b p ok).blocks = (s.modBlock b fun r => { r with nextPage := p + 1, marked := r.marked || !ok }).blocks := by
    unfold State.programmed
    simp only
    split <;> rfl
  rw [block_of_blocks hb, block_modBlock_same s _ h]

theorem block_erased (s : State) {b : Nat} (ok : Bool) (h : b < 128) : (s.erased b ok).block b = { s.block b with nextPage := 0 } := by
  have hb : (s.erased b ok).blocks = (s.modBlock b fun r => { r with nextPage := 0 }).blocks := by
    unfold State.erased
    simp only
    split <;> rfl
  rw [block_of_blocks hb, block_modBlock_same s _ h]

/-- What a completed program changes besides the page register's use: the flash, the block record and the free value (R25). -/
theorem programmed_keeps (s : State) (b p : Nat) (ok : Bool) : (s.programmed b p ok).slot = s.slot ∧ (s.programmed b p ok).packages = s.packages
    ∧ (s.programmed b p ok).load = s.load ∧ (s.programmed b p ok).notices = s.notices ∧ (s.programmed b p ok).flight = s.flight
    ∧ (s.programmed b p ok).queue = s.queue ∧ (s.programmed b p ok).swi = s.swi ∧ (s.programmed b p ok).pageReg = s.pageReg := by
  obtain ⟨fl, bl, k, h⟩ := programmed_eq s b p ok
  rw [h]
  exact ⟨rfl, rfl, rfl, rfl, rfl, rfl, rfl, rfl⟩

theorem erased_keeps (s : State) (b : Nat) (ok : Bool) : (s.erased b ok).slot = s.slot ∧ (s.erased b ok).packages = s.packages
    ∧ (s.erased b ok).load = s.load ∧ (s.erased b ok).notices = s.notices ∧ (s.erased b ok).flight = s.flight
    ∧ (s.erased b ok).queue = s.queue ∧ (s.erased b ok).swi = s.swi ∧ (s.erased b ok).pageReg = s.pageReg := by
  obtain ⟨fl, bl, k, h⟩ := erased_eq s b ok
  rw [h]
  exact ⟨rfl, rfl, rfl, rfl, rfl, rfl, rfl, rfl⟩

/-! ### Requests (R30 to R32) -/

theorem start_eq (s : State) (r : Request) : ∃ fl au, s.start r = { s with flight := fl, auds := au } := by
  unfold State.start
  split
  · exact ⟨_, _, rfl⟩
  · exact ⟨_, _, rfl⟩

theorem request_eq (s : State) (r : Request) : ∃ fl q au, s.request r = { s with flight := fl, queue := q, auds := au } := by
  unfold State.request
  dsimp only
  split
  · obtain ⟨fl, au, h⟩ := start_eq (s.withdraw r.who) r
    exact ⟨fl, _, au, h⟩
  · exact ⟨_, _, _, rfl⟩

theorem startNext_eq (s : State) : ∃ fl q au, s.startNext = { s with flight := fl, queue := q, auds := au } := by
  unfold State.startNext
  dsimp only
  split
  · obtain ⟨fl, au, h⟩ := start_eq (({ s with flight := none } : State).withdraw _) _
    exact ⟨fl, _, au, h⟩
  · exact ⟨_, _, _, rfl⟩

/-- What the start of the next request leaves as it was. -/
theorem startNext_keeps_rest (s : State) : s.startNext.slot = s.slot ∧ s.startNext.packages = s.packages ∧ s.startNext.load = s.load
    ∧ s.startNext.notices = s.notices ∧ s.startNext.blocks = s.blocks ∧ s.startNext.pageReg = s.pageReg ∧ s.startNext.swi = s.swi
    ∧ s.startNext.replyBuf = s.replyBuf := by
  obtain ⟨fl, q, au, h⟩ := startNext_eq s
  rw [h]
  exact ⟨rfl, rfl, rfl, rfl, rfl, rfl, rfl, rfl⟩

theorem request_flight_idle {s : State} (r : Request) (h : s.flight = none) :
    (s.request r).flight = some { req := r, addr := s.resolve r.op } := by
  unfold State.request
  simp only [State.withdraw, h]
  rw [start_flight]
  rfl

theorem request_busy {s : State} (r : Request) (h : s.flight ≠ none) :
    s.request r = { s with queue := (s.queue.filter fun x => decide (x.who ≠ r.who)) ++ [r] } := by
  obtain ⟨f, hf⟩ := Option.ne_none_iff_exists'.mp h
  unfold State.request
  simp only [State.withdraw, hf]

theorem request_mem {s : State} (r : Request) (h : s.flight ≠ none) : r ∈ (s.request r).queue := by
  rw [request_busy r h]
  exact List.mem_append_right _ (List.mem_singleton_self r)

/-- A request of the host is in flight at once on an idle engine, and waits otherwise. -/
theorem request_goes (s : State) (r : Request) : (s.flight = none → (s.request r).flight = some { req := r, addr := s.resolve r.op })
    ∧ (s.flight ≠ none → (s.request r).flight = s.flight ∧ r ∈ (s.request r).queue) :=
  ⟨request_flight_idle r, fun h => ⟨by rw [request_busy r h], request_mem r h⟩⟩

theorem bestRequest_mem {q : List Request} {r : Request} (h : bestRequest q = some r) : r ∈ q := by
  induction q generalizing r with
  | nil => cases h
  | cons x xs ih =>
    unfold bestRequest at h
    split at h
    · rename_i b hb
      split at h <;> cases h
      · exact List.mem_cons_of_mem _ (ih hb)
      · exact List.mem_cons_self ..
    · cases h
      exact List.mem_cons_self ..

/-- After a completion a waiting request is in flight, or waits on, as long as no other request of its requester waits. -/
theorem startNext_keeps_request {s : State} {r : Request} (hr : r ∈ s.queue) (hu : ∀ x ∈ s.queue, x.who = r.who → x = r) :
    s.startNext.flight = some { req := r, addr := s.resolve r.op } ∨ r ∈ s.startNext.queue := by
  unfold State.startNext
  dsimp only
  split
  · rename_i b hb
    rw [start_flight, start_queue]
    by_cases hw : b.who = r.who
    · rw [hu b (bestRequest_mem hb) hw]
      exact .inl rfl
    · exact .inr (List.mem_filter.mpr ⟨hr, decide_eq_true fun e => hw e.symm⟩)
  · rename_i hb
    rw [bestRequest_none hb] at hr
    cases hr

/-- A requester without a waiting request has none after a completion, and its operation does not start. -/
theorem startNext_without {s : State} {w : Requester} (h : ∀ r ∈ s.queue, r.who ≠ w) :
    (∀ r ∈ s.startNext.queue, r.who ≠ w) ∧ ∀ f, s.startNext.flight = some f → f.req.who ≠ w := by
  unfold State.startNext
  dsimp only
  split
  · rename_i b hb
    rw [start_flight, start_queue]
    exact ⟨fun r hr => h r (List.mem_of_mem_filter hr), fun f hf => by cases hf; exact h b (bestRequest_mem hb)⟩
  · exact ⟨h, nofun⟩

/-! ### The program and erase steps of the host operation (R41) -/

theorem hostWrite_free {s : State} (op : StoreOp) (h : s.swi = false) : s.hostWrite op = s.request (hostRequest op) := by
  simp [State.hostWrite, h]

theorem hostWrite_held {s : State} (op : StoreOp) (h : s.swi = true) :
    s.hostWrite op = { s with slot := s.slot.map fun x => { x with waiting := some op } } := by
  simp [State.hostWrite, h]

theorem request_slot (s : State) (r : Request) : (s.request r).slot = s.slot := (request_keeps s r).1

/-- A completion whose operation goes on with a program or an erase (R41). `u` is the state in which the step is asked for: the slot holds the
operation, and the engine is still at work. -/
theorem goesOnWith_hostWrite {s u : State} {op : HostOp} {step : StoreOp} {addr : Nat} (hslot : u.slot = some { op := op, waiting := none })
    (hswi : u.swi = s.swi) (hqueue : u.queue = s.queue) (hflight : u.flight ≠ none) (haddr : ∀ v : State, v.resolve step = addr) :
    s.GoesOnWith (u.hostWrite step).startNext op step addr := by
  refine ⟨fun hs => ?_, fun hs => ?_⟩
  · rw [hostWrite_free step (hswi.trans hs), (startNext_keeps_rest _).1, request_slot]
    refine ⟨hslot, ?_⟩
    rw [← haddr (u.request (hostRequest step))]
    refine startNext_keeps_request (request_mem _ hflight) fun x hx hw => ?_
    rw [request_busy _ hflight] at hx
    rcases List.mem_append.mp hx with hx | hx
    · exact absurd hw (of_decide_eq_true (List.mem_filter.mp hx).2)
    · exact List.mem_singleton.mp hx
  · rw [hostWrite_held step (hswi.trans hs), (startNext_keeps_rest _).1]
    refine ⟨by rw [hslot]; rfl, fun hq => startNext_without ?_⟩
    rw [← hqueue] at hq
    exact hq

theorem flight_ne_none_of_program {s : State} {x : Nat × Nat} (h : s.hostProgram = some x) : s.flight ≠ none := by
  intro hn
  simp [State.hostProgram, hn] at h

theorem flight_ne_none_of_erase {s : State} {b : Nat} (h : s.hostErase = some b) : s.flight ≠ none := by
  intro hn
  simp [State.hostErase, hn] at h

/-! ### The free pool (R28) -/

theorem mem_pool {s : State} {b : Nat} : b ∈ s.pool ↔ b < 128 ∧ (s.block b).cls = .blank := by
  simp [State.pool, Config.storeBlocks]

theorem find?_range_eq_some {n k : Nat} {p : Nat → Bool} (hk : k < n) (hp : p k = true) (hlow : ∀ j, j < k → p j = false) :
    (List.range n).find? p = some k := by
  rw [List.find?_range_eq_some]
  exact ⟨hp, by simpa using hk, fun j hj => by simp [hlow j hj]⟩

theorem lowestBlank_eq_some {s : State} {b : Nat} (hb : b < 128) (hblank : (s.block b).cls = .blank)
    (hlow : ∀ c, c < b → (s.block c).cls ≠ .blank) : s.lowestBlank = some b := by
  unfold State.lowestBlank State.pool
  rw [List.head?_filter]
  exact find?_range_eq_some hb (decide_eq_true hblank) fun c hc => decide_eq_false (hlow c hc)

theorem lowestBlank_eq_none {s : State} (h : ∀ b, b < 128 → (s.block b).cls ≠ .blank) : s.lowestBlank = none := by
  unfold State.lowestBlank
  rw [List.head?_eq_none_iff, List.eq_nil_iff_forall_not_mem]
  exact fun b hb => h b (mem_pool.mp hb).1 (mem_pool.mp hb).2

theorem freeId_eq_some {s : State} {id : Nat} (hid : id < 64) (hfree : s.package id = none) (hlow : ∀ j, j < id → s.package j ≠ none) :
    s.freeId = some id :=
  find?_range_eq_some hid (by simp [hfree]) fun j hj => by
    rw [Option.isNone_eq_false_iff, Option.isSome_iff_ne_none]
    exact hlow j hj

theorem freeId_eq_none {s : State} (h : ∀ id, id < 64 → s.package id ≠ none) : s.freeId = none := by
  unfold State.freeId
  rw [List.find?_eq_none]
  exact fun id hid => by simpa [Option.isNone_iff_eq_none] using h id (List.mem_range.mp hid)

end Sys2Proof.Machine

/-! ## The reports, protection and deletion of packages, and PACKAGE_OPEN (O17, O21, O11) -/

namespace Sys2Proof.Machine

/-! ### Each command of the directory is its owner's action -/

section commands

variable {s : State} (h : s.Accepts)
include h

theorem exec_packageProtect (tag id level : Byte) :
    exec (.packageProtect tag [id, level]) s = .next (State.answer 0x14 tag (packageProtectAction id.toNat level s.taken)) :=
  congrArg Host.Outcome.next (take_runs s 0x14 tag false (packageProtectAction id.toNat level) h)

theorem exec_packageDelete (tag id : Byte) :
    exec (.packageDelete tag [id]) s = .next (State.answer 0x13 tag (packageDeleteAction id.toNat s.taken)) :=
  congrArg Host.Outcome.next (take_runs s 0x13 tag false (packageDeleteAction id.toNat) h)

theorem exec_packageSeal (tag id : Byte) :
    exec (.packageSeal tag [id]) s = .next (State.answer 0x12 tag (packageSealAction id.toNat s.taken)) :=
  congrArg Host.Outcome.next (take_runs s 0x12 tag false (packageSealAction id.toNat) h)

theorem exec_packageOpen (tag : Byte) {body : List Byte} {a : OpenArgs} (ha : openArgs body = some a) :
    exec (.packageOpen tag body) s = .next (State.answer 0x10 tag (packageOpenAction a s.taken)) := by
  show Host.Outcome.next (s.take 0x10 tag false ((openArgs body).map packageOpenAction)) = _
  rw [ha]
  exact congrArg Host.Outcome.next (take_runs s 0x10 tag false (packageOpenAction a) h)

theorem exec_cueAppend (tag id : Byte) {recs : List Byte} {rs : List RawRecord} (hr : rawRecords recs.length recs = some rs) :
    exec (.cueAppend tag (id :: recs)) s = .next (State.answer 0x11 tag (cueAppendAction id.toNat rs s.taken)) := by
  show Host.Outcome.next (s.take 0x11 tag false ((rawRecords recs.length recs).map (cueAppendAction id.toNat))) = _
  rw [hr]
  exact congrArg Host.Outcome.next (take_runs s 0x11 tag false (cueAppendAction id.toNat rs) h)

theorem exec_cueAmend (tag id tr c1 c0 pl sp n : Byte) {rest : List Byte} {raw : List RawLine} (hr : rawLines n.toNat rest = some (raw, [])) :
    exec (.cueAmend tag (id :: tr :: c1 :: c0 :: pl :: sp :: n :: rest)) s
      = .next (State.answer 0x17 tag (cueAmendAction id.toNat tr.toNat (be [c1, c0]) (checkedText pl sp raw) s.taken)) := by
  simp only [exec, execCueAmend, hr]
  exact congrArg Host.Outcome.next (take_runs s 0x17 tag false (cueAmendAction id.toNat tr.toNat (be [c1, c0]) (checkedText pl sp raw)) h)

theorem exec_cueRead (tag id tr c1 c0 : Byte) :
    exec (.cueRead tag [id, tr, c1, c0]) s = .next (State.answer 0x18 tag (cueReadAction id.toNat tr.toNat (be [c1, c0]) s.taken)) :=
  congrArg Host.Outcome.next (take_runs s 0x18 tag false (cueReadAction id.toNat tr.toNat (be [c1, c0])) h)

theorem exec_packageInfo_none (tag : Byte) {id : Byte} (hp : s.package id.toNat = none) :
    exec (.packageInfo tag [id]) s = .next (s.taken.replied 0x15 tag .noSuch []) := by
  refine (congrArg Host.Outcome.next (take_runs s 0x15 tag false _ h)).trans ?_
  rw [taken_package, hp]
  rfl

theorem exec_packageInfo_some (tag : Byte) {id : Byte} {p : Package} (hp : s.package id.toNat = some p) :
    exec (.packageInfo tag [id]) s = .next (s.taken.replied 0x15 tag .ok p.infoBytes) := by
  refine (congrArg Host.Outcome.next (take_runs s 0x15 tag false _ h)).trans ?_
  rw [taken_package, hp]
  rfl

theorem exec_packageList (tag : Byte) :
    exec (.packageList tag []) s = .next (s.taken.replied 0x16 tag .ok (listBytes Package.summary s.packages)) :=
  congrArg Host.Outcome.next (take_runs s 0x16 tag false (fun s => done s .ok (listBytes Package.summary s.packages)) h)

theorem exec_storeInfo (tag : Byte) : exec (.storeInfo tag []) s = .next (s.taken.replied 0x20 tag .ok s.storeInfo) :=
  congrArg Host.Outcome.next (take_runs s 0x20 tag false (fun s => done s .ok s.storeInfo) h)

end commands

/-! ### PACKAGE_PROTECT and PACKAGE_DELETE (R20, R22) -/

theorem protection_ofByte {b : Byte} {pr : Protection} (h : pr.code = b.toNat) : Protection.ofByte b = some pr := by
  unfold Protection.ofByte
  rw [← h]
  cases pr <;> rfl

theorem protection_ofByte_none {b : Byte} (h : 2 < b.toNat) : Protection.ofByte b = none := by
  unfold Protection.ofByte
  exact List.getElem?_eq_none h

/-- An accepted PACKAGE_DELETE with blocks to erase: the package is DELETING, its load has ended, and the first erase is asked for. -/
theorem packageDelete_accepted {s : State} {id : Nat} {p : Package} {b : Nat} {rest : List Nat} (hp : s.package id = some p)
    (hst : p.state ≠ .sealing ∧ p.state ≠ .deleting) (hb : p.binds = 0) (hpr : p.protection = .unprotected) (hswi : s.swi = false)
    (hslot : s.slot = none) (hbl : p.allBlocks = b :: rest) :
    ∃ u : State, packageDeleteAction id s = done (u.request (hostRequest (.erase b))) .accepted []
      ∧ u.package id = some { p with state := .deleting } ∧ (∀ l, u.load = some l → l.pkg ≠ id)
      ∧ u.slot = some { op := .delete id b rest 0, waiting := none } ∧ u.flight = s.flight ∧ u.flash = s.flash ∧ u.blocks = s.blocks
      ∧ u.notices = s.notices := by
  refine ⟨{ s.setPkgState id .deleting with
      load := if s.loading id then none else s.load, slot := some { op := .delete id b rest 0, waiting := none } }, ?_, ?_, fun l hl hid => ?_,
    rfl, rfl, rfl, rfl, rfl⟩
  · have hwrite : (({ s.setPkgState id .deleting with load := if s.loading id then none else s.load } : State).deleteNext id (b :: rest) 0)
        = _ := hostWrite_free (.erase b) (s := State.setOp _ _) hswi
    simp only [packageDeleteAction, hp, hst, hb, hpr, hswi, hslot, hbl, or_self, if_false, Nat.lt_irrefl, ne_eq, not_true_eq_false,
      Bool.false_eq_true, Option.isSome_none, hwrite]
    rfl
  · have := package_modPackage s id (fun p => { p with state := .deleting }) fun _ => rfl
    rw [hp] at this
    exact this
  · change (if s.loading id then none else s.load) = some l at hl
    split at hl
    · cases hl
    · rename_i hload
      exact hload (by simp [State.loading, hl, hid])

/-- Settles O17, test by test. -/
theorem protectionAndDeletion : Obligations.ProtectionAndDeletion := by
  unfold Obligations.ProtectionAndDeletion
  refine ⟨fun tag id level s h => ?_, fun tag id s h => ?_⟩
  · simp only [exec_packageProtect h]
    refine ⟨fun hn => by simp [packageProtectAction, hn], fun p hp => ⟨fun hl => ?_, fun pr hpr => ?_⟩⟩
    · simp [packageProtectAction, hp, protection_ofByte_none hl]
    · have hpr' := protection_ofByte hpr
      refine ⟨fun hs => ?_, fun hs hf hn => ?_, fun hs hf => ?_⟩
      · simp [packageProtectAction, hp, hpr', hs]
      · simp [packageProtectAction, hp, hpr', hs, hf, hn]
      · have hok : ¬ (p.protection = .firm ∧ pr ≠ .firm) := fun k => k.2 (hf k.1)
        simp [packageProtectAction, hp, hpr', hs, hok]
  · simp only [exec_packageDelete h]
    refine ⟨fun hn => by simp [packageDeleteAction, hn], fun p hp => ⟨fun hst => ?_, fun hs hd => ?_⟩⟩
    · simp [packageDeleteAction, hp, hst]
    · refine ⟨fun hb => ?_, fun hb hg => ?_, fun hb hpr hswi hslot => ?_, fun hb hpr hswi hslot b rest hbl => ?_⟩
      · simp [packageDeleteAction, hp, hs, hd, hb]
      · by_cases hpr : p.protection = .unprotected
        · have hswi : s.swi = true := hg.resolve_left (not_not.mpr hpr)
          simp [packageDeleteAction, hp, hs, hd, hb, hpr, hswi]
        · simp [packageDeleteAction, hp, hs, hd, hb, hpr]
      · simp [packageDeleteAction, hp, hs, hd, hb, hpr, hswi, Option.isSome_iff_ne_none.mpr hslot]
      · obtain ⟨u, hact, hpk, hld, hsl, hfl, hflash, hblk, hno⟩ :=
          packageDelete_accepted (s := s.taken) hp ⟨hs, hd⟩ hb hpr hswi hslot hbl
        obtain ⟨hsl', hld', hpk', -, hno', hblk', hflash', -⟩ := request_keeps u (hostRequest (.erase b))
        have hgoes := request_goes u (hostRequest (.erase b))
        rw [hfl] at hgoes
        rw [hact, answer_done]
        refine ⟨_, rfl, replied_replyBuf .., ?_, ?_, ?_, ?_, ?_, ?_, ?_, ?_⟩
        · rw [replied_package, package_of_packages hpk', hpk]
        · rwa [replied_load, hld']
        · rw [replied_slot, hsl', hsl]
        · rw [replied_flight]; exact hgoes.1
        · rw [replied_flight, replied_queue]; exact hgoes.2
        · rw [replied_flash, hflash', hflash]; rfl
        · rw [replied_blocks, hblk', hblk]; rfl
        · rw [replied_notices, hno', hno]; rfl

end Sys2Proof.Machine

/-! ## Reports and the opening of a package (O21, O11) -/

namespace Sys2Proof.Machine

/-! ### PACKAGE_INFO, PACKAGE_LIST and STORE_INFO (R24, R43) -/

/-- Each block is of one class. -/
theorem classes_sum (f : Nat → BlockClass) (l : List Nat) :
    (l.filter fun b => decide (f b = .blank)).length + (l.filter fun b => decide (f b = .package)).length
      + (l.filter fun b => decide (f b = .amend)).length + (l.filter fun b => decide (f b = .retired)).length
      + (l.filter fun b => decide (f b = .unknown)).length = l.length := by
  induction l with
  | nil => rfl
  | cons b bs ih =>
    cases h : f b <;> simp [h] <;> omega

/-- The values of PACKAGE_INFO for an entry whose track descriptions are present. -/
theorem infoBytes_some {p : Package} {i : PkgInfo} (h : p.info = some i) : p.infoBytes =
    u8 p.id ++ ([1] ++ u8 i.title.length ++ i.title) ++ u16 p.serial ++ ([1] ++ u8 i.rate.code) ++ ([1] ++ u32 i.duration)
      ++ ([1] ++ u8 i.text.length ++ i.text.flatMap (fun d => d.label ++ u8 d.kind.code))
      ++ ([1] ++ u8 i.sound.length ++ i.sound.flatMap (fun l => l)) ++ u8 p.state.code
      ++ ([1] ++ u8 p.reportTracks.length ++ p.reportTracks.flatMap (fun t => u32 (i.cueCounts.get t)))
      ++ (u8 p.reportTracks.length ++ p.reportTracks.flatMap fun t => u16 (p.pageCounts.get t))
      ++ (u8 p.blocks.length ++ p.blocks.flatMap u8)
      ++ (u8 p.reportTracks.length ++ p.reportTracks.flatMap fun t => indexLocBytes (p.indexLoc.get t))
      ++ optU8 p.amend ++ u8 p.protection.code ++ u8 p.binds := by
  unfold Package.infoBytes
  rw [h]
  simp only [Option.map_some, optU8, optU32, present, textBytes, listBytes, List.append_assoc]
  rfl

/-- The values of PACKAGE_INFO for an entry found ABANDONED, whose track descriptions are absent (R45). -/
theorem infoBytes_none {p : Package} (h : p.info = none) : p.infoBytes =
    u8 p.id ++ [0, 0] ++ u16 p.serial ++ [0, 0] ++ [0, 0, 0, 0, 0] ++ [0, 0] ++ [0, 0] ++ u8 p.state.code ++ [0, 0]
      ++ (u8 p.reportTracks.length ++ p.reportTracks.flatMap fun t => u16 (p.pageCounts.get t))
      ++ (u8 p.blocks.length ++ p.blocks.flatMap u8)
      ++ (u8 p.reportTracks.length ++ p.reportTracks.flatMap fun t => indexLocBytes (p.indexLoc.get t))
      ++ optU8 p.amend ++ u8 p.protection.code ++ u8 p.binds := by
  unfold Package.infoBytes
  rw [h]
  rfl

theorem optU8_eq (o : Option Nat) : optU8 o = match o with | some b => [1] ++ u8 b | none => [0, 0] := by cases o <;> rfl

theorem indexLocBytes_eq (o : Option IndexLoc) :
    indexLocBytes o = match o with | some l => [1] ++ u16 l.first ++ u8 l.count | none => [0, 0, 0, 0] := by
  cases o with
  | none => rfl
  | some l => exact (List.append_assoc ..).symm

theorem summary_eq (p : Package) : p.summary = u8 p.id ++ u8 p.state.code ++ u16 p.serial
    ++ (match p.info with | some i => [1] ++ u8 i.rate.code | none => [0, 0]) ++ u8 p.protection.code ++ u8 p.binds
    ++ (match p.info with | some i => u8 i.text.length ++ u8 i.sound.length | none => [0, 0]) := by
  unfold Package.summary Package.textCount Package.soundCount
  cases p.info with
  | none => rfl
  | some i => exact List.append_assoc ..

theorem storeInfo_eq (s : State) (count : BlockClass → Nat)
    (hc : ∀ c, count c = ((List.range 128).filter fun b => decide ((s.block b).cls = c)).length) : s.storeInfo =
    u8 (count .blank) ++ u8 (count .package) ++ u8 (count .amend) ++ u8 (count .retired) ++ u8 (count .unknown)
      ++ u8 ((List.range 128).filter fun b => (s.block b).marked).length
      ++ (match s.slot with | some h => [1, 1] ++ u8 h.op.code ++ flag h.waiting.isSome | none => [0, 0, 0, 0]) ++ flag s.swi := by
  simp only [State.storeInfo, State.ofClass, hc, Config.storeBlocks, State.hostOp]
  cases s.slot with
  | none => simp [optU8, present, flag, u8]
  | some h => simp [optU8, present, flag, u8]

/-- Settles O21: the three reports answer at once, with the bytes that each layout lists. -/
theorem storeReportsChangeNothing : Obligations.StoreReportsChangeNothing := by
  unfold Obligations.StoreReportsChangeNothing
  refine fun tag id s h => ⟨fun hn => exec_packageInfo_none h tag hn, fun p tracks title rate duration text sound cues hp hsome hnone => ?_,
    ?_, fun count hc => ⟨?_, ?_⟩⟩
  · rw [exec_packageInfo_some h tag hp]
    congr 2
    cases hi : p.info with
    | some i =>
      obtain ⟨rfl, rfl, rfl, rfl, rfl, rfl, rfl⟩ := hsome i hi
      have htr : p.reportTracks = [0, 1, 2, 3].filter fun t => decide (t.val < i.text.length) := by
        simp only [Package.reportTracks, hi, allText, Option.map_some, Option.getD_some]
      rw [infoBytes_some hi, htr]
      simp only [optU8_eq, indexLocBytes_eq] <;> rfl
    | none =>
      obtain ⟨rfl, rfl, rfl, rfl, rfl, rfl, rfl⟩ := hnone hi
      have htr : p.reportTracks = [0, 1, 2, 3] := by
        simp only [Package.reportTracks, hi, allText]
        decide
      rw [infoBytes_none hi, htr]
      simp only [optU8_eq, indexLocBytes_eq] <;> rfl
  · rw [exec_packageList h]
    rw [listBytes, show Package.summary = _ from funext summary_eq] <;> rfl
  · simp only [hc]
    exact (classes_sum (fun b => (s.block b).cls) _).trans (List.length_range ..)
  · exact (exec_storeInfo h tag).trans (by rw [storeInfo_eq s count hc] <;> rfl)

/-! ### PACKAGE_OPEN (R6) -/

theorem mapM_isSome {α β : Type} (f : α → Option β) (l : List α) : (l.mapM f).isSome = true ↔ ∀ x ∈ l, (f x).isSome = true := by
  induction l with
  | nil => simp
  | cons x xs ih =>
    rw [List.forall_mem_cons, ← ih, List.mapM_cons]
    cases f x with
    | none => simp
    | some y => cases xs.mapM f <;> simp

theorem rateClass_ofByte_isSome (b : Byte) : (RateClass.ofByte b).isSome = true ↔ b.toNat ≤ 5 := by
  simp [RateClass.ofByte, Nat.lt_succ_iff]

theorem textKind_ofByte_isSome (b : Byte) : (TextKind.ofByte b).isSome = true ↔ b.toNat ≤ 1 := by
  simp [TextKind.ofByte]

/-- The values that R6 a allows. -/
theorem checked_isSome (a : OpenArgs) : a.checked.isSome = true ↔ 1 ≤ a.title.length ∧ a.title.length ≤ 16 ∧ a.rate.toNat ≤ 5 ∧ 1 ≤ a.duration
    ∧ a.duration ≤ 2147483647 ∧ a.text.length ≤ 4 ∧ a.sound.length ≤ 2 ∧ ∀ d ∈ a.text, d.2.toNat ≤ 1 := by
  have htext : (a.text.mapM fun d => (TextKind.ofByte d.2).map fun k => ({ label := d.1, kind := k } : TextDesc)).isSome = true
      ↔ ∀ d ∈ a.text, d.2.toNat ≤ 1 := by
    rw [mapM_isSome]
    exact forall₂_congr fun d _ => by rw [Option.isSome_map, textKind_ofByte_isSome]
  rw [← htext, ← rateClass_ofByte_isSome]
  unfold OpenArgs.checked
  split
  · rename_i rate text hr ht
    simp only [hr, ht, Option.isSome_some, true_and, and_true]
    split
    · rename_i h
      simp only [Option.isSome_none, Bool.false_eq_true, false_iff, Config.maxPosition, Config.textTracks, Config.soundTracks] at h ⊢
      omega
    · rename_i h
      simp only [Option.isSome_some, true_iff, Config.maxPosition, Config.textTracks, Config.soundTracks] at h ⊢
      omega
  · rename_i h
    simp only [Option.isSome_none, Bool.false_eq_true, false_iff]
    rintro ⟨-, -, hr, -, -, -, -, ht⟩
    obtain ⟨r, hr⟩ := Option.isSome_iff_exists.mp hr
    obtain ⟨x, ht⟩ := Option.isSome_iff_exists.mp ht
    exact h r x hr ht

/-- Settles O11, test by test; an accepted command takes the lowest free id and the lowest blank block. -/
theorem packageOpenMakesTheEntry : Obligations.PackageOpenMakesTheEntry := by
  unfold Obligations.PackageOpenMakesTheEntry
  intro tag body a s h ha
  simp only [exec_packageOpen h tag ha]
  refine ⟨checked_isSome a, fun hn => by simp [packageOpenAction, hn], fun info hi => ⟨fun hfull => ?_, fun id hid hfree hlow =>
    ⟨fun hbusy => ?_, fun hidle => ⟨fun hnone => ?_, fun b hb hblank hblow => ?_⟩⟩⟩⟩
  · simp [packageOpenAction, hi, freeId_eq_none hfull]
  all_goals have hid' := freeId_eq_some hid hfree hlow
  · have hany : (s.packages.any fun p => decide (p.state = .filling)) = true := by simpa using hbusy
    simp [packageOpenAction, hi, hid', hany]
  all_goals have hany : (s.packages.any fun p => decide (p.state = .filling)) = false := by simpa using hidle
  · simp [packageOpenAction, hi, hid', hany, lowestBlank_eq_none hnone]
  · simp only [packageOpenAction, hi, taken_freeId, hid', taken_packages, hany, taken_lowestBlank, lowestBlank_eq_some hb hblank hblow,
      Bool.false_eq_true, if_false, answer_done]
    rfl

end Sys2Proof.Machine

/-! ## CUE_APPEND (O12, O13, O14) -/

namespace Sys2Proof.Machine

/-! ### One record (R7, R8, R10, R12) -/

/-- A record that passes the tests of R7 for a track, with the fields that its bytes give. -/
structure RecordPasses (info : PkgInfo) (l : Load) (r : RawRecord) (x : CueText) (t : TextTrack) : Prop where
  track : r.track = t.val
  known : t.val < info.text.length
  order : ∀ c, l.track = some c → c.val ≤ t.val
  text : checkedText r.placement r.speaker r.lines = some x
  starts : r.startTick < info.duration
  ends : r.endTick ≤ 2147483647
  rises : r.startTick < r.endTick
  follows : l.track = some t → l.lastStart ≤ r.startTick
  room : info.cueCounts.get t < 65536

/-- The cue that a record makes: its track's next number, and its end clamped to 36,000 ticks after its start (R8). -/
def RawRecord.cue (r : RawRecord) (info : PkgInfo) (x : CueText) (t : TextTrack) : Cue :=
  { number := info.cueCounts.get t, startTick := r.startTick, endTick := min r.endTick (r.startTick + 36000)
    placement := x.placement, speaker := x.speaker, lines := x.lines }

/-- Whether R8 clamps a record. -/
def RawRecord.clamped (r : RawRecord) : Bool := decide (r.startTick + 36000 < r.endTick)

/-- The first tests of a record, up to its track (R7 a, b). -/
theorem appendRecord_of_track {s : State} {p : Package} {info : PkgInfo} {l : Load} {r : RawRecord} {t : TextTrack} (htr : r.track = t.val)
    (hknown : t.val < info.text.length) : appendRecord s p info l r =
      if (l.track.elim false fun c => decide (t.val < c.val)) = true then .refused .order
      else (checkedText r.placement r.speaker r.lines).elim (.refused .range) fun x =>
        if info.duration ≤ r.startTick ∨ 2147483647 < r.endTick ∨ r.endTick ≤ r.startTick then .refused .range
        else if l.track = some t ∧ r.startTick < l.lastStart then .refused .order
        else if 65536 ≤ info.cueCounts.get t then .refused .full
        else if l.needsHandover t.val (13 + linesSize x.lines) = true then
          (s.handoverRefused p t).elim ((s.handover p l).load.elim (.refused .state) fun l' =>
            .taken ((s.handover p l).stage p.id l' t (r.cue info x t)) (info.cueCounts.get t) r.clamped) .refused
        else .taken (s.stage p.id l t (r.cue info x t)) (info.cueCounts.get t) r.clamped := by
  obtain ⟨tr, st, en, pl, sp, ls⟩ := r
  subst htr
  have hend : (if decide (st + Config.maxCueTicks < en) = true then st + Config.maxCueTicks else en) = min en (st + 36000) := by
    rw [Nat.min_def, Config.maxCueTicks]
    by_cases h : st + 36000 < en
    · rw [if_pos (decide_eq_true h), if_neg (Nat.not_le.mpr h)]
    · rw [if_neg (mt of_decide_eq_true h), if_pos (Nat.not_lt.mp h)]
  unfold appendRecord RawRecord.cue RawRecord.clamped
  rw [dif_pos ⟨hknown, t.isLt⟩, ← hend]
  dsimp only
  cases l.track <;> cases checkedText pl sp ls <;> cases s.handoverRefused p t <;> cases (s.handover p l).load <;> rfl

section passed

variable {s : State} {p : Package} {info : PkgInfo} {l : Load} {r : RawRecord} {x : CueText} {t : TextTrack}

/-- A record that passes is staged, or is the first of the next page where the staged one can be handed over (R8, R10, R12). -/
theorem appendRecord_passed (s : State) (p : Package) (h : RecordPasses info l r x t) : appendRecord s p info l r =
    if l.needsHandover t.val (13 + linesSize x.lines) = true then
      (s.handoverRefused p t).elim ((s.handover p l).load.elim (.refused .state) fun l' =>
        .taken ((s.handover p l).stage p.id l' t (r.cue info x t)) (info.cueCounts.get t) r.clamped) .refused
    else .taken (s.stage p.id l t (r.cue info x t)) (info.cueCounts.get t) r.clamped := by
  obtain ⟨htr, hknown, hord, htext, hstart, hend, hrise, hfol, hroom⟩ := h
  have hlate : ¬ (l.track.elim false fun c => decide (t.val < c.val)) = true := by
    cases hl : l.track with
    | none => exact Bool.false_ne_true
    | some c => exact mt of_decide_eq_true (Nat.not_lt.mpr (hord c hl))
  rw [appendRecord_of_track htr hknown, if_neg hlate, htext, Option.elim_some, if_neg (by omega),
    if_neg fun k => Nat.not_lt.mpr (hfol k.1) k.2, if_neg (Nat.not_le.mpr hroom)]

theorem needsHandover_iff {n : Nat} : l.needsHandover t.val n = true
    ↔ l.staging ≠ [] ∧ (l.track ≠ some t ∨ 1024 < l.staging.length + n) := by
  have htrack : l.track.map (·.val) ≠ some t.val ↔ l.track ≠ some t := by
    cases l.track <;> simp [Fin.ext_iff]
  rw [Load.needsHandover, decide_eq_true_eq, htrack, Config.pageBytes]

end passed

/-! ### A batch (R9) -/

section batch

variable {id : Nat} {s : State} {p : Package} {info : PkgInfo} {l : Load} {r : RawRecord} {rs : List RawRecord}

/-- A batch is run where the package's load is in progress and its number of records is in range (R9). -/
theorem cueAppendAction_run (hp : s.package id = some p) (hst : p.state = .filling) (hl : s.load = some l) (hid : l.pkg = id)
    (hne : rs ≠ []) (hlen : rs.length ≤ 16) : cueAppendAction id rs s =
      appendReply (appendBatch id rs s .none_).1 (appendBatch id rs s .none_).2.1 (appendBatch id rs s .none_).2.2 := by
  have hload : s.loading id = true := by simp [State.loading, hl, hid]
  have hrange : ¬ (rs.length = 0 ∨ 16 < rs.length) := by
    rw [List.length_eq_zero_iff]
    exact fun h => h.elim hne (Nat.not_lt.mpr hlen)
  simp only [cueAppendAction, hp, hst, hload, if_neg hrange, ne_eq, not_true_eq_false, Bool.true_eq_false, or_self, if_false]

variable (hp : s.package id = some p) (hi : p.info = some info) (hl : s.load = some l)
include hp hi hl

theorem appendBatch_cons_refused (b : Batch) {c : Code} (hr : appendRecord s p info l r = .refused c) :
    appendBatch id (r :: rs) s b = (s, b, c) := by
  rw [appendBatch]
  simp only [hp, hl, hi, hr]

theorem appendBatch_cons_taken (b : Batch) {s' : State} {k : Nat} {c : Bool} (hr : appendRecord s p info l r = .taken s' k c) :
    appendBatch id (r :: rs) s b = appendBatch id rs s'
      { accepted := b.accepted + 1, first := some (b.first.getD k), clamps := b.clamps + (if c then 1 else 0) } := by
  rw [appendBatch]
  simp only [hp, hl, hi, hr]

variable (hst : p.state = .filling) (hid : l.pkg = id)
include hst hid

/-- A batch whose first record is refused is answered with that record's code, whatever follows (R9). -/
theorem cueAppendAction_first_refused (hlen : (r :: rs).length ≤ 16) {c : Code} (hr : appendRecord s p info l r = .refused c) :
    cueAppendAction id (r :: rs) s = done { s with free := s.free + 1 } c
      (u8 0 ++ u16 (Config.meaninglessCueNumber s.free).toNat ++ u8 c.code ++ u8 0) := by
  rw [cueAppendAction_run hp hst hl hid (List.cons_ne_nil r rs) hlen, appendBatch_cons_refused hp hi hl _ hr]
  rfl

theorem cueAppendAction_single_taken {s' : State} {k : Nat} {c : Bool} (hr : appendRecord s p info l r = .taken s' k c) :
    cueAppendAction id [r] s = done s' .ok (u8 1 ++ u16 k ++ u8 0 ++ u8 (if c then 1 else 0)) := by
  rw [cueAppendAction_run hp hst hl hid (List.cons_ne_nil r []) (by simp), appendBatch_cons_taken hp hi hl _ hr]
  cases c <;> rfl

end batch

/-- Settles O12: the one record needs no handover and is staged. -/
theorem cueAppendStagesARecord : Obligations.CueAppendStagesARecord := by
  unfold Obligations.CueAppendStagesARecord
  intro tag id recs r s p info l x t hacc hraw hp hst hi hl hid htr hknown htext hstart hend hrise hroom hord hfol hfits cue hcue
  have hpass : RecordPasses info l r x t := ⟨htr, hknown, hord, htext, hstart, hend, hrise, hfol, hroom⟩
  have hstay : ¬ l.needsHandover t.val (13 + linesSize x.lines) = true := by
    rw [needsHandover_iff]
    rintro ⟨hne, hout⟩
    obtain ⟨htrack, hlen⟩ := hfits hne
    exact hout.elim (· htrack) (Nat.not_lt.mpr hlen)
  have hrec := (appendRecord_passed s.taken p hpass).trans (if_neg hstay)
  rw [exec_cueAppend hacc tag id hraw, cueAppendAction_single_taken (s := s.taken) hp hi hl hst hid hrec, answer_done, package_id hp, hcue]
  simp only [State.stage, RawRecord.cue, RawRecord.clamped, decide_eq_true_eq]
  rfl

end Sys2Proof.Machine

/-! ## The handover of a staged page (O13) -/

namespace Sys2Proof.Machine

/-- A request of the host leaves the auditoriums as they are (R30). -/
theorem request_host_auds (s : State) (op : StoreOp) : (s.request (hostRequest op)).auds = s.auds := by
  unfold State.request
  dsimp only
  split <;> rfl

section handover

variable {s : State} {p : Package} {info : PkgInfo} {l : Load} {r : RawRecord} {x : CueText} {t : TextTrack}

/-- The refusals of a handover, the first that applies (R12). -/
theorem handoverRefused_eq_some {code : Code} (h : (512 ≤ p.pageCounts.get t ∧ code = .full)
      ∨ (p.pageCounts.get t < 512 ∧ s.swi = true ∧ code = .guarded)
      ∨ (p.pageCounts.get t < 512 ∧ s.swi = false ∧ s.slot ≠ none ∧ code = .busy)
      ∨ (p.pageCounts.get t < 512 ∧ s.swi = false ∧ s.slot = none ∧ s.pagesUsed p.lastBlock = 64
          ∧ (64 ≤ p.blocks.length ∨ s.pool = []) ∧ code = .full)) : s.handoverRefused p t = some code := by
  unfold State.handoverRefused
  rcases h with ⟨hn, rfl⟩ | ⟨hn, hswi, rfl⟩ | ⟨hn, hswi, hslot, rfl⟩ | ⟨hn, hswi, hslot, hused, hroom, rfl⟩
  · rw [if_pos hn]
  · rw [if_neg (Nat.not_le.mpr hn), if_pos hswi]
  · rw [if_neg (Nat.not_le.mpr hn), if_neg (by simp [hswi]), if_pos (Option.isSome_iff_ne_none.mpr hslot)]
  · rw [if_neg (Nat.not_le.mpr hn), if_neg (by simp [hswi]), if_neg (by simp [hslot]), if_pos ⟨hused, hroom⟩]

theorem handoverRefused_eq_none (hn : p.pageCounts.get t < 512) (hswi : s.swi = false) (hslot : s.slot = none)
    (hroom : s.pagesUsed p.lastBlock = 64 → p.blocks.length < 64 ∧ s.pool ≠ []) : s.handoverRefused p t = none := by
  unfold State.handoverRefused
  rw [if_neg (Nat.not_le.mpr hn), if_neg (by simp [hswi]), if_neg (by simp [hslot]), if_neg]
  rintro ⟨hused, hno⟩
  obtain ⟨hlen, hpool⟩ := hroom hused
  exact hno.elim (Nat.not_le.mpr hlen) hpool

/-- The block and page that a handover programs: the last block's next page, or page 0 of the lowest blank block, which joins the
package (R10). -/
structure HandedTo (s : State) (p : Package) (block page : Nat) (u : State) : Prop where
  package : ∀ q, s.package p.id = some q → u.package p.id
    = some { q with blocks := if s.pagesUsed p.lastBlock = 64 then q.blocks ++ [block] else q.blocks }
  owner : s.pagesUsed p.lastBlock = 64 → (u.block block).cls = .package ∧ (u.block block).owner = some p.id
  slot : u.slot = some { op := .loadPage p.id, waiting := none }
  flight : u.flight = s.flight
  flash : u.flash = s.flash
  auds : u.auds = s.auds
  notices : u.notices = s.notices

/-- The staged page is in the page register, and its load page program is the host store operation (R10, R33). -/
def State.handing (s : State) (p : Package) (l : Load) : State :=
  { s.setOp (.loadPage p.id) with
    pageReg := some (l.stagedImage p.serial), load := some { l with staging := [], handed := l.handed + 1 } }

/-- A blank block joins the block list of a package (R10, R28). -/
def State.joined (s : State) (p : Package) (b : Nat) : State :=
  (s.claim b .package p.id).modPackage p.id fun q => { q with blocks := q.blocks ++ [b] }

theorem handover_same (l : Load) (hused : s.pagesUsed p.lastBlock ≠ 64) :
    s.handover p l = (s.handing p l).hostWrite (.program p.lastBlock (s.block p.lastBlock).nextPage) := by
  unfold State.handover
  dsimp only
  rw [Config.pagesPerBlock, if_neg hused]
  rfl

theorem handover_fresh (l : Load) {b : Nat} (hused : s.pagesUsed p.lastBlock = 64) (hb : s.lowestBlank = some b) :
    s.handover p l = ((s.joined p b).handing p l).hostWrite (.program b ((s.joined p b).block b).nextPage) := by
  unfold State.handover
  dsimp only
  rw [Config.pagesPerBlock, if_pos hused, hb]
  rfl

theorem joined_eq (s : State) (p : Package) (b : Nat) : ∃ ps bl, s.joined p b = { s with packages := ps, blocks := bl } := ⟨_, _, rfl⟩

theorem joined_block (s : State) (p : Package) {b : Nat} (hb : b < 128) :
    (s.joined p b).block b = { s.block b with cls := .package, owner := some p.id } := by
  rw [block_of_blocks (s := s.claim b .package p.id) (t := s.joined p b) rfl, State.claim, block_modBlock_same s _ hb]

theorem joined_package (s : State) {p q : Package} (b : Nat) (hq : s.package p.id = some q) :
    (s.joined p b).package p.id = some { q with blocks := q.blocks ++ [b] } := by
  have hmod := package_modPackage (s.claim b .package p.id) p.id (fun q => { q with blocks := q.blocks ++ [b] }) fun _ => rfl
  rw [package_of_packages (s := s) (t := s.claim b .package p.id) rfl, hq] at hmod
  exact hmod

/-- A handover puts the staged page into the page register and asks for its load page program (R10, R33). -/
theorem handover_spec (l : Load) {block page : Nat} (hswi : s.swi = false)
    (hat : (s.pagesUsed p.lastBlock ≠ 64 ∧ block = p.lastBlock ∧ page = (s.block block).nextPage)
      ∨ (s.pagesUsed p.lastBlock = 64 ∧ s.lowestBlank = some block ∧ (s.block block).nextPage = 0 ∧ page = 0)) :
    ∃ u, s.handover p l = u.request (hostRequest (.program block page)) ∧ HandedTo s p block page u
      ∧ u.pageReg = some (l.stagedImage p.serial) ∧ u.load = some { l with staging := [], handed := l.handed + 1 } := by
  rcases hat with ⟨hused, rfl, rfl⟩ | ⟨hused, hblank, hfirst, rfl⟩
  · refine ⟨s.handing p l, (handover_same l hused).trans (hostWrite_free _ hswi), ?_, rfl, rfl⟩
    exact ⟨fun q hq => by rw [if_neg hused]; exact hq, fun h => absurd h hused, rfl, rfl, rfl, rfl, rfl⟩
  · have hb : block < 128 := (mem_pool.mp (List.mem_of_mem_head? hblank)).1
    have hjoined := joined_block s p hb
    have hpage : ((s.joined p block).block block).nextPage = 0 := by rw [hjoined, hfirst]
    have hrest : (s.joined p block).flight = s.flight ∧ (s.joined p block).flash = s.flash ∧ (s.joined p block).auds = s.auds
        ∧ (s.joined p block).notices = s.notices ∧ (s.joined p block).swi = s.swi := by
      obtain ⟨ps, bl, h⟩ := joined_eq s p block
      rw [h]
      exact ⟨rfl, rfl, rfl, rfl, rfl⟩
    obtain ⟨hflight, hflash, hauds, hnotices, hswi'⟩ := hrest
    refine ⟨(s.joined p block).handing p l, ?_, ⟨fun q hq => ?_, fun _ => ?_, rfl, hflight, hflash, hauds, hnotices⟩, rfl, rfl⟩
    · rw [handover_fresh l hused hblank, hpage]
      exact hostWrite_free _ (hswi'.trans hswi)
    · rw [if_pos hused]
      rw [package_of_packages (s := s.joined p block) (t := (s.joined p block).handing p l) rfl]
      exact joined_package s block hq
    · rw [block_of_blocks (s := s.joined p block) (t := (s.joined p block).handing p l) rfl, hjoined]
      exact ⟨rfl, rfl⟩

end handover

theorem stage_eq (s : State) (id : Nat) (l : Load) (t : TextTrack) (c : Cue) :
    ∃ ld ps, s.stage id l t c = { s with load := ld, packages := ps } := ⟨_, _, rfl⟩

/-- The first record of a page opens it (R11). -/
theorem stage_load_opening (s : State) (id : Nat) {l : Load} (t : TextTrack) (c : Cue) (h : l.staging = []) : (s.stage id l t c).load = some
    { l with
      staging := c.stored, track := some t, lastStart := c.startTick
      index := l.index.set t.val (l.index.get t ++ [{ logical := l.handed, firstCue := c.number, firstStart := c.startTick }]) t.isLt } := by
  simp [State.stage, h]

theorem stage_package (s : State) {id : Nat} {q : Package} (l : Load) (t : TextTrack) (c : Cue) (hq : s.package id = some q) :
    (s.stage id l t c).package id = some
      { q with
        info := q.info.map fun i => { i with cueCounts := i.cueCounts.set t.val (i.cueCounts.get t + 1) t.isLt }
        pageCounts := if l.staging = [] then q.pageCounts.set t.val (q.pageCounts.get t + 1) t.isLt else q.pageCounts } := by
  have hmod := package_modPackage s id (fun q =>
    { q with
      info := q.info.map fun i => { i with cueCounts := i.cueCounts.set t.val (i.cueCounts.get t + 1) t.isLt }
      pageCounts := if l.staging = [] then q.pageCounts.set t.val (q.pageCounts.get t + 1) t.isLt else q.pageCounts }) fun _ => rfl
  rw [hq, Option.map_some] at hmod
  simp only [State.stage, decide_eq_true_eq]
  exact hmod

/-- Settles O13: the record passes, and is refused with the handover or is the first of the next page. -/
theorem cueAppendHandsThePageOver : Obligations.CueAppendHandsThePageOver := by
  unfold Obligations.CueAppendHandsThePageOver
  intro tag id recs r s p info l x t c hacc hraw hp hst hi hl hid htr hknown htext hstart hend hrise hroom hc hord hfol hne hout full hfull
  have hct : l.track = some t ↔ c = t := by rw [hc, Option.some_inj]
  have hpass : RecordPasses info l r x t :=
    ⟨htr, hknown, fun c' h => by rw [hc] at h; cases h; exact hord, htext, hstart, hend, hrise, fun h => hfol (hct.mp h), hroom⟩
  have hneeds : l.needsHandover t.val (13 + linesSize x.lines) = true := by
    rw [needsHandover_iff]
    exact ⟨hne, hout.imp_left (mt hct.mp)⟩
  have hrec := (appendRecord_passed s.taken p hpass).trans (if_pos hneeds)
  have hpid := package_id hp
  rw [exec_cueAppend hacc tag id hraw]
  refine ⟨fun code hcode => ?_, fun block page hn hswi hslot hat => ?_⟩
  · have hrefused : s.taken.handoverRefused p t = some code :=
      handoverRefused_eq_some (by simpa [hfull] using hcode)
    rw [hrefused, Option.elim_some] at hrec
    rw [cueAppendAction_first_refused (s := s.taken) hp hi hl hst hid (by simp) hrec, answer_done]
    rfl
  · have hat' : (s.taken.pagesUsed p.lastBlock ≠ 64 ∧ block = p.lastBlock ∧ page = (s.taken.block block).nextPage)
        ∨ (s.taken.pagesUsed p.lastBlock = 64 ∧ s.taken.lowestBlank = some block ∧ (s.taken.block block).nextPage = 0 ∧ page = 0) := by
      rw [hfull] at hat
      rcases hat with ⟨hused, hb, hpg⟩ | ⟨hused, hlen, hrest⟩
      · exact .inl ⟨of_decide_eq_false hused, hb, hpg⟩
      · exact .inr ⟨of_decide_eq_true hused, hrest⟩
    have hnone : s.taken.handoverRefused p t = none := by
      refine handoverRefused_eq_none hn hswi hslot fun hused => ?_
      rw [hfull] at hat
      rcases hat with ⟨hnot, -⟩ | ⟨-, hlen, hblank, -⟩
      · exact absurd hused (of_decide_eq_false hnot)
      · exact ⟨hlen, List.ne_nil_of_mem (List.mem_of_mem_head? hblank)⟩
    obtain ⟨u, hu, ⟨hpk, hown, hsl, hfl, hflash, hauds, hno⟩, hreg, hload⟩ := handover_spec (s := s.taken) l hswi hat'
    obtain ⟨hsl', hld', hpk', hreg', hno', hblk', hflash', -⟩ := request_keeps u (hostRequest (.program block page))
    have hload' := hld'.trans hload
    rw [hnone, Option.elim_none, hu, hload', Option.elim_some] at hrec
    have hgoes := request_goes u (hostRequest (.program block page))
    rw [hfl] at hgoes
    obtain ⟨ld, ps, hstage⟩ := stage_eq (u.request (hostRequest (.program block page))) p.id { l with staging := [], handed := l.handed + 1 } t
      (r.cue info x t)
    rw [cueAppendAction_single_taken (s := s.taken) hp hi hl hst hid hrec, answer_done]
    refine ⟨_, rfl, ?_, ?_, ?_, ?_, ?_, ?_, ?_, ?_, ?_, ?_, ?_⟩
    · rw [replied_slot, hstage]
      exact (hsl'.trans hsl).trans (by rw [hpid])
    · rw [replied_pageReg, hstage]
      refine (hreg'.trans hreg).trans ?_
      rw [Load.stagedImage, hid, hc]
      rfl
    · rw [replied_flight, hstage]
      exact hgoes.1
    · rw [replied_flight, replied_queue, hstage]
      exact hgoes.2
    · rintro cue rfl
      rw [replied_load, stage_load_opening _ _ _ _ rfl, ← hid]
      rfl
    · have hpackage := hpk p (by rw [hpid]; exact hp)
      rw [← package_of_packages hpk'] at hpackage
      refine ⟨_, by rw [replied_package, ← hpid]; exact stage_package _ _ t _ hpackage, ?_, ?_⟩
      · by_cases hused : s.pagesUsed p.lastBlock = 64 <;> simp [hfull, hused]
      · exact (congrArg (fun v => Vector.get v t) (if_pos rfl)).trans (Vector.getElem_set_self t.isLt)
    · intro hf
      rw [replied_block, ← hpid, block_of_blocks (s := u) ((congrArg State.blocks hstage).trans hblk')]
      exact hown (of_decide_eq_true (hfull ▸ hf))
    · exact ⟨_, replied_replyBuf ..⟩
    · rw [replied_flash, hstage]
      exact hflash'.trans hflash
    · rw [replied_auds, hstage]
      exact (request_host_auds u _).trans hauds
    · rw [replied_notices, hstage]
      exact hno'.trans hno

end Sys2Proof.Machine

/-! ## CUE_APPEND as a batch (O14) -/

namespace Sys2Proof.Machine

/-! ### What a record leaves as it was -/

theorem hostWrite_eq (s : State) (op : StoreOp) :
    ∃ sl fl q au, s.hostWrite op = { s with slot := sl, flight := fl, queue := q, auds := au } := by
  by_cases h : s.swi = true
  · exact ⟨_, _, _, _, hostWrite_held op h⟩
  · obtain ⟨fl, q, au, hr⟩ := request_eq s (hostRequest op)
    exact ⟨_, fl, q, au, (hostWrite_free op (Bool.not_eq_true _ ▸ h)).trans hr⟩

/-- The part of the state that a record changes: the directory, the load, the blocks, the host operation and the engine. -/
def Appends (s s' : State) : Prop :=
  ∃ ps ld sl bl pr fl q au, s' = { s with
    packages := ps, load := ld, slot := sl, blocks := bl, pageReg := pr, flight := fl, queue := q, auds := au }

theorem Appends.refl (s : State) : Appends s s := ⟨_, _, _, _, _, _, _, _, rfl⟩

theorem Appends.trans {s t u : State} (h : Appends s t) (k : Appends t u) : Appends s u := by
  obtain ⟨_, _, _, _, _, _, _, _, rfl⟩ := h
  obtain ⟨ps, ld, sl, bl, pr, fl, q, au, rfl⟩ := k
  exact ⟨ps, ld, sl, bl, pr, fl, q, au, rfl⟩

theorem hostWrite_appends (s : State) (op : StoreOp) : Appends s (s.hostWrite op) := by
  obtain ⟨sl, fl, q, au, h⟩ := hostWrite_eq s op
  exact ⟨_, _, sl, _, _, fl, q, au, h⟩

theorem handing_appends (s : State) (p : Package) (l : Load) : Appends s (s.handing p l) := ⟨_, _, _, _, _, _, _, _, rfl⟩

theorem handover_appends (s : State) (p : Package) (l : Load) : Appends s (s.handover p l) := by
  unfold State.handover
  dsimp only
  refine .trans (.trans ?_ (handing_appends _ p l)) (hostWrite_appends _ _)
  split
  · exact ⟨_, _, _, _, _, _, _, _, rfl⟩
  · exact .refl s

theorem stage_appends (s : State) (id : Nat) (l : Load) (t : TextTrack) (c : Cue) : Appends s (s.stage id l t c) :=
  ⟨_, _, _, _, _, _, _, _, rfl⟩

theorem appendRecord_appends {s s' : State} {p : Package} {info : PkgInfo} {l : Load} {r : RawRecord} {k : Nat} {c : Bool}
    (h : appendRecord s p info l r = .taken s' k c) : Appends s s' := by
  have hleaves := appendRecord_leaves (P := Appends s) (s := s) (p := p) (l := l) info r (stage_appends s) fun _ _ _ _ =>
    (handover_appends s p l).trans (stage_appends _ _ _ _ _)
  rwa [h] at hleaves

theorem appendBatch_appends (id : Nat) (rs : List RawRecord) : ∀ (s : State) (b : Batch), Appends s (appendBatch id rs s b).1 := by
  induction rs with
  | nil => exact fun s _ => .refl s
  | cons r rs ih =>
    intro s b
    unfold appendBatch
    split
    · split
      · split
        · rename_i h
          exact (appendRecord_appends h).trans (ih _ _)
        · exact .refl s
      · exact .refl s
    · exact .refl s

/-! ### The counts of a batch (R9) -/

/-- The counts of two parts of a batch, the first of which accepted a record. -/
def Batch.after (b : Batch) (k : Nat) (x : Batch) : Batch :=
  { accepted := b.accepted + x.accepted, first := some k, clamps := b.clamps + x.clamps }

/-- The rest of a batch runs as it would alone, and its counts add to those so far. -/
theorem appendBatch_counts (id k : Nat) (rs : List RawRecord) : ∀ (s : State) (b x : Batch),
    appendBatch id rs s (b.after k x) = ((appendBatch id rs s x).1, b.after k (appendBatch id rs s x).2.1, (appendBatch id rs s x).2.2) := by
  induction rs with
  | nil => exact fun s b x => rfl
  | cons r rs ih =>
    intro s b x
    unfold appendBatch
    cases s.package id with
    | none => rfl
    | some p =>
      cases s.load with
      | none => rfl
      | some l =>
        cases hi : p.info with
        | none => simp only [hi]
        | some info =>
          simp only [hi]
          cases appendRecord s p info l r with
          | refused c => rfl
          | taken s' number c =>
            refine Eq.trans ?_ (ih s' b _)
            simp only [Batch.after, Option.getD_some, Nat.add_assoc]

section first

variable {id : Nat} {s : State} {p : Package} {info : PkgInfo} {l : Load} {r : RawRecord} {rest : List RawRecord}

/-- A record of a track that the package has not (R7 a). -/
theorem appendRecord_unknown_track (s : State) (p : Package) (l : Load) (h : info.text.length ≤ r.track) :
    appendRecord s p info l r = .refused .range :=
  dif_neg fun k => Nat.not_lt.mpr h k.1

/-- The refusals of a record of a track that the package has, the first that applies (R7 b to e). -/
theorem appendRecord_refused {t : TextTrack} {code : Code} (s : State) (p : Package) (htr : r.track = t.val)
    (hknown : t.val < info.text.length)
    (h : (∃ c, l.track = some c ∧ t.val < c.val ∧ code = .order)
      ∨ ((∀ c, l.track = some c → c.val ≤ t.val)
        ∧ (((checkedText r.placement r.speaker r.lines = none ∨ info.duration ≤ r.startTick ∨ 2147483647 < r.endTick
              ∨ r.endTick ≤ r.startTick) ∧ code = .range)
          ∨ ((checkedText r.placement r.speaker r.lines).isSome = true ∧ r.startTick < info.duration
            ∧ r.endTick ≤ 2147483647 ∧ r.startTick < r.endTick
            ∧ ((l.track = some t ∧ r.startTick < l.lastStart ∧ code = .order)
              ∨ ((l.track = some t → l.lastStart ≤ r.startTick) ∧ 65536 ≤ info.cueCounts.get t ∧ code = .full)))))) :
    appendRecord s p info l r = .refused code := by
  rw [appendRecord_of_track htr hknown]
  rcases h with ⟨c, hc, hlt, rfl⟩ | ⟨hord, h⟩
  · rw [if_pos (by rw [hc]; exact decide_eq_true hlt)]
  · have hlate : ¬ (l.track.elim false fun c => decide (t.val < c.val)) = true := by
      cases hl : l.track with
      | none => exact Bool.false_ne_true
      | some c => exact mt of_decide_eq_true (Nat.not_lt.mpr (hord c hl))
    rw [if_neg hlate]
    rcases h with ⟨hrange, rfl⟩ | ⟨htext, hstart, hend, hrise, h⟩
    · cases hx : checkedText r.placement r.speaker r.lines with
      | none => rfl
      | some x => exact if_pos (hrange.resolve_left (by rw [hx]; exact Option.some_ne_none x))
    · obtain ⟨x, hx⟩ := Option.isSome_iff_exists.mp htext
      rw [hx, Option.elim_some, if_neg (by omega)]
      rcases h with ⟨htrack, hlt, rfl⟩ | ⟨hfol, hfull, rfl⟩
      · exact if_pos ⟨htrack, hlt⟩
      · rw [if_neg fun k => Nat.not_lt.mpr (hfol k.1) k.2, if_pos hfull]

/-! ### A whole batch -/

theorem loading_eq_false (h : ∀ l, s.load = some l → l.pkg ≠ id) : s.loading id = false := by
  unfold State.loading
  cases hl : s.load with
  | none => rfl
  | some l => exact decide_eq_false (h l hl)

theorem loading_eq_true (h : s.loading id = true) : ∃ l, s.load = some l ∧ l.pkg = id := by
  unfold State.loading at h
  cases hl : s.load with
  | none => rw [hl] at h; cases h
  | some l => rw [hl] at h; exact ⟨l, rfl, of_decide_eq_true h⟩

/-- The refusals of a whole batch (R9). -/
theorem cueAppendAction_refused {rs : List RawRecord} {code : Code}
    (h : (s.package id = none ∧ code = .noSuch)
      ∨ (∃ p, s.package id = some p ∧ (p.state ≠ .filling ∨ ∀ l, s.load = some l → l.pkg ≠ id) ∧ code = .state)
      ∨ (∃ p l, s.package id = some p ∧ p.state = .filling ∧ s.load = some l ∧ l.pkg = id
          ∧ (rs = [] ∨ 16 < rs.length) ∧ code = .range)) : cueAppendAction id rs s = refused s code := by
  unfold cueAppendAction
  rcases h with ⟨hp, rfl⟩ | ⟨p, hp, hst, rfl⟩ | ⟨p, l, hp, hst, hl, hid, hrange, rfl⟩
  · rw [hp]
  · rw [hp]
    exact if_pos (hst.imp_right loading_eq_false)
  · have hload : s.loading id = true := by simp [State.loading, hl, hid]
    simp only [hp, hst, hload, ← List.length_eq_zero_iff] at hrange ⊢
    exact if_pos hrange

end first

/-! ### The first record and the rest of a batch -/

section parts

variable (id : Nat) (r : RawRecord) (s : State)

/-- A first record that is not accepted answers the whole batch, and its reply does not count one record. -/
def FirstRefused : Prop := ∃ t code vals, (∀ w, vals ≠ u8 1 ++ w) ∧
  ∀ rest : List RawRecord, (r :: rest).length ≤ 16 → cueAppendAction id (r :: rest) s = done t code vals

/-- A first record that is accepted leaves the rest of the batch to run, and the counts add up. -/
def FirstTaken (s' : State) (k c : Nat) : Prop := Appends s s' ∧
  ∀ rest : List RawRecord, (r :: rest).length ≤ 16 → cueAppendAction id (r :: rest) s =
    done (appendBatch id rest s' .none_).1 (appendBatch id rest s' .none_).2.2
      (u8 (1 + (appendBatch id rest s' .none_).2.1.accepted) ++ u16 k ++ u8 (appendBatch id rest s' .none_).2.2.code
        ++ u8 (c + (appendBatch id rest s' .none_).2.1.clamps))

variable {id r s}

theorem u8_zero_append_ne (v w : List Byte) : u8 0 ++ v ≠ u8 1 ++ w := by simp [u8]

theorem firstRefused_of_action {code : Code}
    (h : ∀ rest : List RawRecord, (r :: rest).length ≤ 16 → cueAppendAction id (r :: rest) s = refused s code) : FirstRefused id r s :=
  ⟨s, code, [], fun w => by simp [u8], h⟩

theorem firstRefused_of_batch {p : Package} {l : Load} {code : Code} (hp : s.package id = some p) (hst : p.state = .filling)
    (hl : s.load = some l) (hid : l.pkg = id) (h : ∀ rest, appendBatch id (r :: rest) s .none_ = (s, .none_, code)) : FirstRefused id r s := by
  refine ⟨{ s with free := s.free + 1 }, code, u8 0 ++ (u16 (Config.meaninglessCueNumber s.free).toNat ++ u8 code.code ++ u8 0),
    u8_zero_append_ne _, fun rest hlen => ?_⟩
  rw [cueAppendAction_run hp hst hl hid (List.cons_ne_nil r rest) hlen, h]
  rfl

theorem firstTaken_of_record {p : Package} {info : PkgInfo} {l : Load} {s' : State} {k : Nat} {c : Bool} (hp : s.package id = some p)
    (hst : p.state = .filling) (hi : p.info = some info) (hl : s.load = some l) (hid : l.pkg = id)
    (hr : appendRecord s p info l r = .taken s' k c) : FirstTaken id r s s' k (if c then 1 else 0) := by
  refine ⟨appendRecord_appends hr, fun rest hlen => ?_⟩
  have hcounts := appendBatch_counts id k rest s' { accepted := 1, first := some k, clamps := if c then 1 else 0 } .none_
  have hbatch := (appendBatch_cons_taken (rs := rest) hp hi hl .none_ hr).trans (Eq.trans (by simp [Batch.after, Batch.none_]) hcounts)
  rw [cueAppendAction_run hp hst hl hid (List.cons_ne_nil r rest) hlen, hbatch]
  rfl

/-- A first record is refused, or accepted and counted. -/
theorem firstRefused_or_taken : FirstRefused id r s ∨ ∃ s' k c, FirstTaken id r s s' k c := by
  cases hp : s.package id with
  | none => exact .inl (firstRefused_of_action fun rest _ => cueAppendAction_refused (.inl ⟨hp, rfl⟩))
  | some p =>
    by_cases hst : p.state = .filling
    · cases hload : s.loading id with
      | false =>
        refine .inl (firstRefused_of_action fun rest _ => cueAppendAction_refused (.inr (.inl ⟨p, hp, .inr fun l hl e => ?_, rfl⟩)))
        simp [State.loading, hl, e] at hload
      | true =>
        obtain ⟨l, hl, hid⟩ := loading_eq_true hload
        cases hi : p.info with
        | none => exact .inl (firstRefused_of_batch (code := .state) hp hst hl hid fun rest => by rw [appendBatch]; simp only [hp, hl, hi])
        | some info =>
          cases hr : appendRecord s p info l r with
          | refused code => exact .inl (firstRefused_of_batch hp hst hl hid fun rest => appendBatch_cons_refused hp hi hl _ hr)
          | taken s' k c => exact .inr ⟨s', k, _, firstTaken_of_record hp hst hi hl hid hr⟩
    · exact .inl (firstRefused_of_action fun rest _ => cueAppendAction_refused (.inr (.inl ⟨p, hp, .inl hst, rfl⟩)))

/-- A batch is refused as a whole, or answered with its counts; the first cue number of none is a free value (R9). -/
theorem cueAppendAction_eq (id : Nat) (rs : List RawRecord) (s : State) : (∃ code, cueAppendAction id rs s = refused s code)
    ∨ ∃ n f, cueAppendAction id rs s = done { (appendBatch id rs s .none_).1 with free := n } (appendBatch id rs s .none_).2.2
      (u8 (appendBatch id rs s .none_).2.1.accepted ++ u16 f ++ u8 (appendBatch id rs s .none_).2.2.code
        ++ u8 (appendBatch id rs s .none_).2.1.clamps) := by
  unfold cueAppendAction
  cases s.package id with
  | none => exact .inl ⟨_, rfl⟩
  | some p =>
    dsimp only
    split
    · exact .inl ⟨_, rfl⟩
    · split
      · exact .inl ⟨_, rfl⟩
      · right
        unfold appendReply
        split
        · exact ⟨_, _, rfl⟩
        · exact ⟨_, _, rfl⟩

end parts

/-- The values of a CUE_APPEND reply determine their bytes. -/
theorem appendVals_inj {a b f g d e x y : Nat} (h : u8 a ++ u16 f ++ u8 d ++ u8 x = u8 b ++ u16 g ++ u8 e ++ u8 y) :
    u8 a = u8 b ∧ u16 f = u16 g ∧ u8 d = u8 e ∧ u8 x = u8 y := by
  simpa [u8, u16, and_assoc] using h

theorem u8_add {a b x y : Nat} (h : u8 a = u8 b) (k : u8 x = u8 y) : u8 (a + x) = u8 (b + y) := by
  simp only [u8, List.cons.injEq, and_true] at h k ⊢
  rw [BitVec.ofNat_add, BitVec.ofNat_add, h, k]

theorem appendBatch_free (id : Nat) (rs : List RawRecord) (s : State) (b : Batch) : (appendBatch id rs s b).1.free = s.free := by
  obtain ⟨_, _, _, _, _, _, _, _, h⟩ := appendBatch_appends id rs s b
  rw [h]

theorem replied_free (s : State) (kind tag : Byte) (code : Code) (vals : List Byte) : (s.replied kind tag code vals).free = s.free := by
  obtain ⟨x, h⟩ := replied_eq s kind tag code vals
  rw [h]

/-- Taking the reply of a state back gives the state. -/
theorem replied_undone {s : State} (hb : s.replyBuf = .empty) (kind tag : Byte) (code : Code) (vals : List Byte) :
    ({ s.replied kind tag code vals with replyBuf := .empty, uartTx := s.uartTx } : State) = s := by
  obtain ⟨x, h⟩ := replied_eq s kind tag code vals
  rw [h, ← hb]

/-- Another reply instead of the one that a state has just given. -/
theorem replied_instead (s : State) (n : Nat) (kind tag : Byte) (code : Code) (vals vals' : List Byte) :
    ({ ({ s with free := n } : State).replied kind tag code vals with
      free := s.free, replyBuf := .ready { kind := replyKind kind, tag := tag, code := code, vals := vals' } } : State)
      = s.replied kind tag code vals' := by
  unfold State.replied State.ready State.startTx
  dsimp only
  cases s.linkSel <;> cases s.uartTx <;> rfl

/-- What an accepted record leaves as it was for the reply. -/
theorem Appends.same {s s' : State} (h : Appends s.taken s') (hs : s.Accepts) : s'.phase = .running ∧ s'.replyBuf = .empty
    ∧ s'.uartTx = s.uartTx ∧ s'.taken = s' := by
  obtain ⟨_, _, _, _, _, _, _, _, rfl⟩ := h
  obtain ⟨hphase, hempty⟩ := hs
  exact ⟨hphase, hempty, rfl, rfl⟩

/-- Settles O14: the refusals, and a batch as its first record and the rest. -/
theorem cueAppendRunsItsBatch : Obligations.CueAppendRunsItsBatch := by
  unfold Obligations.CueAppendRunsItsBatch
  intro tag id recs rs s hacc hraw
  rw [exec_cueAppend hacc tag id hraw]
  refine ⟨fun code h => ?_, fun code h => ?_, fun r rest recs1 recs2 u hrs hlen hraw1 hraw2 hu => ?_⟩
  · rw [cueAppendAction_refused (s := s.taken) h, answer_refused]
  · obtain ⟨p, info, l, r, rest, hp, hst, hi, hl, hid, rfl, hlen, htext, h⟩ := h
    have hrec : appendRecord s.taken p info l r = .refused code := by
      rcases h with ⟨htr, rfl⟩ | ⟨t, htr, hknown, h⟩
      · exact appendRecord_unknown_track _ _ _ htr
      · exact appendRecord_refused _ _ htr hknown h
    rw [cueAppendAction_first_refused (s := s.taken) hp hi hl hst hid hlen hrec, answer_done]
    rfl
  · subst hrs
    rw [exec_cueAppend hacc tag id hraw1] at hu
    have hu := Host.Outcome.next.inj hu
    rcases firstRefused_or_taken (id := id.toNat) (r := r) (s := s.taken) with ⟨t, c₀, vals₀, hne, hact⟩ | ⟨s', k₀, c₀, hs', hact⟩
    · rw [hact [] (by simp), answer_done] at hu
      rw [hact rest hlen, answer_done, hu]
      refine ⟨fun _ _ _ _ => rfl, fun k c a f c' code v _ _ _ _ hb => ?_⟩
      rw [← hu, replied_replyBuf] at hb
      have hvals := congrArg Reply.vals (ReplyBuf.ready.inj hb)
      exact absurd (hvals.trans (by simp only [List.append_assoc])) (hne (u16 k ++ (u8 0 ++ u8 c)))
    · have hone : cueAppendAction id.toNat [r] s.taken = done s' .ok (u8 1 ++ u16 k₀ ++ u8 0 ++ u8 c₀) := hact [] (by simp)
      rw [hone, answer_done] at hu
      refine ⟨fun code vals hb hne => ?_, fun k c a f c' code v _ _ _ _ hb hv hvb => ?_⟩
      · rw [← hu, replied_replyBuf] at hb
        exact absurd (congrArg Reply.code (ReplyBuf.ready.inj hb)).symm hne
      · rw [← hu, replied_replyBuf] at hb
        obtain ⟨-, hk, -, hc⟩ := appendVals_inj (congrArg Reply.vals (ReplyBuf.ready.inj hb))
        obtain ⟨hphase, hempty, htx, htaken⟩ := hs'.same hacc
        rw [← hu, ← htx, replied_undone hempty, exec_cueAppend (s := s') ⟨hphase, hempty⟩ tag id hraw2, htaken] at hv
        have hv := Host.Outcome.next.inj hv
        rw [hact rest hlen, answer_done]
        rcases cueAppendAction_eq id.toNat rest s' with ⟨code', h⟩ | ⟨n, g, h⟩
        · rw [h, answer_refused] at hv
          rw [← hv, replied_replyBuf] at hvb
          have hvals := congrArg Reply.vals (ReplyBuf.ready.inj hvb)
          simp [u8] at hvals
        · rw [h, answer_done] at hv
          rw [← hv, replied_replyBuf] at hvb
          have hcode : (appendBatch id.toNat rest s' .none_).2.2 = code := congrArg Reply.code (ReplyBuf.ready.inj hvb)
          obtain ⟨ha, -, -, hclamps⟩ := appendVals_inj (congrArg Reply.vals (ReplyBuf.ready.inj hvb))
          have hcounts : u8 (a + 1) ++ u16 k ++ u8 code.code ++ u8 (c + c')
              = u8 (1 + (appendBatch id.toNat rest s' .none_).2.1.accepted) ++ u16 k₀ ++ u8 (appendBatch id.toNat rest s' .none_).2.2.code
                ++ u8 (c₀ + (appendBatch id.toNat rest s' .none_).2.1.clamps) := by
            rw [Nat.add_comm a 1, u8_add rfl ha, hk, hcode, u8_add hc hclamps]
          have hfree' : u.free = (appendBatch id.toNat rest s' .none_).1.free := by rw [appendBatch_free, ← hu, replied_free]
          rw [← hv, hfree', hcounts, hcode]
          exact congrArg Host.Outcome.next (replied_instead _ n 0x11 tag _ _ _).symm

end Sys2Proof.Machine

/-! ## The erases of a delete and a reclaim (O18) -/

namespace Sys2Proof.Machine

/-! ### Steps that go on, and the ends of completions -/

/-- What a step of the host operation, requested or waiting on SWI, leaves as it was (R41). -/
theorem hostWrite_rest (s : State) (op : StoreOp) : (s.hostWrite op).packages = s.packages ∧ (s.hostWrite op).load = s.load
    ∧ (s.hostWrite op).notices = s.notices ∧ (s.hostWrite op).blocks = s.blocks ∧ (s.hostWrite op).pageReg = s.pageReg := by
  obtain ⟨sl, fl, q, au, h⟩ := hostWrite_eq s op
  rw [h]
  exact ⟨rfl, rfl, rfl, rfl, rfl⟩

/-- A completion that goes on with a step of the host operation leaves the rest as it was. -/
theorem going_rest (s : State) (op : StoreOp) : (s.hostWrite op).startNext.packages = s.packages ∧ (s.hostWrite op).startNext.load = s.load
    ∧ (s.hostWrite op).startNext.notices = s.notices ∧ (s.hostWrite op).startNext.blocks = s.blocks
    ∧ (s.hostWrite op).startNext.pageReg = s.pageReg := by
  obtain ⟨-, hpk, hld, hno, hbl, hreg, -, -⟩ := startNext_keeps_rest (s.hostWrite op)
  obtain ⟨hpk', hld', hno', hbl', hreg'⟩ := hostWrite_rest s op
  exact ⟨hpk.trans hpk', hld.trans hld', hno.trans hno', hbl.trans hbl', hreg.trans hreg'⟩

/-- The state after the erase of a host operation. -/
structure AfterErase (s e : State) (op : HostOp) : Prop where
  slot : e.slot = some { op := op, waiting := none }
  packages : e.packages = s.packages
  notices : e.notices = s.notices
  flight : e.flight ≠ none
  queue : e.queue = s.queue
  swi : e.swi = s.swi

theorem afterErase_erased {s : State} {b : Nat} {op : HostOp} (ok : Bool) (he : s.hostErase = some b)
    (hs : s.slot = some { op := op, waiting := none }) : AfterErase s (s.erased b ok) op := by
  obtain ⟨hslot, hpk, -, hno, hfl, hq, hswi, -⟩ := erased_keeps s b ok
  exact ⟨hslot.trans hs, hpk, hno, fun h => flight_ne_none_of_erase he (hfl ▸ h), hq, hswi⟩

/-- A block that is retired after its erase gets a RETIRE tag, and the operation stays (R40). -/
theorem retireTag_goes {s e : State} {op : HostOp} (h : AfterErase s e op) (b : Nat) :
    s.GoesOnWith (e.retireTag b).startNext op (.program b 0) (pageAddr b 0) ∧ (e.retireTag b).startNext.pageReg = some retireImage
      ∧ (e.retireTag b).startNext.packages = s.packages ∧ (e.retireTag b).startNext.notices = s.notices
      ∧ (e.retireTag b).startNext.blocks = e.blocks := by
  obtain ⟨hpk, -, hno, hbl, hreg⟩ := going_rest ({ e with pageReg := some retireImage } : State) (.program b 0)
  exact ⟨goesOnWith_hostWrite (u := ({ e with pageReg := some retireImage } : State)) h.slot h.swi h.queue h.flight fun _ => rfl,
    hreg, hpk.trans h.packages, hno.trans h.notices, hbl⟩

/-- An operation that goes on with the erase of its next block. -/
theorem erase_goes {s e u : State} {op op' : HostOp} {c : Nat} (h : AfterErase s e op) (hslot : u.slot = some { op := op', waiting := none })
    (hpk : u.packages = e.packages) (hno : u.notices = e.notices) (hfl : u.flight = e.flight) (hq : u.queue = e.queue) (hswi : u.swi = e.swi) :
    s.GoesOnWith (u.hostWrite (.erase c)).startNext op' (.erase c) c ∧ (u.hostWrite (.erase c)).startNext.packages = s.packages
      ∧ (u.hostWrite (.erase c)).startNext.notices = s.notices ∧ (u.hostWrite (.erase c)).startNext.blocks = u.blocks := by
  obtain ⟨hpk', -, hno', hbl, -⟩ := going_rest u (.erase c)
  exact ⟨goesOnWith_hostWrite hslot (hswi.trans h.swi) (hq.trans h.queue) (fun k => h.flight (hfl ▸ k)) fun _ => rfl,
    hpk'.trans (hpk.trans h.packages), hno'.trans (hno.trans h.notices), hbl⟩

/-- A released block. -/
theorem block_release (s : State) {b : Nat} (cls : BlockClass) (h : b < 128) :
    (s.release b cls).block b = { cls := cls, owner := none, nextPage := (s.block b).nextPage, marked := false } :=
  (block_modBlock_same s (fun r => { r with cls := cls, owner := none, marked := false }) h).trans rfl

/-- The block of an erase that succeeded on it unmarked, returned to the pool (R23, R39). -/
theorem block_freed {s : State} {b : Nat} (ok : Bool) (h : b < 128) :
    ((s.erased b ok).release b .blank).block b = { cls := .blank, owner := none, nextPage := 0, marked := false } := by
  rw [block_release _ _ h, block_erased s ok h]

theorem deleteErased_free {s : State} {id b m : Nat} {rest : List Nat} {ok : Bool} (h : b < 128) (hok : ok = true)
    (hm : (s.block b).marked = false) :
    s.deleteErased id b rest m ok = ((s.erased b ok).release b .blank).deleteNext id rest m :=
  if_pos ⟨hok, by rw [block_erased s ok h]; exact hm⟩

theorem reclaimErased_free {s : State} {b k m : Nat} {rest : List Nat} {ok : Bool} (h : b < 128) (hok : ok = true)
    (hm : (s.block b).marked = false) :
    s.reclaimErased b rest k m ok = ((s.erased b ok).release b .blank).reclaimNext rest (k + 1) m :=
  if_pos ⟨hok, by rw [block_erased s ok h]; exact hm⟩

theorem not_ok_and_unmarked {s : State} {b : Nat} {ok : Bool} (h : b < 128) (hbad : ok = false ∨ (s.block b).marked = true) :
    ¬ (ok = true ∧ ((s.erased b ok).block b).marked = false) := by
  rw [block_erased s ok h]
  rintro ⟨hok, hm⟩
  rcases hbad with hbad | hbad
  · exact Bool.false_ne_true (hbad.symm.trans hok)
  · exact Bool.false_ne_true (hm.symm.trans hbad)

theorem deleteErased_retire {s : State} {id b m : Nat} {rest : List Nat} {ok : Bool} (h : b < 128)
    (hbad : ok = false ∨ (s.block b).marked = true) : s.deleteErased id b rest m ok = (s.erased b ok).retireTag b :=
  if_neg (not_ok_and_unmarked h hbad)

theorem reclaimErased_retire {s : State} {b k m : Nat} {rest : List Nat} {ok : Bool} (h : b < 128)
    (hbad : ok = false ∨ (s.block b).marked = true) : s.reclaimErased b rest k m ok = (s.erased b ok).retireTag b :=
  if_neg (not_ok_and_unmarked h hbad)

/-- The end of a delete: the entry is removed and STORE_DONE raised (R23). -/
theorem deleteNext_nil (s : State) (id m : Nat) : (s.deleteNext id [] m).startNext.package id = none
    ∧ (s.deleteNext id [] m).startNext.slot = none
    ∧ (s.deleteNext id [] m).startNext.notices = addNotice .store .storeDone (u8 id ++ [3] ++ u8 m) s.notices
    ∧ (s.deleteNext id [] m).startNext.blocks = s.blocks := by
  obtain ⟨hslot, hpk, -, hno, hbl, -, -, -⟩ := startNext_keeps_rest (s.deleteNext id [] m)
  exact ⟨(package_of_packages hpk id).trans (package_dropPackage s id), hslot, hno, hbl⟩

/-- The end of a reclaim: STORE_DONE is raised (R42). -/
theorem reclaimNext_nil (s : State) (k m : Nat) : (s.reclaimNext [] k m).startNext.packages = s.packages
    ∧ (s.reclaimNext [] k m).startNext.slot = none
    ∧ (s.reclaimNext [] k m).startNext.notices = addNotice .store .storeDone ([4] ++ u8 k ++ u8 m) s.notices
    ∧ (s.reclaimNext [] k m).startNext.blocks = s.blocks := by
  obtain ⟨hslot, hpk, -, hno, hbl, -, -, -⟩ := startNext_keeps_rest (s.reclaimNext [] k m)
  exact ⟨hpk, hslot, hno, hbl⟩

/-- Settles O18: after the erase of each operation, the freed block and the next one, or the RETIRE tag. -/
theorem erasesFreeOrRetireBlocks : Obligations.ErasesFreeOrRetireBlocks := by
  unfold Obligations.ErasesFreeOrRetireBlocks
  intro s block b rest k m ok he hb
  have hfreed := block_freed (s := s) ok hb
  have herased := block_erased s ok hb
  refine ⟨fun id hslot => ?_, fun hslot => ?_⟩
  · have hafter := afterErase_erased ok he hslot
    rw [exec_deleteEraseDone ok he (congrArg (Option.map HostSlot.op) hslot)]
    refine ⟨fun hok hm => ⟨_, rfl, ?_⟩, fun hbad => ⟨_, rfl, ?_⟩⟩
    · rw [State.complete, deleteErased_free hb hok hm]
      cases rest with
      | nil =>
        obtain ⟨hpk, hsl, hno, hbl⟩ := deleteNext_nil ((s.erased block ok).release block .blank) id m
        refine ⟨(block_of_blocks hbl block).trans hfreed, fun _ => ⟨hpk, hsl, hno.trans ?_⟩, fun c cs h => (by cases h)⟩
        exact congrArg _ hafter.notices
      | cons c cs =>
        obtain ⟨hgo, hpk, hno, hbl⟩ := erase_goes (u := ((s.erased block ok).release block .blank).setOp (.delete id c cs m)) (c := c) hafter
          rfl rfl rfl rfl rfl rfl
        refine ⟨(block_of_blocks hbl block).trans hfreed, fun h => (by cases h), fun c' cs' h => ?_⟩
        cases h
        exact ⟨hpk, hno, hgo⟩
    · obtain ⟨hgo, hreg, hpk, hno, hbl⟩ := retireTag_goes hafter block
      rw [State.complete, deleteErased_retire hb hbad, block_of_blocks hbl, herased]
      exact ⟨rfl, rfl, hreg, hpk, hno, hgo⟩
  · have hafter := afterErase_erased ok he hslot
    rw [exec_reclaimEraseDone ok he (congrArg (Option.map HostSlot.op) hslot)]
    refine ⟨fun hok hm => ⟨_, rfl, ?_⟩, fun hbad => ⟨_, rfl, ?_⟩⟩
    · rw [State.complete, reclaimErased_free hb hok hm]
      cases rest with
      | nil =>
        obtain ⟨hpk, hsl, hno, hbl⟩ := reclaimNext_nil ((s.erased block ok).release block .blank) (k + 1) m
        refine ⟨(block_of_blocks hbl block).trans hfreed, hpk.trans hafter.packages, fun _ => ⟨hsl, hno.trans ?_⟩, fun c cs h => (by cases h)⟩
        exact congrArg _ hafter.notices
      | cons c cs =>
        obtain ⟨hgo, hpk, hno, hbl⟩ := erase_goes (u := ((s.erased block ok).release block .blank).setOp (.reclaim c cs (k + 1) m)) (c := c)
          hafter rfl rfl rfl rfl rfl rfl
        refine ⟨(block_of_blocks hbl block).trans hfreed, hpk, fun h => (by cases h), fun c' cs' h => ?_⟩
        cases h
        exact ⟨hno, hgo⟩
    · obtain ⟨hgo, hreg, hpk, hno, hbl⟩ := retireTag_goes hafter block
      rw [State.complete, reclaimErased_retire hb hbad, block_of_blocks hbl, herased]
      exact ⟨rfl, rfl, hreg, hpk, hno, hgo⟩

end Sys2Proof.Machine

/-! ## The programs of a load and of a seal end (O15) -/

namespace Sys2Proof.Machine

section programs

variable {s : State} {block page id : Nat} {p : Package}

theorem programmed_package (s : State) (block page id : Nat) (ok : Bool) : (s.programmed block page ok).package id = s.package id :=
  package_of_packages (programmed_keeps s block page ok).2.1 id

theorem setPkgState_package (s : State) (st : PkgState) (hp : s.package id = some p) :
    (s.setPkgState id st).package id = some { p with state := st } := by
  have h := package_modPackage s id (fun p => { p with state := st }) fun _ => rfl
  rw [hp] at h
  exact h

/-! ### Load pages (R13) -/

section load

variable {l : Load} (hl : s.load = some l) (hid : l.pkg = id)
include hl hid

theorem loadProgramDone_ok : s.loadProgramDone id block page true = (s.programmed block page true).endOp := by
  have hload : (s.programmed block page true).endOp.load = some l := (programmed_keeps s block page true).2.2.1.trans hl
  unfold State.loadProgramDone
  dsimp only
  rw [hload, Option.any_some, if_pos (decide_eq_true hid)]
  rfl

theorem loadProgramDone_failed : s.loadProgramDone id block page false =
    ({ (s.programmed block page false).endOp.setPkgState id .failed with load := none } : State).storeFail id opLoad causeProgramFail := by
  have hload : (s.programmed block page false).endOp.load = some l := (programmed_keeps s block page false).2.2.1.trans hl
  unfold State.loadProgramDone
  dsimp only
  rw [hload, Option.any_some, if_pos (decide_eq_true hid)]
  rfl

end load

/-! ### The steps of a seal (R15) -/

variable {info : PkgInfo} {l : Load} {step : Nat}

theorem sealProgramDone_failed (hp : s.package id = some p) : s.sealProgramDone id step l block page false =
    ((s.programmed block page false).setPkgState id .failed).endOp.storeFail id opSeal causeProgramFail := by
  unfold State.sealProgramDone
  simp only [programmed_package, hp, if_true]

theorem sealProgramDone_last (hp : s.package id = some p) (hi : p.info = some info) (hlast : step + 1 = (sealPages p info l).length) :
    s.sealProgramDone id step l block page true =
      ((s.programmed block page true).modPackage id fun p => { p with state := .ready, indexLoc := l.indexLocs }).endOp.raise
        .store .storeDone (u8 id ++ u8 opSeal) := by
  unfold State.sealProgramDone
  simp only [programmed_package, hp, hi, Option.map_some, Option.getD_some, hlast, Nat.lt_irrefl, if_false, Bool.true_eq_false]

theorem sealProgramDone_next (hp : s.package id = some p) (hi : p.info = some info) (hnext : step + 1 < (sealPages p info l).length) :
    s.sealProgramDone id step l block page true = (s.programmed block page true).sealStep id (step + 1) l := by
  unfold State.sealProgramDone
  simp only [programmed_package, hp, hi, Option.map_some, Option.getD_some, if_pos hnext, if_false, Bool.true_eq_false]

/-- The page of a seal's step is in the page register (R15, R33). -/
def State.sealAt (s : State) (id step : Nat) (l : Load) (img : PageImage) : State :=
  { s.setOp (.sealing id step l) with pageReg := some img }

theorem nextAlong_eq {bs : List Nat} {b : Nat} (hb : (bs.find? fun x => decide ((s.block x).nextPage < 64)) = some b) :
    s.nextAlong bs = some (b, (s.block b).nextPage) := congrArg (Option.map fun b => (b, (s.block b).nextPage)) hb

/-- A step of a seal that has a page to program and a place for it. -/
theorem sealStep_eq (hp : s.package id = some p) (hi : p.info = some info) {img : PageImage} (himg : (sealPages p info l)[step]? = some img)
    {b : Nat} (hb : (p.blocks.find? fun x => decide ((s.block x).nextPage < 64)) = some b) :
    s.sealStep id step l = (s.sealAt id step l img).hostWrite (.program b (s.block b).nextPage) := by
  unfold State.sealStep
  simp only [hp, hi, Option.bind_some, himg, nextAlong_eq hb]
  rfl

end programs

/-- Settles O15: by the outcome of the program and the page of the seal. -/
theorem loadAndSealProgramsEnd : Obligations.LoadAndSealProgramsEnd := by
  unfold Obligations.LoadAndSealProgramsEnd
  intro s block page id p hprog hb hp
  have hok := block_programmed s page true hb
  have hfail := block_programmed s page false hb
  refine ⟨fun l hl hid hop => ⟨?_, ?_⟩, fun info step l hi hop => ⟨?_, fun data count loc hdata hcount hloc hlast => ?_,
    fun hnext b q hfind hq => ?_⟩⟩
  · refine ⟨_, exec_loadPageProgramDone true hprog hop, ?_⟩
    rw [State.complete, loadProgramDone_ok hl hid]
    obtain ⟨hslot, hpk, hld, hno, hbl, hreg, -, -⟩ := startNext_keeps_rest (s.programmed block page true).endOp
    obtain ⟨-, hpk', hld', hno', -⟩ := programmed_keeps s block page true
    refine ⟨hslot, hreg, hno.trans hno', hld.trans hld', hpk.trans hpk', ?_⟩
    rw [block_of_blocks (s := s.programmed block page true) hbl, hok]
  · refine ⟨_, exec_loadPageProgramDone false hprog hop, ?_⟩
    rw [State.complete, loadProgramDone_failed hl hid]
    obtain ⟨hslot, hpk, hld, hno, hbl, -⟩ := startNext_keeps_rest
      (({ (s.programmed block page false).endOp.setPkgState id .failed with load := none } : State).storeFail id opLoad causeProgramFail)
    have hblock := block_of_blocks (s := s.programmed block page false) hbl block
    refine ⟨hslot, hld, ?_, ?_, ?_, hno.trans ?_⟩
    · rw [package_of_packages (s := (s.programmed block page false).endOp.setPkgState id .failed) hpk]
      exact setPkgState_package _ _ ((programmed_package s block page id false).trans hp)
    · rw [hblock, hfail]
      exact Bool.or_true _
    · rw [hblock, hfail]
    · exact congrArg _ (programmed_keeps s block page false).2.2.2.1
  · refine ⟨_, exec_sealStepDone false hprog hop, ?_⟩
    rw [State.complete, sealProgramDone_failed hp]
    obtain ⟨hslot, hpk, hld, hno, hbl, hreg, -⟩ := startNext_keeps_rest
      (((s.programmed block page false).setPkgState id .failed).endOp.storeFail id opSeal causeProgramFail)
    have hblock := block_of_blocks (s := s.programmed block page false) hbl block
    refine ⟨hslot, hreg, hld.trans (programmed_keeps s block page false).2.2.1, ?_, ?_, ?_, hno.trans ?_⟩
    · rw [package_of_packages (s := (s.programmed block page false).setPkgState id .failed) hpk]
      exact setPkgState_package _ _ ((programmed_package s block page id false).trans hp)
    · rw [hblock, hfail]
      exact Bool.or_true _
    · rw [hblock, hfail]
    · exact congrArg _ (programmed_keeps s block page false).2.2.2.1
  · refine ⟨_, exec_sealStepDone true hprog hop, ?_⟩
    rw [State.complete, sealProgramDone_last hp hi hlast]
    obtain ⟨hslot, hpk, hld, hno, -, hreg, -⟩ := startNext_keeps_rest
      (((s.programmed block page true).modPackage id fun p => { p with state := .ready, indexLoc := l.indexLocs }).endOp.raise
        .store .storeDone (u8 id ++ u8 opSeal))
    have hlocs : loc = l.indexLocs := by
      rw [hloc, hdata, hcount, hcount, hcount, hcount]
      rfl
    have hmod := package_modPackage (s.programmed block page true) id (fun p => { p with state := .ready, indexLoc := l.indexLocs })
      fun _ => rfl
    rw [programmed_package, hp, Option.map_some] at hmod
    refine ⟨hslot, hreg, hld.trans (programmed_keeps s block page true).2.2.1, ?_, hno.trans ?_⟩
    · rw [package_of_packages hpk, hlocs]
      exact hmod
    · exact congrArg _ (programmed_keeps s block page true).2.2.2.1
  · obtain ⟨img, himg⟩ : ∃ img, (sealPages p info l)[step + 1]? = some img := ⟨_, List.getElem?_eq_getElem hnext⟩
    refine ⟨_, exec_sealStepDone true hprog hop, ?_⟩
    rw [State.complete, sealProgramDone_next hp hi hnext,
      sealStep_eq ((programmed_package s block page id true).trans hp) hi himg hfind, ← hq]
    obtain ⟨hpk, hld, hno, -, hreg⟩ := going_rest ((s.programmed block page true).sealAt id (step + 1) l img) (.program b q)
    obtain ⟨-, hpk', hld', hno', hfl, hqueue, hswi, -⟩ := programmed_keeps s block page true
    refine ⟨hreg.trans himg.symm, ?_, hld.trans hld', hno.trans hno', ?_⟩
    · rw [package_of_packages (s := s) (hpk.trans hpk'), hp]
    · exact goesOnWith_hostWrite (u := (s.programmed block page true).sealAt id (step + 1) l img) rfl hswi hqueue
        (fun h => flight_ne_none_of_program hprog (hfl ▸ h)) fun _ => rfl

end Sys2Proof.Machine

/-! ## PACKAGE_SEAL (O16) -/

namespace Sys2Proof.Machine

/-! ### The blank blocks that a seal takes -/

/-- Blocks taken for a package, one after the other (R14, R28). -/
def State.claimAll (s : State) (bs : List Nat) (id : Nat) : State := bs.foldl (fun s b => s.claim b .package id) s

theorem block_claim_same (s : State) {b : Nat} (cls : BlockClass) (id : Nat) (h : b < 128) :
    (s.claim b cls id).block b = { s.block b with cls := cls, owner := some id } := block_modBlock_same s _ h

theorem block_claim_other (s : State) {b c : Nat} (cls : BlockClass) (id : Nat) (h : c ≠ b) : (s.claim b cls id).block c = s.block c :=
  block_modBlock_other s _ h

theorem claim_nextPage (s : State) (b : Nat) (cls : BlockClass) (id c : Nat) :
    ((s.claim b cls id).block c).nextPage = (s.block c).nextPage := by
  by_cases h : c = b
  · subst h
    by_cases hc : c < 128
    · rw [block_claim_same s cls id hc]
    · simp [State.claim, State.modBlock, State.block, Vector.setIfInBounds, hc]
  · rw [block_claim_other s cls id h]

theorem claimAll_eq (id : Nat) (bs : List Nat) : ∀ s : State, ∃ bl, s.claimAll bs id = { s with blocks := bl } := by
  induction bs with
  | nil => exact fun s => ⟨s.blocks, rfl⟩
  | cons b bs ih =>
    intro s
    obtain ⟨bl, h⟩ := ih (s.claim b .package id)
    exact ⟨bl, h⟩

theorem claimAll_nextPage (id c : Nat) (bs : List Nat) : ∀ s : State, ((s.claimAll bs id).block c).nextPage = (s.block c).nextPage := by
  induction bs with
  | nil => exact fun s => rfl
  | cons b bs ih => exact fun s => (ih (s.claim b .package id)).trans (claim_nextPage s b .package id c)

theorem claimAll_of_taken (id c : Nat) (bs : List Nat) : ∀ s : State, (s.block c).cls = .package ∧ (s.block c).owner = some id →
    ((s.claimAll bs id).block c).cls = .package ∧ ((s.claimAll bs id).block c).owner = some id := by
  induction bs with
  | nil => exact fun s h => h
  | cons b bs ih =>
    intro s h
    refine ih (s.claim b .package id) ?_
    by_cases hc : c = b
    · subst hc
      by_cases hlt : c < 128
      · rw [block_claim_same s _ id hlt]
        exact ⟨rfl, rfl⟩
      · simp [State.claim, State.modBlock, State.block, Vector.setIfInBounds, hlt] at h ⊢
        exact h
    · rw [block_claim_other s _ id hc]
      exact h

/-- Each of the blocks taken is the package's. -/
theorem claimAll_mem (id : Nat) {c : Nat} (hc : c < 128) (bs : List Nat) : ∀ s : State, c ∈ bs →
    ((s.claimAll bs id).block c).cls = .package ∧ ((s.claimAll bs id).block c).owner = some id := by
  induction bs with
  | nil => exact fun s h => absurd h List.not_mem_nil
  | cons b bs ih =>
    intro s h
    rcases List.mem_cons.mp h with rfl | h
    · refine claimAll_of_taken id c bs (s.claim c .package id) ?_
      rw [block_claim_same s _ id hc]
      exact ⟨rfl, rfl⟩
    · exact ih (s.claim b .package id) h

/-! ### The first step of a seal -/

section sealing

variable {s : State} {p : Package} {info : PkgInfo} {l : Load} {id : Nat}

/-- A step of a seal changes the page register, the slot and the requests only. -/
theorem sealStep_rest (s : State) (id step : Nat) (l : Load) : (s.sealStep id step l).packages = s.packages
    ∧ (s.sealStep id step l).load = s.load ∧ (s.sealStep id step l).blocks = s.blocks ∧ (s.sealStep id step l).flash = s.flash := by
  unfold State.sealStep
  split
  · split
    · rename_i img b page _ _
      obtain ⟨hpk, hld, -, hbl, -⟩ := hostWrite_rest (s.sealAt id step l img) (.program b page)
      exact ⟨hpk, hld, hbl, (hostWrite_keeps_laws _ _).flash⟩
    · exact ⟨rfl, rfl, rfl, rfl⟩
  · exact ⟨rfl, rfl, rfl, rfl⟩

theorem sealStep_slot (s : State) (id step : Nat) (l : Load) (hswi : s.swi = false)
    (hslot : s.slot = some { op := .sealing id step l, waiting := none }) : (s.sealStep id step l).slot = s.slot := by
  unfold State.sealStep
  split
  · split
    · rename_i img b page _ _
      exact (congrArg State.slot (hostWrite_free (s := s.sealAt id step l img) (.program b page) hswi)).trans
        ((request_slot _ _).trans hslot.symm)
    · rfl
  · rfl

/-- The package SEALING with the blocks it takes, and the seal in the slot with the load that it keeps (R14). -/
def State.sealed (s : State) (id : Nat) (bs : List Nat) (l : Load) : State :=
  { ((s.claimAll bs id).modPackage id fun p => { p with state := .sealing, blocks := p.blocks ++ bs }).setOp (.sealing id 0 l) with
    load := none }

theorem packageSealAction_accepted (hp : s.package id = some p) (hst : p.state = .filling) (hl : s.load = some l) (hid : l.pkg = id)
    (hswi : s.swi = false) (hslot : s.slot = none) (hroom : l.sealNeeds ≤ s.sealRoom p) :
    packageSealAction id s = done ((s.sealed id (s.sealBlocks p l) l).sealStep id 0 l) .accepted [] := by
  unfold packageSealAction
  simp only [hp, hl, hst, hid, hswi, hslot, if_neg (Nat.not_lt.mpr hroom), ne_eq, not_true_eq_false, or_self, if_false, Bool.false_eq_true,
    Option.isSome_none]
  rfl

theorem sealed_eq (s : State) (id : Nat) (bs : List Nat) (l : Load) : ∃ ps bl, s.sealed id bs l =
    { s with packages := ps, blocks := bl, load := none, slot := some { op := .sealing id 0 l, waiting := none } } := by
  obtain ⟨bl, h⟩ := claimAll_eq id bs s
  unfold State.sealed
  rw [h]
  exact ⟨_, _, rfl⟩

theorem sealed_package (s : State) (bs : List Nat) (l : Load) (hp : s.package id = some p) :
    (s.sealed id bs l).package id = some { p with state := .sealing, blocks := p.blocks ++ bs } := by
  obtain ⟨bl, h⟩ := claimAll_eq id bs s
  have hmod := package_modPackage (s.claimAll bs id) id (fun p => { p with state := .sealing, blocks := p.blocks ++ bs }) fun _ => rfl
  rw [package_of_packages (t := s.claimAll bs id) (s := s) (by rw [h]), hp] at hmod
  exact hmod

theorem sealed_block (s : State) (bs : List Nat) (l : Load) (c : Nat) : (s.sealed id bs l).block c = (s.claimAll bs id).block c := rfl

theorem sealNeeds_eq (l : Load) : l.sealNeeds = (if l.staging = [] then 0 else 1) + (((l.index.get 0).length + 127) / 128
    + (((l.index.get 1).length + 127) / 128 + (((l.index.get 2).length + 127) / 128 + ((l.index.get 3).length + 127) / 128))) + 1 := rfl

theorem pagesLeft_eq (s : State) (p : Package) :
    s.pagesLeft p = if (s.block p.lastBlock).marked then 0 else 64 - (s.block p.lastBlock).nextPage := by
  unfold State.pagesLeft State.pagesUsed
  rw [Config.pagesPerBlock]
  split <;> rfl

end sealing

/-- Settles O16: the pages of a seal, and the command test by test. -/
theorem packageSealIsAccepted : Obligations.PackageSealIsAccepted := by
  unfold Obligations.PackageSealIsAccepted
  refine ⟨fun p info l => rfl, fun tag id s hacc => ?_⟩
  simp only [exec_packageSeal hacc]
  refine ⟨fun hn => by simp [packageSealAction, hn], fun p hp => ⟨fun hst => ?_, fun l hl hid hst => ⟨fun hswi => ?_, fun hswi hslot => ?_,
    fun needs left hneeds hleft hswi hslot => ⟨fun hroom => ?_, fun hroom => ?_⟩⟩⟩⟩
  · cases hl : s.load with
    | none => simp [packageSealAction, hp, hl]
    | some l =>
      have hno : p.state ≠ .filling ∨ l.pkg ≠ id.toNat := hst.imp_right fun h => h l hl
      simp [packageSealAction, hp, hl, hno]
  · simp [packageSealAction, hp, hl, hst, hid, hswi]
  · simp [packageSealAction, hp, hl, hst, hid, hswi, Option.isSome_iff_ne_none.mpr hslot]
  · have hfull : s.taken.sealRoom p < l.sealNeeds := by
      rw [sealNeeds_eq, ← hneeds, State.sealRoom, pagesLeft_eq]
      exact hleft ▸ hroom
    simp [packageSealAction, hp, hl, hst, hid, hswi, hslot, hfull]
  · have hfits : l.sealNeeds ≤ s.taken.sealRoom p := by
      rw [sealNeeds_eq, ← hneeds, State.sealRoom, pagesLeft_eq]
      exact hleft ▸ hroom
    rw [packageSealAction_accepted (s := s.taken) hp hst hl hid hswi hslot hfits, answer_done]
    have hblocks : s.taken.sealBlocks p l = s.pool.take ((needs - left + 63) / 64) := by
      rw [State.sealBlocks, sealNeeds_eq, ← hneeds, pagesLeft_eq]
      exact hleft ▸ rfl
    rw [hblocks]
    have hlt : ∀ b ∈ s.pool.take ((needs - left + 63) / 64), b < 128 := fun b hb => (mem_pool.mp (List.mem_of_mem_take hb)).1
    generalize s.pool.take ((needs - left + 63) / 64) = bs at *
    obtain ⟨ps, bl, hsealed⟩ := sealed_eq s.taken id.toNat bs l
    have hpackage := sealed_package s.taken bs l hp
    have hswi' : (s.taken.sealed id.toNat bs l).swi = false := (congrArg State.swi hsealed).trans hswi
    have hslot' : (s.taken.sealed id.toNat bs l).slot = some { op := .sealing id.toNat 0 l, waiting := none } := congrArg State.slot hsealed
    obtain ⟨hpk, hld, hbl, hflash⟩ := sealStep_rest (s.taken.sealed id.toNat bs l) id.toNat 0 l
    refine ⟨_, rfl, replied_replyBuf .., ?_, fun b hb => ?_, ?_, ?_, ?_, fun info b q hi hfind hq => ?_⟩
    · rw [replied_package, package_of_packages hpk, hpackage]
    · rw [replied_block, block_of_blocks hbl, sealed_block]
      exact claimAll_mem id.toNat (hlt b hb) bs s.taken hb
    · rw [replied_slot, sealStep_slot _ _ _ _ hswi' hslot', hslot']
    · rw [replied_load, hld, hsealed]
    · rw [replied_flash, hflash, hsealed]
      rfl
    · have hfind' : ((p.blocks ++ bs).find? fun x => decide (((s.taken.sealed id.toNat bs l).block x).nextPage < 64)) = some b := by
        simp only [sealed_block, claimAll_nextPage]
        exact hfind
      obtain ⟨img, himg⟩ : ∃ img, (sealPages p info l)[0]? = some img :=
        ⟨_, List.getElem?_eq_getElem (by simp [sealPages])⟩
      have hnext : ((s.taken.sealed id.toNat bs l).block b).nextPage = q := by
        rw [sealed_block, claimAll_nextPage, hq]
        rfl
      have hstep := sealStep_eq (s := s.taken.sealed id.toNat bs l) hpackage hi himg hfind'
      rw [hnext, hostWrite_free (s := (s.taken.sealed id.toNat bs l).sealAt id.toNat 0 l img) _ hswi'] at hstep
      have hgoes := request_goes ((s.taken.sealed id.toNat bs l).sealAt id.toNat 0 l img) (hostRequest (.program b q))
      have hflight : ((s.taken.sealed id.toNat bs l).sealAt id.toNat 0 l img).flight = s.flight := by
        change (s.taken.sealed id.toNat bs l).flight = s.flight
        rw [hsealed]
        rfl
      rw [hflight] at hgoes
      rw [replied_pageReg, replied_flight, replied_queue, hstep]
      exact ⟨(request_keeps _ _).2.2.2.1.trans himg.symm, hgoes⟩

end Sys2Proof.Machine

/-! ## CUE_AMEND is accepted (O22) -/

namespace Sys2Proof.Machine

section amend

variable {s : State} {p : Package} {id cue : Nat} {t : TextTrack} {x : CueText}

/-! ### The index pages of a track (R29) -/

theorem indexPosition_eq {loc : IndexLoc} (h : p.indexLoc.get t = some loc) (o : Nat) : p.indexPosition t o = loc.first + o := by
  rw [Package.indexPosition, h]
  rfl

theorem indexCount_eq {loc : IndexLoc} (h : p.indexLoc.get t = some loc) : p.indexCount t = loc.count := by
  rw [Package.indexCount, h]
  rfl

/-- Where a page of the block list lies (R29). -/
theorem resolve_position {n b : Nat} (hp : s.package id = some p) (hb : p.blocks[n / 64]? = some b) :
    s.resolve (.readPosition id n) = pageAddr b (n % 64) := by
  simp only [State.resolve, hp, Option.bind_some, Package.positionAddr, Config.pagesPerBlock, hb, Option.map_some, Option.getD_some]

/-- The first read of a search: the track's first index page, at once or in its turn (R19, R36). -/
theorem hostRead_first_goes {loc : IndexLoc} {b : Nat} (hp : s.package id = some p) (hloc : p.indexLoc.get t = some loc)
    (hb : p.blocks[loc.first / 64]? = some b) :
    (s.flight = none → (s.hostRead (.readPosition id (p.indexPosition t 0))).flight
      = some { req := hostRequest (.readPosition id loc.first), addr := pageAddr b (loc.first % 64) })
    ∧ (s.flight ≠ none → (s.hostRead (.readPosition id (p.indexPosition t 0))).flight = s.flight
      ∧ hostRequest (.readPosition id loc.first) ∈ (s.hostRead (.readPosition id (p.indexPosition t 0))).queue) := by
  rw [indexPosition_eq hloc, Nat.add_zero, ← resolve_position hp hb]
  exact request_goes s _

/-! ### The tests of CUE_AMEND (R17) -/

/-- The block of an amendment: the package's amend block, or the lowest blank one (R17, R36). -/
def State.amendBlock (s : State) (p : Package) : Nat :=
  match p.amend with
  | some b => b
  | none => s.lowestBlank.getD 0

/-- The amendment is the host operation, a block being reserved where the package has none (R17). -/
def State.amending (s : State) (p : Package) (id : Nat) (t : TextTrack) (cue : Nat) (x : CueText) : State :=
  (if p.amend.isNone then s.claim (s.amendBlock p) .amend id else s).setOp
    (.amend id t cue x.placement x.speaker x.lines (s.amendBlock p) p.amend.isNone (.readIndex 0 none))

theorem amending_rest (s : State) (p : Package) (id : Nat) (t : TextTrack) (cue : Nat) (x : CueText) :
    (s.amending p id t cue x).packages = s.packages ∧ (s.amending p id t cue x).flash = s.flash
      ∧ (s.amending p id t cue x).notices = s.notices ∧ (s.amending p id t cue x).flight = s.flight := by
  unfold State.amending
  split
  · exact ⟨rfl, rfl, rfl, rfl⟩
  · exact ⟨rfl, rfl, rfl, rfl⟩

theorem amending_blocks_kept {b : Nat} (h : p.amend = some b) : (s.amending p id t cue x).blocks = s.blocks := by
  simp [State.amending, h, State.setOp]

theorem amending_block_reserved (h : p.amend = none) (hb : s.amendBlock p < 128) :
    (s.amending p id t cue x).block (s.amendBlock p) = { s.block (s.amendBlock p) with cls := .amend, owner := some id } := by
  unfold State.amending
  rw [h, if_pos Option.isNone_none]
  exact block_claim_same s .amend id hb

/-- The lowest blank block. -/
theorem lowestBlank_spec {b : Nat} (h : s.lowestBlank = some b) :
    b < 128 ∧ (s.block b).cls = .blank ∧ ∀ c, c < b → (s.block c).cls ≠ .blank := by
  unfold State.lowestBlank State.pool at h
  rw [List.head?_filter, List.find?_range_eq_some] at h
  obtain ⟨hcls, hlt, hlow⟩ := h
  exact ⟨List.mem_range.mp hlt, of_decide_eq_true hcls, fun c hc => by simpa using hlow c hc⟩

/-- The tests of CUE_AMEND on the cue and the store, those on the package and the text being passed (R17 e to h). -/
theorem cueAmendAction_text {track : Nat} (hp : s.package id = some p) (hst : p.state = .ready) (hpr : p.protection = .unprotected)
    (htr : track = t.val) (hknown : t.val < p.textCount) : cueAmendAction id track cue (some x) s =
      if p.cues t ≤ cue then refused s .noSuch
      else if s.swi then refused s .guarded
      else if s.slot.isSome then refused s .busy
      else if s.noAmendPage p then refused s .full
      else done ((s.amending p id t cue x).hostRead (.readPosition id (p.indexPosition t 0))) .accepted [] := by
  subst htr
  unfold cueAmendAction
  simp only [hp, hst, hpr, ne_eq, not_true_eq_false, if_false, dif_pos (And.intro hknown t.isLt)]
  rfl

theorem cueAmendAction_range {track : Nat} {text : Option CueText} (hp : s.package id = some p) (hst : p.state = .ready)
    (hpr : p.protection = .unprotected) (h : p.textCount ≤ track ∨ 4 ≤ track ∨ text = none) :
    cueAmendAction id track cue text s = refused s .range := by
  unfold cueAmendAction
  simp only [hp, hst, hpr, ne_eq, not_true_eq_false, if_false]
  split
  · cases text with
    | none => rfl
    | some x =>
      rename_i hk
      have hk' : track < p.textCount ∧ track < 4 := hk
      simp at h
      omega
  · rfl

end amend

/-- Settles O22, test by test. -/
theorem cueAmendIsAccepted : Obligations.CueAmendIsAccepted := by
  unfold Obligations.CueAmendIsAccepted
  rintro tag id tr c1 c0 pl sp n rest raw s _ hacc rfl hraw
  simp only [exec_cueAmend hacc tag id tr c1 c0 pl sp n hraw]
  refine ⟨fun hn => by simp [cueAmendAction, hn], fun p hp => ⟨fun hst => ?_, fun hst hpr => ?_, fun hst hpr => ⟨fun h => ?_,
    fun t x htr hknown hx cue hcue => ?_⟩⟩⟩
  · simp [cueAmendAction, hp, hst]
  · simp [cueAmendAction, hp, hst, hpr]
  · rw [cueAmendAction_range (s := s.taken) hp hst hpr h, answer_refused]
  · rw [hx, cueAmendAction_text (s := s.taken) (x := x) hp hst hpr htr hknown, ← hcue]
    refine ⟨fun h => ?_, fun h hswi => ?_, fun h hswi hslot => ?_, fun h hswi hslot hfull => ?_, fun h hswi hslot hroom => ?_⟩
    · rw [if_pos h, answer_refused]
    · rw [if_neg (Nat.not_le.mpr h), taken_swi, if_pos hswi, answer_refused]
    · rw [if_neg (Nat.not_le.mpr h), taken_swi, if_neg (by simp [hswi]), taken_slot, if_pos (Option.isSome_iff_ne_none.mpr hslot),
        answer_refused]
    · rw [if_neg (Nat.not_le.mpr h), taken_swi, if_neg (by simp [hswi]), taken_slot, if_neg (by simp [hslot]), taken_noAmendPage,
        if_pos hfull, answer_refused]
    · rw [if_neg (Nat.not_le.mpr h), taken_swi, if_neg (by simp [hswi]), taken_slot, if_neg (by simp [hslot]), taken_noAmendPage,
        if_neg (by simp [hroom]), answer_done, State.hostRead]
      obtain ⟨hpk, hflash, hno, hflight⟩ := amending_rest s.taken p id.toNat t cue x
      obtain ⟨hslot', -, hpk', -, hno', hbl', hflash', -⟩ :=
        request_keeps (s.taken.amending p id.toNat t cue x) (hostRequest (.readPosition id.toNat (p.indexPosition t 0)))
      refine ⟨_, s.amendBlock p, rfl, replied_replyBuf .., ?_, fun b hb => ?_, fun hn => ?_, ?_, ?_, ?_, fun loc b hloc hb => ?_⟩
      · rw [replied_slot]
        exact hslot'
      · refine ⟨by rw [State.amendBlock, hb], ?_⟩
        rw [replied_blocks]
        exact hbl'.trans (amending_blocks_kept hb)
      · have hblank : ∃ b, s.lowestBlank = some b := by
          cases hlow : s.lowestBlank with
          | some b => exact ⟨b, rfl⟩
          | none => simp [State.noAmendPage, hn, List.head?_eq_none_iff.mp hlow] at hroom
        obtain ⟨b, hb⟩ := hblank
        have hblock : s.amendBlock p = b := by rw [State.amendBlock, hn, hb]; rfl
        obtain ⟨hlt, hcls, hlow⟩ := lowestBlank_spec hb
        have hreserved := amending_block_reserved (s := s.taken) (id := id.toNat) (t := t) (cue := cue) (x := x) hn (hblock ▸ hlt)
        rw [replied_block, block_of_blocks (s := s.taken.amending p id.toNat t cue x) hbl']
        exact ⟨hblock ▸ hcls, hblock ▸ hlow, congrArg BlockRec.cls hreserved, congrArg BlockRec.owner hreserved⟩
      · rw [replied_packages]
        exact hpk'.trans hpk
      · rw [replied_flash]
        exact hflash'.trans hflash
      · rw [replied_notices]
        exact hno'.trans hno
      · have hpackage : (s.taken.amending p id.toNat t cue x).package id.toNat = some p := by
          rw [package_of_packages hpk]
          exact hp
        have hgoes := hostRead_first_goes hpackage hloc hb
        rw [hflight] at hgoes
        rw [replied_flight, replied_queue]
        exact hgoes

end Sys2Proof.Machine

/-! ## CUE_READ (O24) -/

namespace Sys2Proof.Machine

/-! ### The search of an index page determines what it finds (R19, R36) -/

/-- A page has a last entry that does not exceed the cue, or none. -/
theorem lastEntry_cases (cue : Nat) (es : List IndexEntry) : (∀ x ∈ es, cue < x.firstCue)
    ∨ ∃ front en rear, es = front ++ en :: rear ∧ en.firstCue ≤ cue ∧ ∀ x ∈ rear, cue < x.firstCue := by
  induction es with
  | nil => exact .inl fun x h => absurd h List.not_mem_nil
  | cons e es ih =>
    rcases ih with hall | ⟨front, en, rear, rfl, hen, hrear⟩
    · by_cases he : e.firstCue ≤ cue
      · exact .inr ⟨[], e, es, rfl, he, hall⟩
      · refine .inl fun x hx => ?_
        rcases List.mem_cons.mp hx with rfl | hx
        · exact Nat.not_le.mp he
        · exact hall x hx
    · exact .inr ⟨e :: front, en, rear, rfl, hen, hrear⟩

theorem foundOn_unique {es : List IndexEntry} {cue : Nat} {before a b : Option IndexEntry} (ha : FoundOn es cue before a)
    (hb : FoundOn es cue before b) : a = b := by
  rcases lastEntry_cases cue es with hall | ⟨front, en, rear, h, hen, hrear⟩
  · exact (ha.2 hall).trans (hb.2 hall).symm
  · exact (ha.1 front en rear h hen hrear).trans (hb.1 front en rear h hen hrear).symm

/-- What an index page gives for a cue, and whether the search ends on it (log entry 39). -/
theorem searchIndex_eq {p : Package} {t : TextTrack} {cue ordinal : Nat} {before found : Option IndexEntry} {loc : IndexLoc}
    {es : List IndexEntry} {bs : List Byte} (hloc : p.indexLoc.get t = some loc)
    (hes : es = indexEntries (min 128 (p.pageCounts.get t - 128 * ordinal)) bs) (hfound : FoundOn es cue before found) :
    searchIndex p t cue ordinal before bs
      = (found, es.any (fun e => decide (cue < e.firstCue)) || decide (loc.count ≤ ordinal + 1)) := by
  refine Prod.ext (foundOn_unique (searchIndex_foundOn p t cue ordinal before bs) (hes ▸ hfound)) ?_
  rw [← indexCount_eq hloc, hes]
  rfl

/-! ### Reads of the host operation -/

/-- A read that the host operation asks for in a completion is under way, or waits (R30, R31). -/
theorem hostRead_reads {u : State} (step : StoreOp) (h : u.flight ≠ none) : (u.hostRead step).startNext.HostReads step := by
  have hmem : hostRequest step ∈ (u.hostRead step).queue := request_mem _ h
  have hgoes := startNext_keeps_request hmem fun x hx hw => ?_
  · exact hgoes.elim (fun hf => .inr ⟨_, hf, rfl⟩) .inl
  · rw [State.hostRead, request_busy _ h] at hx
    rcases List.mem_append.mp hx with hx | hx
    · exact absurd hw (of_decide_eq_true (List.mem_filter.mp hx).2)
    · exact List.mem_singleton.mp hx

/-- A read that the host operation asks for leaves the slot and the reply buffer. -/
theorem hostRead_rest (u : State) (step : StoreOp) :
    (u.hostRead step).startNext.slot = u.slot ∧ (u.hostRead step).startNext.replyBuf = u.replyBuf := by
  obtain ⟨hslot, -, -, -, -, -, -, hreply⟩ := startNext_keeps_rest (u.hostRead step)
  rw [hslot, hreply]
  obtain ⟨fl, q, au, h⟩ := request_eq u (hostRequest step)
  rw [State.hostRead, h]
  exact ⟨rfl, rfl⟩

/-! ### The command (R19) -/

section command

variable {s : State} {p : Package} {id track cue : Nat} {t : TextTrack}

/-- CUE_READ is the host operation (R19). -/
def State.reading (s : State) (id : Nat) (t : TextTrack) (cue : Nat) : State := s.setOp (.cueRead id t cue (.readIndex 0 none))

theorem cueReadAction_track (hp : s.package id = some p) (hst : p.state = .ready) (htr : track = t.val) (hknown : t.val < p.textCount) :
    cueReadAction id track cue s =
      if p.cues t ≤ cue then refused s .noSuch
      else if s.slot.isSome then refused s .busy
      else ((s.reading id t cue).hostRead (.readPosition id (p.indexPosition t 0)), none) := by
  subst htr
  unfold cueReadAction
  simp only [hp, hst, ne_eq, not_true_eq_false, if_false, dif_pos (And.intro hknown t.isLt)]
  rfl

theorem cueReadAction_range (hp : s.package id = some p) (hst : p.state = .ready) (h : p.textCount ≤ track) :
    cueReadAction id track cue s = refused s .range := by
  unfold cueReadAction
  simp only [hp, hst, ne_eq, not_true_eq_false, if_false]
  exact dif_neg fun k => Nat.not_lt.mpr h k.1

end command

/-! ### The reads of a CUE_READ (R19) -/

section read

variable {s : State} {f : Flight} {errs id cue : Nat} {t : TextTrack} {p : Package} {kind tag : Byte}

theorem exec_cueReadStepDone {stage : CueReadStage} (errs : Nat) (hf : s.flight = some f) (hw : f.req.who = .host)
    (ho : s.hostOp = some (.cueRead id t cue stage)) :
    exec (.cueReadStepDone errs) s = .next (s.complete fun s => s.cueReadStep f errs id t cue stage) := by
  simp only [exec, execCueReadStepDone, hf, ho, hw]

/-- The state after the grading of a read: only the notices may differ (R34). -/
theorem graded_rest (s : State) (f : Flight) (errs : Nat) : (s.graded f errs).packages = s.packages
    ∧ (s.graded f errs).flash = s.flash ∧ (s.graded f errs).replyBuf = s.replyBuf ∧ (s.graded f errs).flight = s.flight := by
  obtain ⟨ns, b, h⟩ := graded_eq s f errs
  rw [h]
  exact ⟨rfl, rfl, rfl, rfl⟩

theorem graded_lost (s : State) (f : Flight) (h : 4 < errs) : s.graded f errs =
    s.raise .store .storeUncorrectable (u8 (f.addr / 64) ++ u8 (f.addr % 64) ++ u8 f.req.who.code) := by
  unfold State.graded
  dsimp only
  rw [if_neg (by omega), if_neg (by omega)]
  rfl

/-- An index page that is read: the search ends, with an entry or without, or goes on with the next page (log entry 39). -/
theorem cueReadStep_index {ordinal : Nat} {before : Option IndexEntry} (hp : s.package id = some p) (herrs : errs ≤ 4) :
    s.cueReadStep f errs id t cue (.readIndex ordinal before) =
      if (searchIndex p t cue ordinal before (readBytes s.flash f.addr)).2 = true then
        (searchIndex p t cue ordinal before (readBytes s.flash f.addr)).1.elim ((s.graded f errs).endCueRead .noSuch []) fun en =>
          ((s.graded f errs).setOp (.cueRead id t cue (.readPage en))).hostRead (.readLogical id en.logical)
      else ((s.graded f errs).setOp (.cueRead id t cue (.readIndex (ordinal + 1)
          (searchIndex p t cue ordinal before (readBytes s.flash f.addr)).1))).hostRead
        (.readPosition id (p.indexPosition t (ordinal + 1))) := by
  obtain ⟨hpk, hflash, -⟩ := graded_rest s f errs
  unfold State.cueReadStep
  simp only [(package_of_packages hpk id).trans hp, readable, decide_eq_true herrs, hflash]
  cases (searchIndex p t cue ordinal before (readBytes s.flash f.addr)).1 <;> rfl

/-- The page that holds the record is read (R19). -/
theorem cueReadStep_page {en : IndexEntry} {c : Cue} (hp : s.package id = some p) (herrs : errs ≤ 4)
    (hc : (pageCues (readBytes s.flash f.addr))[cue - en.firstCue]? = some c) : s.cueReadStep f errs id t cue (.readPage en) =
      (s.graded f errs).endCueRead .ok (cueReadVals t c (p.generation en.logical)) := by
  obtain ⟨hpk, hflash, -⟩ := graded_rest s f errs
  unfold State.cueReadStep
  simp only [(package_of_packages hpk id).trans hp, readable, decide_eq_true herrs, hflash, hc]

/-- A page that is lost (R19, R34). -/
theorem cueReadStep_lost (stage : CueReadStage) (hp : s.package id = some p) (herrs : 4 < errs) :
    s.cueReadStep f errs id t cue stage = (s.graded f errs).endCueRead .noSuch [] := by
  obtain ⟨hpk, -⟩ := graded_rest s f errs
  unfold State.cueReadStep
  simp only [(package_of_packages hpk id).trans hp, readable, decide_eq_false (Nat.not_le.mpr herrs)]

/-- A CUE_READ that ends: the withheld reply is ready and the slot empty (R19, R163). -/
theorem endCueRead_ends (code : Code) (vals : List Byte) (hb : s.replyBuf = .withheld kind tag) :
    (s.endCueRead code vals).startNext.slot = none
      ∧ (s.endCueRead code vals).startNext.replyBuf = .ready { kind := kind + 0x80, tag := tag, code := code, vals := vals }
      ∧ (s.endCueRead code vals).startNext.notices = s.notices := by
  have hend : s.endCueRead code vals = s.endOp.replied kind tag code vals := by
    unfold State.endCueRead
    simp only [State.endOp, hb]
    rfl
  obtain ⟨hslot, -, -, hno, -, -, -, hreply⟩ := startNext_keeps_rest (s.endCueRead code vals)
  rw [hslot, hreply, hno, hend]
  exact ⟨replied_slot .., replied_replyBuf .., replied_notices ..⟩

end read

/-- Settles O24: the command test by test, and each of its reads. -/
theorem cueReadIsWithheldThenAnswered : Obligations.CueReadIsWithheldThenAnswered := by
  unfold Obligations.CueReadIsWithheldThenAnswered
  refine ⟨fun tag id tr c1 c0 s hacc => ?_, fun s f errs id cue t p kind tag hf hw hp hb => ?_⟩
  · simp only [exec_cueRead hacc]
    refine ⟨fun hn => by simp [cueReadAction, hn], fun p hp => ⟨fun hst => by simp [cueReadAction, hp, hst], fun hst htr => ?_,
      fun t hst htr hknown => ?_⟩⟩
    · rw [cueReadAction_range (s := s.taken) hp hst htr, answer_refused]
    · rw [cueReadAction_track (s := s.taken) hp hst htr hknown]
      refine ⟨fun h => ?_, fun h hslot => ?_, fun h hslot => ?_⟩
      · rw [if_pos h, answer_refused]
      · rw [if_neg (Nat.not_le.mpr h), taken_slot, if_pos (Option.isSome_iff_ne_none.mpr hslot), answer_refused]
      · rw [if_neg (Nat.not_le.mpr h), taken_slot, if_neg (by simp [hslot])]
        obtain ⟨hslot', -, hpk', -, hno', -, hflash', -⟩ :=
          request_keeps (s.taken.reading id.toNat t (be [c1, c0])) (hostRequest (.readPosition id.toNat (p.indexPosition t 0)))
        refine ⟨_, rfl, rfl, hslot', hpk', hflash', hno', fun loc b hloc hb => ?_⟩
        exact hostRead_first_goes (s := s.taken.reading id.toNat t (be [c1, c0])) hp hloc hb
  · obtain ⟨hpk, hflash, hreply, hflight⟩ := graded_rest s f errs
    have hp' : (s.graded f errs).package id = some p := (package_of_packages hpk id).trans hp
    have hflight' : (s.graded f errs).flight ≠ none := by rw [hflight, hf]; exact Option.some_ne_none f
    have hb' : (s.graded f errs).replyBuf = .withheld kind tag := hreply.trans hb
    refine ⟨fun ordinal before found loc es hop hloc hes hfound herrs => ?_, fun en c hop herrs hc => ?_, fun stage hop herrs => ?_⟩
    · rw [exec_cueReadStepDone errs hf hw hop]
      simp only [State.complete, cueReadStep_index hp herrs, searchIndex_eq hloc hes hfound, indexPosition_eq hloc]
      refine ⟨fun hends => ⟨fun en hen => ⟨_, rfl, ?_⟩, fun hnone => ⟨_, rfl, ?_⟩⟩, fun hall hmore => ⟨_, rfl, ?_⟩⟩
      · rw [if_pos (by simpa using hends), hen, Option.elim_some]
        obtain ⟨hslot, hrest⟩ := hostRead_rest ((s.graded f errs).setOp (.cueRead id t cue (.readPage en))) (.readLogical id en.logical)
        exact ⟨hslot, hostRead_reads _ hflight', hrest.trans hreply⟩
      · rw [if_pos (by simpa using hends), hnone, Option.elim_none]
        obtain ⟨hslot, hrest, -⟩ := endCueRead_ends .noSuch [] hb'
        exact ⟨hslot, hrest⟩
      · rw [if_neg (by simpa using ⟨hall, hmore⟩)]
        obtain ⟨hslot, hrest⟩ := hostRead_rest ((s.graded f errs).setOp (.cueRead id t cue (.readIndex (ordinal + 1) found)))
          (.readPosition id (loc.first + (ordinal + 1)))
        exact ⟨hslot, hostRead_reads _ hflight', hrest.trans hreply⟩
    · refine ⟨_, exec_cueReadStepDone errs hf hw hop, ?_⟩
      rw [State.complete, cueReadStep_page hp herrs hc]
      obtain ⟨hslot, hrest, -⟩ := endCueRead_ends .ok (cueReadVals t c (p.generation en.logical)) hb'
      exact ⟨hslot, hrest⟩
    · refine ⟨_, exec_cueReadStepDone errs hf hw hop, ?_⟩
      rw [State.complete, cueReadStep_lost stage hp herrs]
      obtain ⟨hslot, hrest, hno⟩ := endCueRead_ends .noSuch [] hb'
      refine ⟨hslot, hrest, hno.trans ?_⟩
      rw [graded_lost s f herrs, hw]
      rfl

end Sys2Proof.Machine

/-! ## The start-up scan reads on and ends (O26) -/

namespace Sys2Proof.Machine

/-! ### A notice that is raised is pending (R166) -/

/-- The notice kinds in the order of their ordinals. -/
def noticeKinds : List NoticeKind :=
  [.showHeld, .storeFail, .storeUncorrectable, .emitterLatched, .rateMismatch, .pulseLost, .lockGained, .jumped, .earlyPulse, .cueMissed
  , .soundSkip, .frameDropped, .emitterFault, .storeDone, .storeWorn, .bindDone, .showFinished, .startDone]

theorem noticeKinds_ordinal (k : NoticeKind) : noticeKinds[k.ordinal - 1]? = some k := by cases k <;> rfl

theorem ordinal_inj {k k' : NoticeKind} (h : k.ordinal = k'.ordinal) : k = k' :=
  Option.some_inj.mp (by rw [← noticeKinds_ordinal k, h, noticeKinds_ordinal])

theorem ordinal_lt (k : NoticeKind) : k.ordinal < 100 := by cases k <;> decide

theorem sourceCode_lt (src : Source) : src.code < 100 := by
  cases src with
  | aud n => exact Nat.lt_trans n.isLt (by decide)
  | store => decide
  | part => decide

theorem sourceCode_inj {a b : Source} (h : a.code = b.code) : a = b := by
  have haud (n : Aud) (m : Nat) (hm : 16 ≤ m) : n.val ≠ m := Nat.ne_of_lt (Nat.lt_of_lt_of_le n.isLt hm)
  cases a with
  | aud n =>
    cases b with
    | aud m => exact congrArg Source.aud (Fin.ext h)
    | store => exact absurd h (haud n 16 (by decide))
    | part => exact absurd h (haud n 17 (by decide))
  | store =>
    cases b with
    | aud m => exact absurd h.symm (haud m 16 (by decide))
    | store => rfl
    | part => cases h
  | part =>
    cases b with
    | aud m => exact absurd h.symm (haud m 17 (by decide))
    | store => cases h
    | part => rfl

/-- A place in the taking order is that of one pair of source and kind (R167). -/
theorem noticeRank_inj {a b : Source} {k k' : NoticeKind} (h : noticeRank a k = noticeRank b k') : a = b ∧ k = k' := by
  have hk := ordinal_lt k
  have hk' := ordinal_lt k'
  have ha := sourceCode_lt a
  have hb := sourceCode_lt b
  unfold noticeRank at h
  exact ⟨sourceCode_inj (by omega), ordinal_inj (by omega)⟩

theorem addNotice_pending (src : Source) (k : NoticeKind) (detail : List Byte) (ns : List Notice) :
    ∃ x ∈ addNotice src k detail ns, x.source = src ∧ x.kind = k ∧ x.detail = detail := by
  induction ns with
  | nil => exact ⟨_, List.mem_singleton_self _, rfl, rfl, rfl⟩
  | cons y ys ih =>
    unfold addNotice
    split
    · rename_i h
      obtain ⟨hs, hk⟩ := noticeRank_inj h
      exact ⟨_, List.mem_cons_self .., hs.symm, hk.symm, rfl⟩
    · split
      · exact ⟨_, List.mem_cons_self .., rfl, rfl, rfl⟩
      · obtain ⟨x, hx, hrest⟩ := ih
        exact ⟨x, List.mem_cons_of_mem _ hx, hrest⟩

/-! ### Requests of the scan (R30, R44) -/

/-- A step of the scan that goes on: with no other request waiting, its next read is in flight (R30, R31). -/
theorem scanRequest_goes {u : State} (op : StoreOp) (hf : u.flight ≠ none) (hq : u.queue = []) :
    (u.request (scanRequest op)).startNext.flight = some { req := scanRequest op, addr := u.resolve op } := by
  rw [request_busy _ hf, hq]
  rfl

theorem startNext_flight_empty {u : State} (hq : u.queue = []) : u.startNext.flight = none := by
  unfold State.startNext
  simp only [hq]
  rfl

/-- What a step of the scan that goes on leaves as it was. -/
theorem scanRequest_rest (u : State) (op : StoreOp) : (u.request (scanRequest op)).startNext.scan = u.scan
    ∧ (u.request (scanRequest op)).startNext.phase = u.phase ∧ (u.request (scanRequest op)).startNext.packages = u.packages
    ∧ (u.request (scanRequest op)).startNext.flash = u.flash ∧ (u.request (scanRequest op)).startNext.blocks = u.blocks
    ∧ (u.request (scanRequest op)).startNext.serialHigh = u.serialHigh := by
  obtain ⟨fl, q, au, h⟩ := startNext_eq (u.request (scanRequest op))
  obtain ⟨fl', q', au', h'⟩ := request_eq u (scanRequest op)
  rw [h, h']
  exact ⟨rfl, rfl, rfl, rfl, rfl, rfl⟩

theorem startNext_scan_rest (u : State) : u.startNext.scan = u.scan ∧ u.startNext.phase = u.phase ∧ u.startNext.packages = u.packages
    ∧ u.startNext.flash = u.flash ∧ u.startNext.blocks = u.blocks ∧ u.startNext.serialHigh = u.serialHigh := by
  obtain ⟨fl, q, au, h⟩ := startNext_eq u
  rw [h]
  exact ⟨rfl, rfl, rfl, rfl, rfl, rfl⟩

/-! ### The seal pages, and the end of the scan (R45, R46, R164) -/

/-- The scan reads on from its seal pages. -/
theorem scanSeals_next {u : State} {sc : Scan} {r : SealRead} {rest : List SealRead} (hs : sc.seals = r :: rest) (hf : u.flight ≠ none)
    (hq : u.queue = []) : (u.scanSeals sc).startNext.scan = some sc ∧ (u.scanSeals sc).startNext.phase = u.phase
      ∧ (u.scanSeals sc).startNext.packages = u.packages ∧ (u.scanSeals sc).startNext.flight
        = some { req := scanRequest (.readSeal r.block r.page), addr := pageAddr r.block r.page } := by
  have hstep : u.scanSeals sc = ({ u with scan := some sc } : State).request (scanRequest (.readSeal r.block r.page)) := by
    unfold State.scanSeals
    rw [hs]
  obtain ⟨hscan, hphase, hpk, -⟩ := scanRequest_rest ({ u with scan := some sc } : State) (.readSeal r.block r.page)
  rw [hstep]
  exact ⟨hscan, hphase, hpk, scanRequest_goes (u := ({ u with scan := some sc } : State)) _ hf hq⟩

/-- The end of STARTING (R46, R164). -/
theorem scanSeals_end {u : State} {sc : Scan} (hs : sc.seals = []) (hq : u.queue = []) : (u.scanSeals sc).startNext.scan = none
    ∧ (u.scanSeals sc).startNext.phase = .running ∧ (u.scanSeals sc).startNext.packages = sc.dir ∧ (u.scanSeals sc).startNext.flight = none
    ∧ ∃ x ∈ (u.scanSeals sc).startNext.notices, x.source = .part ∧ x.kind = .startDone
      ∧ x.detail = ({ u with packages := sc.dir } : State).startDetail := by
  have hstep : u.scanSeals sc = ({ u with scan := none, phase := .running, packages := sc.dir } : State).raise .part .startDone
      ({ u with packages := sc.dir } : State).startDetail := by
    unfold State.scanSeals
    rw [hs]
    rfl
  obtain ⟨hscan, hphase, hpk, -⟩ := startNext_scan_rest (u.scanSeals sc)
  have hno := (startNext_keeps_rest (u.scanSeals sc)).2.2.2.1
  have hqueue : (u.scanSeals sc).queue = [] := by rw [hstep]; exact hq
  rw [hscan, hphase, hpk, startNext_flight_empty hqueue, hno, hstep]
  exact ⟨rfl, rfl, rfl, rfl, addNotice_pending _ _ _ _⟩

/-- What the seal pages and the end of the scan leave as it was. -/
theorem scanSeals_rest (u : State) (sc : Scan) : (u.scanSeals sc).startNext.flash = u.flash ∧ (u.scanSeals sc).startNext.blocks = u.blocks
    ∧ (u.scanSeals sc).startNext.serialHigh = u.serialHigh := by
  unfold State.scanSeals
  split
  · rename_i r rest hseals
    obtain ⟨-, -, -, hrest⟩ := scanRequest_rest ({ u with scan := some sc } : State) (.readSeal r.block r.page)
    exact hrest
  · exact (startNext_scan_rest (State.raise _ _ _ _)).2.2.2

/-! ### The tags (R44) -/

section tags

variable {s : State} {f : Flight} {sc : Scan}

theorem exec_scanTagReadDone {block page : Nat} (damaged : Bool) (hf : s.flight = some f) (hs : s.scan = some sc) (hw : f.req.who = .scan)
    (ho : f.req.op = .readTag block page) :
    exec (.scanTagReadDone damaged) s = .next (s.complete fun s => s.scanTag sc block page damaged) := by
  simp only [exec, execScanTagReadDone, hf, hs, hw, ho]

theorem exec_scanSealReadDone {b q : Nat} (errs : Nat) (hf : s.flight = some f) (hs : s.scan = some sc) (hw : f.req.who = .scan)
    (ho : f.req.op = .readSeal b q) : exec (.scanSealReadDone errs) s = .next (s.complete fun s => s.scanSeal f sc errs) := by
  simp only [exec, execScanSealReadDone, hf, hs, hw, ho]

theorem endsBlock_eq_true {page : Nat} {t : TagRead}
    (h : t = .erased ∨ page + 1 = 64 ∨ (page = 0 ∧ ∃ g, t = .readable g ∧ g.role = .retire)) : endsBlock page t = true := by
  rcases h with rfl | h | ⟨hpage, g, rfl, hrole⟩
  · rfl
  · cases t <;> simp [endsBlock, Config.pagesPerBlock, h]
  · simp [endsBlock, hpage, hrole]

theorem endsBlock_eq_false {page : Nat} {t : TagRead} (he : t ≠ .erased) (hp : page + 1 ≠ 64)
    (hr : page ≠ 0 ∨ ∀ g, t = .readable g → g.role ≠ .retire) : endsBlock page t = false := by
  cases t with
  | erased => exact absurd rfl he
  | unreadable => simpa [endsBlock, Config.pagesPerBlock] using hp
  | readable g =>
    have hrole : page = 0 → g.role ≠ .retire := fun h => hr.elim (absurd h) fun k => k g rfl
    simpa [endsBlock, Config.pagesPerBlock, hp] using hrole

end tags

/-! ### The block records of the directory (R45, R25) -/

/-- The block records that the scan leaves. -/
def scannedBlocks (ps : List Package) (found : List ScanBlock) (v : Vector BlockRec 128) : Vector BlockRec 128 :=
  found.foldl (fun v b => v.setIfInBounds b.block (scannedRecord ps b)) v

theorem scannedBlocks_other (ps : List Package) (b : Nat) (found : List ScanBlock) : ∀ v : Vector BlockRec 128, (∀ x ∈ found, x.block ≠ b) →
    (scannedBlocks ps found v)[b]? = v[b]? := by
  induction found with
  | nil => exact fun v _ => rfl
  | cons x xs ih =>
    intro v h
    refine (ih _ fun y hy => h y (List.mem_cons_of_mem x hy)).trans ?_
    exact Vector.getElem?_setIfInBounds_ne (h x (List.mem_cons_self ..))

theorem scannedBlocks_mem (ps : List Package) {x : ScanBlock} (hb : x.block < 128) (found : List ScanBlock) : ∀ v : Vector BlockRec 128,
    x ∈ found → (found.map (·.block)).Nodup → (scannedBlocks ps found v)[x.block]? = some (scannedRecord ps x) := by
  induction found with
  | nil => exact fun v h _ => absurd h List.not_mem_nil
  | cons y ys ih =>
    intro v h hn
    obtain ⟨hy, hn'⟩ := List.nodup_cons.mp hn
    rcases List.mem_cons.mp h with rfl | h
    · refine (scannedBlocks_other ps x.block ys _ fun z hz e => hy ?_).trans (by simp [hb])
      exact List.mem_map.mpr ⟨z, hz, e⟩
    · exact ih _ h hn'

/-- The detail of START_DONE (R46). -/
theorem startDetail_eq {u t : State} (entries : List Package) (hb : t.blocks = u.blocks) : ({ u with packages := entries } : State).startDetail
    = u8 (entries.filter fun p => decide (p.state = .ready)).length
      ++ u8 (entries.filter fun p => decide (p.state = .abandoned)).length
      ++ u8 ((List.range 128).filter fun b => decide ((t.block b).cls = .blank)).length
      ++ u8 ((List.range 128).filter fun b => decide ((t.block b).cls = .retired)).length
      ++ u8 ((List.range 128).filter fun b => decide ((t.block b).cls = .unknown)).length
      ++ u8 ((List.range 128).filter fun b => (t.block b).marked).length := by
  simp only [block_of_blocks hb]
  rfl

section steps

variable {s : State} {sc : Scan} {block page : Nat} {damaged : Bool}

/-- A tag that does not end its block (R44). -/
theorem scanTag_page (h : endsBlock page (readTag s.flash (pageAddr block page) damaged) = false) :
    s.scanTag sc block page damaged = ({ s with
      scan := some { sc with tags := sc.tags ++ [readTag s.flash (pageAddr block page) damaged] } } : State).request
        (scanRequest (.readTag block (page + 1))) := by
  simp only [State.scanTag, h, Bool.false_eq_true, if_false]

/-- The scan after the tags of a block. -/
def Scan.after (sc : Scan) (b : ScanBlock) : Scan := { sc with visited := sc.visited + 1, tags := [], found := sc.found ++ [b] }

theorem scanTag_block (h : endsBlock page (readTag s.flash (pageAddr block page) damaged) = true) (hb : block + 1 < 128) :
    s.scanTag sc block page damaged = ({ s with
      scan := some (sc.after (scannedBlock block (sc.tags ++ [readTag s.flash (pageAddr block page) damaged]))) } : State).request
        (scanRequest (.readTag (block + 1) 0)) := by
  simp only [State.scanTag, h, if_true]
  exact if_pos hb

theorem scanTag_last {found : List ScanBlock} (h : endsBlock page (readTag s.flash (pageAddr block page) damaged) = true)
    (hb : ¬ block + 1 < 128) (hfound : found = sc.found ++ [scannedBlock block (sc.tags ++ [readTag s.flash (pageAddr block page) damaged])]) :
    s.scanTag sc block page damaged = (s.resolved found).scanSeals
      { visited := sc.visited + 1, tags := [], found := found, seals := sealsToRead found (scannedPackages found)
        dir := scannedPackages found } := by
  subst hfound
  simp only [State.scanTag, h, if_true]
  exact if_neg hb

theorem resolved_block (s : State) (found : List ScanBlock) (b : Nat) : (s.resolved found).block b
    = (scannedBlocks (scannedPackages found) found s.blocks)[b]?.getD .reset := rfl

/-- The entries that a seal page read leaves (R45 item 2, log entries 5 and 30). -/
theorem scanSeal_eq {f : Flight} {errs : Nat} {r : SealRead} {rest : List SealRead} {entries : List Package} (hs : sc.seals = r :: rest)
    (hread : ∀ info counts, errs ≤ 4 → readSealed s.flash f.addr = some (info, counts) →
      entries = sc.dir.map fun p => if p.id = r.pkg then sealedPackage sc.found info counts p else p)
    (hlost : 4 < errs ∨ readSealed s.flash f.addr = none → entries = sc.dir) :
    s.scanSeal f sc errs = (s.graded f errs).scanSeals { sc with seals := rest, dir := entries } := by
  unfold State.scanSeal
  simp only [hs, (graded_rest s f errs).2.1, readable]
  by_cases he : errs ≤ 4
  · cases hr : readSealed s.flash f.addr with
    | none => rw [decide_eq_true he, hlost (.inr hr)]
    | some x =>
      obtain ⟨info, counts⟩ := x
      rw [decide_eq_true he, hread info counts he hr]
  · rw [decide_eq_false he, hlost (.inl (Nat.not_le.mp he))]

end steps

/-- Settles O26: the tags that end a block and those that do not, and the seal pages. -/
theorem scanReadsOnAndEnds : Obligations.ScanReadsOnAndEnds := by
  unfold Obligations.ScanReadsOnAndEnds
  refine ⟨fun s f sc block page damaged read hf hs hw ho hq hread => ?_,
    fun s f sc b q errs r rest entries hf hs hw ho hq hseals hgood hlost => ?_⟩
  · have hflight : s.flight ≠ none := by rw [hf]; exact Option.some_ne_none f
    subst hread
    refine ⟨_, exec_scanTagReadDone damaged hf hs hw ho, ?_, fun he hp hr => ?_, fun hend => ⟨fun hb => ?_,
      fun hb found entries hfound hentries => ?_⟩⟩
    · exact (startNext_scan_rest _).2.2.2.1.trans (scanTag_course s sc block page damaged).flash
    · rw [State.complete, scanTag_page (endsBlock_eq_false he hp hr)]
      obtain ⟨hscan, hphase, hpk, -⟩ := scanRequest_rest ({ s with
        scan := some { sc with tags := sc.tags ++ [readTag s.flash (pageAddr block page) damaged] } } : State) (.readTag block (page + 1))
      exact ⟨hscan, hphase, hpk, scanRequest_goes (u := { s with scan := some _ }) _ hflight hq⟩
    · rw [State.complete, scanTag_block (endsBlock_eq_true hend) hb]
      obtain ⟨hscan, hphase, hpk, -⟩ := scanRequest_rest ({ s with
        scan := some (sc.after (scannedBlock block (sc.tags ++ [readTag s.flash (pageAddr block page) damaged]))) } : State)
        (.readTag (block + 1) 0)
      exact ⟨hscan, hphase, hpk, scanRequest_goes (u := { s with scan := some _ }) _ hflight hq⟩
    · rw [State.complete, scanTag_last (endsBlock_eq_true hend) (Nat.not_lt.mpr hb) hfound, ← hentries]
      obtain ⟨-, hblocks, hserial⟩ := scanSeals_rest (s.resolved found)
        { visited := sc.visited + 1, tags := [], found := found, seals := sealsToRead found entries, dir := entries }
      refine ⟨hserial.trans ?_, fun b hlt hno => ?_, fun x hx hn hlt => ?_, fun r rest hsr => ?_, fun hsr => ?_⟩
      · rw [hentries]
        rfl
      · rw [block_of_blocks hblocks, resolved_block, scannedBlocks_other _ b found _ hno]
        rfl
      · rw [block_of_blocks hblocks, resolved_block, scannedBlocks_mem _ hlt found _ (List.mem_of_find?_eq_some hx) hn, hentries]
        rfl
      · rw [hsr]
        exact scanSeals_next rfl hflight hq
      · obtain ⟨hscan, hphase, hpk, hfl, x, hx, hsrc, hkind, hdetail⟩ := scanSeals_end (u := s.resolved found)
          (sc := { visited := sc.visited + 1, tags := [], found := found, seals := sealsToRead found entries, dir := entries }) hsr hq
        exact ⟨hscan, hphase, hpk, hfl, x, hx, hsrc, hkind, hdetail.trans (startDetail_eq entries hblocks)⟩
  · have hflight : (s.graded f errs).flight ≠ none := by rw [(graded_rest s f errs).2.2.2, hf]; exact Option.some_ne_none f
    obtain ⟨ns, k, hg⟩ := graded_eq s f errs
    have hqueue : (s.graded f errs).queue = [] := by rw [hg]; exact hq
    refine ⟨_, exec_scanSealReadDone errs hf hs hw ho, ?_⟩
    rw [State.complete, scanSeal_eq hseals hgood hlost]
    obtain ⟨hflash, hblocks, hserial⟩ := scanSeals_rest (s.graded f errs) { sc with seals := rest, dir := entries }
    have hblocks' := hblocks.trans (show (s.graded f errs).blocks = s.blocks by rw [hg])
    refine ⟨hblocks', hflash.trans (graded_rest s f errs).2.1, hserial.trans (by rw [hg]), fun r' rest' hrest => ?_, fun hrest => ?_⟩
    · obtain ⟨hscan, hphase, hpk, hfl⟩ := scanSeals_next (sc := { sc with seals := rest, dir := entries }) hrest hflight hqueue
      exact ⟨hscan, hphase.trans (by rw [hg]), hpk.trans (by rw [hg]), hfl⟩
    · obtain ⟨hscan, hphase, hpk, hfl, x, hx, hsrc, hkind, hdetail⟩ :=
        scanSeals_end (u := s.graded f errs) (sc := { sc with seals := rest, dir := entries }) hrest hqueue
      exact ⟨hphase, hscan, hfl, hpk, x, hx, hsrc, hkind, hdetail.trans (startDetail_eq entries (by rw [hg]))⟩

end Sys2Proof.Machine

/-! ## SHOW_BIND (O33) -/

namespace Sys2Proof.Machine

/-! ### The bound signal (R92 a, R121 a) -/

/-- A text track's engine at the bound signal, by the context (R92 a, R111). -/
def TrackEngine.onBound (x : ShowCtx) (k : TextTrack) (e : TrackEngine) : TrackEngine :=
  e.boundTo (x.text.get k).enabled (x.cueCounts.get k) (x.index.get k)

/-- The bound signal of some text tracks. -/
def State.textsBound (s : State) (n : Aud) (ks : List TextTrack) : State := ks.foldl (fun s k => s.textBound n k) s

/-- The bound signal of some sound tracks, with the settings of a context. -/
def State.soundsBound (s : State) (n : Aud) (x : ShowCtx) (ds : List SoundTrack) : State :=
  ds.foldl (fun s k => s.modPlay n k fun e => e.onBound (x.sound.get k)) s

theorem textsBound_eq (n : Aud) (ks : List TextTrack) : ∀ s : State, ∃ au, s.textsBound n ks = { s with auds := au } := by
  induction ks with
  | nil => exact fun s => ⟨s.auds, rfl⟩
  | cons k ks ih =>
    intro s
    obtain ⟨au, h⟩ := ih (s.textBound n k)
    exact ⟨au, h⟩

theorem soundsBound_eq (n : Aud) (x : ShowCtx) (ds : List SoundTrack) : ∀ s : State, ∃ au, s.soundsBound n x ds = { s with auds := au } := by
  induction ds with
  | nil => exact fun s => ⟨s.auds, rfl⟩
  | cons k ks ih =>
    intro s
    obtain ⟨au, h⟩ := ih (s.modPlay n k fun e => e.onBound (x.sound.get k))
    exact ⟨au, h⟩

theorem textsBound_aud (n : Aud) (ks : List TextTrack) : ∀ s : State,
    (s.textsBound n ks).aud n = { s.aud n with text := ((s.textsBound n ks).aud n).text } := by
  induction ks with
  | nil => exact fun s => rfl
  | cons k ks ih =>
    intro s
    have h := ih (s.textBound n k)
    rw [textBound_eq, State.modEng_same] at h
    exact h

theorem soundsBound_aud (n : Aud) (x : ShowCtx) (ds : List SoundTrack) : ∀ s : State,
    (s.soundsBound n x ds).aud n = { s.aud n with sound := ((s.soundsBound n x ds).aud n).sound } := by
  induction ds with
  | nil => exact fun s => rfl
  | cons k ks ih =>
    intro s
    have h := ih (s.modPlay n k fun e => e.onBound (x.sound.get k))
    rw [State.modPlay_same] at h
    exact h

theorem textsBound_eng_other (n : Aud) {k : TextTrack} (ks : List TextTrack) : ∀ s : State, k ∉ ks →
    (s.textsBound n ks).eng n k = s.eng n k := by
  induction ks with
  | nil => exact fun s _ => rfl
  | cons j ks ih =>
    intro s h
    obtain ⟨hj, hks⟩ := not_or.mp (mt List.mem_cons.mpr h)
    exact (ih (s.textBound n j) hks).trans (State.modEng_eng_other _ _ _ _ _ hj)

theorem textsBound_eng (n : Aud) {k : TextTrack} (ks : List TextTrack) : ∀ s : State, ks.Nodup → k ∈ ks →
    (s.textsBound n ks).eng n k = TrackEngine.onBound (s.aud n).ctx k (s.eng n k) := by
  induction ks with
  | nil => exact fun s _ h => absurd h List.not_mem_nil
  | cons j ks ih =>
    intro s hn h
    obtain ⟨hj, hks⟩ := List.nodup_cons.mp hn
    rcases List.mem_cons.mp h with rfl | h
    · refine (textsBound_eng_other n ks (s.textBound n k) hj).trans ?_
      rw [textBound_eq, State.modEng_eng]
      rfl
    · have hne : k ≠ j := fun e => hj (e ▸ h)
      refine (ih (s.textBound n j) hks h).trans ?_
      rw [textBound_eq, State.modEng_same, State.modEng_eng_other _ _ _ _ _ hne]

theorem soundsBound_play_other (n : Aud) (x : ShowCtx) {k : SoundTrack} (ds : List SoundTrack) : ∀ s : State, k ∉ ds →
    (s.soundsBound n x ds).play n k = s.play n k := by
  induction ds with
  | nil => exact fun s _ => rfl
  | cons j ks ih =>
    intro s h
    obtain ⟨hj, hks⟩ := not_or.mp (mt List.mem_cons.mpr h)
    exact (ih _ hks).trans (State.modPlay_play_other _ _ _ _ _ hj)

theorem soundsBound_play (n : Aud) (x : ShowCtx) {k : SoundTrack} (ds : List SoundTrack) : ∀ s : State, ds.Nodup → k ∈ ds →
    (s.soundsBound n x ds).play n k = (s.play n k).onBound (x.sound.get k) := by
  induction ds with
  | nil => exact fun s _ h => absurd h List.not_mem_nil
  | cons j ks ih =>
    intro s hn h
    obtain ⟨hj, hks⟩ := List.nodup_cons.mp hn
    rcases List.mem_cons.mp h with rfl | h
    · refine (soundsBound_play_other n x ks _ hj).trans ?_
      rw [State.modPlay_play]
    · have hne : k ≠ j := fun e => hj (e ▸ h)
      refine (ih _ hks h).trans ?_
      rw [State.modPlay_play_other _ _ _ _ _ hne]

/-- The context in STANDBY and BIND_DONE with BOUND, before the engines hear of it (R66, R86). -/
def State.standby (s : State) (n : Aud) : State :=
  (s.modCtx n fun x => { x with st := .standby }).raise (.aud n) .bindDone
    (u8 ((s.aud n).ctx.pkg.getD 0) ++ u8 (s.aud n).ctx.bindGen ++ u8 0)

theorem bound_eq (s : State) (n : Aud) : s.bound n
    = ((s.standby n).textsBound n allText).soundsBound n { (s.aud n).ctx with st := .standby } allSound := by
  unfold State.bound State.standby
  simp only [State.modCtx_same]
  rfl

theorem standby_aud (s : State) (n : Aud) : (s.standby n).aud n = { s.aud n with ctx := { (s.aud n).ctx with st := .standby } } := by
  rw [State.standby, raise_aud, State.modCtx_same]

/-- A change of the text tracks' engines and then of the playouts. -/
theorem aud_of_texts_of_sounds {a b c : Auditorium} (hb : b = { a with text := b.text }) (hc : c = { b with sound := c.sound }) :
    c = { a with text := c.text, sound := c.sound } := by
  have htext := congrArg Auditorium.text hc
  have hrest := congrArg (fun x : Auditorium => { x with sound := c.sound }) hb
  rw [htext]
  exact hc.trans hrest

/-- What the last index page of a bind leaves (R66, R92 a, R121 a). -/
structure BoundTo (s t : State) (n : Aud) : Prop where
  packages : t.packages = s.packages
  notices : t.notices = addNotice (.aud n) .bindDone (u8 ((s.aud n).ctx.pkg.getD 0) ++ u8 (s.aud n).ctx.bindGen ++ u8 0) s.notices
  aud : t.aud n = { s.aud n with ctx := { (s.aud n).ctx with st := .standby }, text := (t.aud n).text, sound := (t.aud n).sound }
  text : ∀ k, t.eng n k = TrackEngine.onBound (s.aud n).ctx k (s.eng n k)
  sound : ∀ k, t.play n k = (s.play n k).onBound ((s.aud n).ctx.sound.get k)

theorem bound_boundTo (s : State) (n : Aud) : BoundTo s (s.bound n) n := by
  have hst := standby_aud s n
  have htext := textsBound_aud n allText (s.standby n)
  have hsound := soundsBound_aud n { (s.aud n).ctx with st := .standby } allSound ((s.standby n).textsBound n allText)
  obtain ⟨au, hau⟩ := textsBound_eq n allText (s.standby n)
  obtain ⟨au', hau'⟩ := soundsBound_eq n { (s.aud n).ctx with st := .standby } allSound ((s.standby n).textsBound n allText)
  have hall (k : TextTrack) : k ∈ allText := by fin_cases k <;> decide
  have hall' (k : SoundTrack) : k ∈ allSound := by fin_cases k <;> decide
  rw [bound_eq]
  refine ⟨by rw [hau', hau]; rfl, by rw [hau', hau]; rfl, ?_, fun k => ?_, fun k => ?_⟩
  · rw [hst] at htext
    exact aud_of_texts_of_sounds htext hsound
  · have hkeep := congrArg (fun a : Auditorium => a.text.get k) hsound
    have heng := congrArg (fun a : Auditorium => a.text.get k) hst
    refine Eq.trans hkeep ((textsBound_eng n _ _ (by decide) (hall k)).trans ?_)
    rw [hst]
    exact congrArg _ heng
  · have hplay := congrArg (fun a : Auditorium => a.sound.get k) htext
    have hplay' := congrArg (fun a : Auditorium => a.sound.get k) hst
    rw [soundsBound_play n _ _ _ (by decide) (hall' k)]
    exact congrArg (fun e => Playout.onBound e _) (hplay.trans hplay')

end Sys2Proof.Machine

/-! ## SHOW_BIND: its tests and its acceptance (O33) -/

namespace Sys2Proof.Machine

/-! ### The values of the command (R65, R171) -/

theorem audOf_eq {b : Byte} {n : Aud} (h : b.toNat = n.val) : audOf b = some n := by
  have hlt : b.toNat < 16 := h ▸ n.isLt
  rw [audOf, dif_pos hlt]
  exact congrArg some (Fin.ext h)

theorem audOf_lt {b : Byte} {n : Aud} (h : audOf b = some n) : b.toNat ≤ 15 := by
  unfold audOf at h
  split at h
  · omega
  · cases h

theorem settingOf_within {e l : Byte} {x : TrackSetting} (h : settingOf e l = some x) : e.toNat ≤ 1 ∧ l.toNat ≤ 240 := by
  unfold settingOf at h
  split at h
  · rename_i b hb
    have he : e.toNat < 2 := (List.getElem?_eq_some_iff.mp hb).1
    split at h
    · exact ⟨by omega, ‹_›⟩
    · cases h
  · cases h

theorem toList_four {α : Type} (v : Vector α 4) : v.toList = [v.get 0, v.get 1, v.get 2, v.get 3] := by
  match v with
  | ⟨⟨[a, b, c, d]⟩, _⟩ => rfl

theorem toList_two {α : Type} (v : Vector α 2) : v.toList = [v.get 0, v.get 1] := by
  match v with
  | ⟨⟨[a, b]⟩, _⟩ => rfl

/-! ### The actions of SHOW_BIND (R65) -/

section action

variable {s : State} {n : Aud} {a pk : Byte} {p : Package} {info : PkgInfo} {ts : Vector TrackSetting 4} {ds : Vector TrackSetting 2}

/-- The context that an accepted SHOW_BIND leaves (R65). -/
def ShowCtx.bindTo (x : ShowCtx) (p : Package) (info : PkgInfo) (ts : Vector TrackSetting 4) (ds : Vector TrackSetting 2) : ShowCtx :=
  { x with
    st := .binding, pkg := some p.id, rate := some info.rate, duration := info.duration
    textCount := info.text.length, soundCount := info.sound.length, cueCounts := info.cueCounts
    c := 0, adv := info.rate.ticks, k := 0, coast := 0, acquire := 0, bindGen := wrap8 (x.bindGen + 1)
    text := #v[trackOrLacking (decide (0 < info.text.length)) (ts.get 0), trackOrLacking (decide (1 < info.text.length)) (ts.get 1),
               trackOrLacking (decide (2 < info.text.length)) (ts.get 2), trackOrLacking (decide (3 < info.text.length)) (ts.get 3)]
    sound := #v[trackOrLacking (decide (0 < info.sound.length)) (ds.get 0), trackOrLacking (decide (1 < info.sound.length)) (ds.get 1)]
    index := Vector.replicate 4 [], bindTodo := p.bindReads, bindAsked := false }

/-- The state that an accepted SHOW_BIND leaves before its first read or the bound signal (R65, R21, R56 a). -/
def State.binding (s : State) (n : Aud) (p : Package) (info : PkgInfo) (ts : Vector TrackSetting 4) (ds : Vector TrackSetting 2) : State :=
  ((s.modPackage p.id fun p => { p with binds := p.binds + 1 }).modCtx n fun x => x.bindTo p info ts ds).modInput n
    (InputUnit.onStart (some info.rate))

/-- The state after an accepted SHOW_BIND: bound at once, waiting on a read of an earlier bind, or reading the first page (R66). -/
def State.bindStarted (v : State) (n : Aud) (p : Package) : State :=
  if p.bindReads = [] then v.bound n else if v.bindInFlight n then v else v.bindRead n

/-- A track that the package lacks is enabled (R65). -/
def Lacks (info : PkgInfo) (ts : Vector TrackSetting 4) (ds : Vector TrackSetting 2) : Prop :=
  ((ts.get 0).enabled ∧ info.text.length ≤ 0) ∨ ((ts.get 1).enabled ∧ info.text.length ≤ 1) ∨ ((ts.get 2).enabled ∧ info.text.length ≤ 2)
    ∨ ((ts.get 3).enabled ∧ info.text.length ≤ 3) ∨ ((ds.get 0).enabled ∧ info.sound.length ≤ 0)
    ∨ ((ds.get 1).enabled ∧ info.sound.length ≤ 1)

theorem lacks_iff : Lacks info ts ds ↔ (∃ k : Fin 4, (ts.get k).enabled = true ∧ info.text.length ≤ k.val)
    ∨ ∃ k : Fin 2, (ds.get k).enabled = true ∧ info.sound.length ≤ k.val := by
  have htext : (∃ k : Fin 4, (ts.get k).enabled = true ∧ info.text.length ≤ k.val) ↔
      ((ts.get 0).enabled ∧ info.text.length ≤ 0) ∨ ((ts.get 1).enabled ∧ info.text.length ≤ 1)
        ∨ ((ts.get 2).enabled ∧ info.text.length ≤ 2) ∨ ((ts.get 3).enabled ∧ info.text.length ≤ 3) := by
    simp only [Fin.exists_fin_succ, IsEmpty.exists_iff, or_false]
    rfl
  have hsound : (∃ k : Fin 2, (ds.get k).enabled = true ∧ info.sound.length ≤ k.val) ↔
      ((ds.get 0).enabled ∧ info.sound.length ≤ 0) ∨ ((ds.get 1).enabled ∧ info.sound.length ≤ 1) := by
    simp only [Fin.exists_fin_two]
    rfl
  rw [htext, hsound, Lacks]
  simp only [or_assoc]

variable (ha : audOf a = some n)
include ha

theorem showBindAction_notVacant (hv : (s.aud n).ctx.st ≠ .vacant) :
    showBindAction a pk (ts.toList.map some) (ds.toList.map some) s = refused s .state := by
  rw [toList_four, toList_two]
  simp only [showBindAction, List.map_cons, List.map_nil, ha, if_pos hv]

variable (hv : (s.aud n).ctx.st = .vacant)
include hv

theorem showBindAction_noPackage (hp : s.package pk.toNat = none) :
    showBindAction a pk (ts.toList.map some) (ds.toList.map some) s = refused s .noSuch := by
  rw [toList_four, toList_two]
  simp only [showBindAction, List.map_cons, List.map_nil, ha, hv, hp, ne_eq, not_true_eq_false, if_false]

variable (hp : s.package pk.toNat = some p)
include hp

theorem showBindAction_notReady (hst : p.state ≠ .ready) :
    showBindAction a pk (ts.toList.map some) (ds.toList.map some) s = refused s .state := by
  rw [toList_four, toList_two]
  simp only [showBindAction, List.map_cons, List.map_nil, ha, hv, hp, ne_eq, not_true_eq_false, if_false]
  split
  · exact absurd ‹_› hst
  · rfl

variable (hst : p.state = .ready) (hi : p.info = some info)
include hst hi

theorem showBindAction_lacking (h : Lacks info ts ds) :
    showBindAction a pk (ts.toList.map some) (ds.toList.map some) s = refused s .range := by
  rw [toList_four, toList_two]
  simp only [showBindAction, List.map_cons, List.map_nil, ha, hv, hp, hst, hi, ne_eq, not_true_eq_false, if_false]
  exact if_pos h

theorem showBindAction_accepted (h : ¬ Lacks info ts ds) :
    showBindAction a pk (ts.toList.map some) (ds.toList.map some) s = done
      ((s.binding n p info ts ds).bindStarted n p) .accepted (u8 (wrap8 ((s.aud n).ctx.bindGen + 1))) := by
  rw [toList_four, toList_two]
  simp only [showBindAction, List.map_cons, List.map_nil, ha, hv, hp, hst, hi, ne_eq, not_true_eq_false, if_false]
  exact if_neg h

end action

/-- A value out of range, or an auditorium that is not one, is refused (R65). -/
theorem showBindAction_range {a pk e0 l0 e1 l1 e2 l2 e3 l3 f0 m0 f1 m1 : Byte} (s : State)
    (h : 15 < a.toNat ∨ (∃ e ∈ [e0, e1, e2, e3, f0, f1], 1 < e.toNat) ∨ (∃ l ∈ [l0, l1, l2, l3, m0, m1], 240 < l.toNat)) :
    showBindAction a pk [settingOf e0 l0, settingOf e1 l1, settingOf e2 l2, settingOf e3 l3] [settingOf f0 m0, settingOf f1 m1] s
      = refused s .range := by
  unfold showBindAction
  split
  · rename_i n t0 t1 t2 t3 d0 d1 ha ht hd
    simp only [List.cons.injEq, and_true] at ht hd
    obtain ⟨h0, h1, h2, h3⟩ := ht
    obtain ⟨h4, h5⟩ := hd
    have := audOf_lt ha
    have := settingOf_within h0
    have := settingOf_within h1
    have := settingOf_within h2
    have := settingOf_within h3
    have := settingOf_within h4
    have := settingOf_within h5
    simp only [List.mem_cons, List.not_mem_nil, or_false, exists_eq_or_imp, exists_eq_left] at h
    omega
  · rfl

/-! ### What an acceptance leaves (R65, R66, R21, R56 a) -/

section accepted

variable {s : State} {n : Aud} {p : Package} {info : PkgInfo} {ts : Vector TrackSetting 4} {ds : Vector TrackSetting 2}

theorem binding_aud (s : State) (n : Aud) (p : Package) (info : PkgInfo) (ts : Vector TrackSetting 4) (ds : Vector TrackSetting 2) :
    (s.binding n p info ts ds).aud n = { s.aud n with
      ctx := (s.aud n).ctx.bindTo p info ts ds, input := InputUnit.onStart (some info.rate) (s.aud n).input } := by
  rw [State.binding, State.modInput_same, State.modCtx_same]
  rfl

theorem binding_package {id : Nat} (hp : s.package id = some p) :
    (s.binding n p info ts ds).package id = some { p with binds := p.binds + 1 } := by
  have hid := package_id hp
  have hmod := package_modPackage s id (fun p => { p with binds := p.binds + 1 }) fun _ => rfl
  rw [hp, Option.map_some, ← hid] at hmod
  rw [← hid]
  exact hmod

theorem trackOrLacking_eq (c : Prop) [Decidable c] (x : TrackSetting) :
    trackOrLacking (decide c) x = if c then x else { enabled := false, lead := 24 } := by
  unfold trackOrLacking
  by_cases h : c <;> simp [h, TrackSetting.reset]

theorem bindTo_text (x : ShowCtx) (p : Package) (k : TextTrack) : (x.bindTo p info ts ds).text.get k
    = if k.val < info.text.length then ts.get k else { enabled := false, lead := 24 } := by
  fin_cases k <;> exact trackOrLacking_eq _ _

theorem bindTo_sound (x : ShowCtx) (p : Package) (k : SoundTrack) : (x.bindTo p info ts ds).sound.get k
    = if k.val < info.sound.length then ds.get k else { enabled := false, lead := 24 } := by
  fin_cases k <;> exact trackOrLacking_eq _ _

theorem bindReads_eq (p : Package) : p.bindReads = [(0 : TextTrack), 1, 2, 3].flatMap (fun k => match p.indexLoc.get k with
    | some loc => (List.range loc.count).map fun o =>
        { track := k, position := loc.first + o, entries := min 128 (p.pageCounts.get k - 128 * o) }
    | none => []) := rfl

/-- What an accepted SHOW_BIND leaves whether it reads an index page, waits or is bound at once. -/
def Takes (v t : State) (n : Aud) : Prop := t.packages = v.packages
  ∧ ∃ st asked tx sd, t.aud n = { v.aud n with ctx := { (v.aud n).ctx with st := st, bindAsked := asked }, text := tx, sound := sd }

theorem takes_refl (v : State) (n : Aud) : Takes v v n := ⟨rfl, (v.aud n).ctx.st, (v.aud n).ctx.bindAsked, (v.aud n).text, (v.aud n).sound, rfl⟩

theorem takes_bound (v : State) (n : Aud) : Takes v (v.bound n) n :=
  ⟨(bound_boundTo v n).packages, .standby, (v.aud n).ctx.bindAsked, _, _, (bound_boundTo v n).aud⟩

/-- A bind's read changes no engine but the store's (R30). -/
theorem request_bind_auds (s : State) (r : Request) (h : r.who = .bind n) : (s.request r).auds = s.auds := by
  unfold State.request State.start
  simp only [h]
  split <;> rfl

/-- The request for an index page (R66). -/
def bindRequest (n : Aud) (id position gen : Nat) : Request :=
  { who := .bind n, op := .readPosition id position, kind := .fetch, need := 0, bindGen := gen, seekCount := 0 }

theorem bindRead_eq {v : State} {r : BindRead} {rest : List BindRead} {id : Nat} (hr : (v.aud n).ctx.bindTodo = r :: rest)
    (hid : (v.aud n).ctx.pkg = some id) : v.bindRead n =
      (v.modCtx n fun x => { x with bindAsked := true }).request (bindRequest n id r.position (v.aud n).ctx.bindGen) := by
  unfold State.bindRead
  simp only [hr, hid]
  rfl

theorem takes_bindRead {v : State} {r : BindRead} {rest : List BindRead} {id : Nat} (hr : (v.aud n).ctx.bindTodo = r :: rest)
    (hid : (v.aud n).ctx.pkg = some id) : Takes v (v.bindRead n) n
      ∧ (v.bindRead n).aud n = { v.aud n with ctx := { (v.aud n).ctx with bindAsked := true } } := by
  have haud : (v.bindRead n).aud n = { v.aud n with ctx := { (v.aud n).ctx with bindAsked := true } } := by
    rw [bindRead_eq hr hid, State.aud, request_bind_auds _ _ rfl]
    exact State.modCtx_same _ _ _
  refine ⟨⟨?_, _, _, _, _, haud⟩, haud⟩
  rw [bindRead_eq hr hid]
  exact (request_keeps _ _).2.2.1

/-- The read of a bind is requested: it waits, or is in flight (R66). -/
theorem bindRead_asks {v : State} {r : BindRead} {rest : List BindRead} {id : Nat} (hr : (v.aud n).ctx.bindTodo = r :: rest)
    (hid : (v.aud n).ctx.pkg = some id) : bindRequest n id r.position (v.aud n).ctx.bindGen ∈ (v.bindRead n).queue
      ∨ ∃ g, (v.bindRead n).flight = some g ∧ g.req = bindRequest n id r.position (v.aud n).ctx.bindGen := by
  rw [bindRead_eq hr hid]
  by_cases hf : (v.modCtx n fun x => { x with bindAsked := true }).flight = none
  · exact .inr ⟨_, request_flight_idle _ hf, rfl⟩
  · exact .inl (request_mem _ hf)

/-- A bind without index pages is bound at once (R66, R92 a, R121 a). -/
theorem bindsTo_of_bound {s v : State} (h : v.aud n = { s.aud n with ctx := (v.aud n).ctx, input := (v.aud n).input }) :
    s.BindsTo (v.bound n) n := by
  obtain ⟨-, hno, haud, heng, hplay⟩ := bound_boundTo v n
  have hctx : ((v.bound n).aud n).ctx = { (v.aud n).ctx with st := .standby } := by
    have := congrArg Auditorium.ctx haud
    exact this
  have htext (k : TextTrack) : v.eng n k = s.eng n k := by
    have := congrArg (fun a : Auditorium => a.text.get k) h
    exact this
  have hsound (k : SoundTrack) : v.play n k = s.play n k := by
    have := congrArg (fun a : Auditorium => a.sound.get k) h
    exact this
  refine ⟨by rw [hctx], ?_, fun k hk => ?_, fun k hk => ?_, fun k => ?_⟩
  · rw [hno]
    obtain ⟨x, hx, hs, hk, hd⟩ := addNotice_pending (.aud n) .bindDone
      (u8 ((v.aud n).ctx.pkg.getD 0) ++ u8 (v.aud n).ctx.bindGen ++ u8 0) v.notices
    refine ⟨x, hx, hs, hk, fun id hid => ?_⟩
    rw [hctx] at hid ⊢
    rw [hd, show (v.aud n).ctx.pkg = some id from hid]
    rfl
  · rw [hctx] at hk ⊢
    rw [heng, htext]
    exact if_pos hk
  · rw [hctx] at hk
    rw [heng, htext]
    exact if_neg (by simp [hk])
  · rw [hplay, hsound, hctx]
    unfold Playout.onBound
    cases ((v.aud n).ctx.sound.get k).enabled <;> rfl

theorem bindStarted_takes {v : State} (htodo : (v.aud n).ctx.bindTodo = p.bindReads) (hid : (v.aud n).ctx.pkg = some p.id) :
    Takes v (v.bindStarted n p) n := by
  unfold State.bindStarted
  split
  · exact takes_bound v n
  · rename_i hne
    obtain ⟨r, rest, hr⟩ := List.exists_cons_of_ne_nil hne
    split
    · exact takes_refl v n
    · exact (takes_bindRead (htodo.trans hr) hid).1

theorem bindInFlight_iff {v : State} : v.bindInFlight n = true ↔ ∃ f, v.flight = some f ∧ f.req.who = .bind n := by
  unfold State.bindInFlight
  cases v.flight with
  | none => simp
  | some f => simp

theorem bindsTo_replied {s t : State} {kind tag : Byte} {code : Code} {vals : List Byte} (h : s.BindsTo t n) :
    s.BindsTo (t.replied kind tag code vals) n := by
  obtain ⟨x, hx⟩ := replied_eq t kind tag code vals
  rw [hx]
  exact h

end accepted

theorem exec_showBind {s : State} (hacc : s.Accepts) (tag a pk e0 l0 e1 l1 e2 l2 e3 l3 f0 m0 f1 m1 : Byte) :
    exec (.showBind tag [a, pk, e0, l0, e1, l1, e2, l2, e3, l3, f0, m0, f1, m1]) s = .next (State.answer 0x32 tag
      (showBindAction a pk [settingOf e0 l0, settingOf e1 l1, settingOf e2 l2, settingOf e3 l3] [settingOf f0 m0, settingOf f1 m1] s.taken)) :=
  congrArg Host.Outcome.next (take_runs s 0x32 tag false _ hacc)

/-- Settles O33: the tests in their order, and the three courses of an acceptance. -/
theorem showBindTakesThePackage : Obligations.ShowBindTakesThePackage := by
  unfold Obligations.ShowBindTakesThePackage
  rintro tag a pk e0 l0 e1 l1 e2 l2 e3 l3 f0 m0 f1 m1 s _ hacc rfl
  rw [exec_showBind hacc]
  refine ⟨fun h => ?_, fun n ts ds ha hts hds => ?_⟩
  · rw [showBindAction_range _ h, answer_refused]
  · rw [hts, hds]
    have ha := audOf_eq ha
    refine ⟨fun hv => ?_, fun hv hp => ?_, fun p hv hp => ⟨fun hst => ?_, fun info hst hi => ⟨fun hlacks => ?_, fun htext hsound => ?_⟩⟩⟩
    · rw [showBindAction_notVacant (s := s.taken) ha hv, answer_refused]
    · rw [showBindAction_noPackage (s := s.taken) ha hv hp, answer_refused]
    · rw [showBindAction_notReady (s := s.taken) ha hv hp hst, answer_refused]
    · rw [showBindAction_lacking (s := s.taken) ha hv hp hst hi (lacks_iff.mpr hlacks), answer_refused]
    · have hhas : ¬ Lacks info ts ds := by
        rw [lacks_iff]
        rintro (⟨k, hk, hlen⟩ | ⟨k, hk, hlen⟩)
        · exact absurd (htext k hk) (Nat.not_lt.mpr hlen)
        · exact absurd (hsound k hk) (Nat.not_lt.mpr hlen)
      rw [showBindAction_accepted (s := s.taken) ha hv hp hst hi hhas, answer_done]
      have hpid := package_id hp
      obtain ⟨hpk, st, asked, tx, sd, haud⟩ := bindStarted_takes (n := n) (v := s.taken.binding n p info ts ds)
        (by rw [binding_aud]; rfl) (by rw [binding_aud]; rfl)
      have hpackage := (package_of_packages hpk pk.toNat).trans (binding_package (s := s.taken) hp)
      rw [binding_aud] at haud
      refine ⟨_, rfl, replied_replyBuf .., ?_⟩
      rw [replied_aud, replied_package, hpackage, haud]
      refine ⟨congrArg some hpid, rfl, rfl, rfl, rfl, rfl, rfl, rfl, rfl, fun k => ?_, fun k => ?_, rfl, rfl, rfl, rfl, rfl, rfl, rfl, rfl,
        rfl, rfl, rfl, rfl, fun reads hreads => ?_⟩
      · exact bindTo_text (ts := ts) (ds := ds) (s.aud n).ctx p k
      · exact bindTo_sound (ts := ts) (ds := ds) (s.aud n).ctx p k
      · have hreads' : reads = p.bindReads := hreads.trans (bindReads_eq p).symm
        rw [← haud]
        have hv : (s.taken.binding n p info ts ds).aud n = { s.aud n with
            ctx := (s.aud n).ctx.bindTo p info ts ds, input := InputUnit.onStart (some info.rate) (s.aud n).input } := binding_aud ..
        refine ⟨fun hnil => ?_, fun r rest hr => ?_⟩
        · rw [State.bindStarted, if_pos (hreads'.symm.trans hnil)]
          exact bindsTo_replied (bindsTo_of_bound (by rw [hv]))
        · have hbr : p.bindReads = r :: rest := hreads'.symm.trans hr
          rw [State.bindStarted, if_neg (by rw [hbr]; exact List.cons_ne_nil r rest)]
          have htodo : ((s.taken.binding n p info ts ds).aud n).ctx.bindTodo = r :: rest := by rw [hv]; exact hbr
          have hpkg : ((s.taken.binding n p info ts ds).aud n).ctx.pkg = some pk.toNat := by rw [hv]; exact congrArg some hpid
          cases hin : (s.taken.binding n p info ts ds).bindInFlight n with
          | true =>
            obtain ⟨f, hf, hw⟩ := bindInFlight_iff.mp hin
            rw [if_pos rfl, hv]
            refine ⟨rfl, hreads'.symm, fun k => Vector.getElem_replicate k.isLt, rfl, rfl, fun hno => absurd hw (hno f hf), fun g _ _ => ?_⟩
            exact ⟨rfl, replied_queue .., replied_flight ..⟩
          | false =>
            obtain ⟨-, haud'⟩ := takes_bindRead htodo hpkg
            have hasks := bindRead_asks htodo hpkg
            rw [if_neg Bool.false_ne_true, haud', replied_queue, replied_flight]
            rw [hv] at hasks ⊢
            refine ⟨rfl, hreads'.symm, fun k => Vector.getElem_replicate k.isLt, rfl, rfl, fun _ => ⟨rfl, fun q hq => hq ▸ hasks⟩,
              fun f hf hw => ?_⟩
            exact absurd (hin.symm.trans (bindInFlight_iff.mpr ⟨f, hf, hw⟩)) Bool.false_ne_true

end Sys2Proof.Machine

/-! ## What the scan makes of the tags (O27)

The statement places no bound on the number of tags of a block that was found. A page's place along its block list is 64 times the block's
place plus its page number (R29), so a SEAL tag on a page numbered 64 or more has the place of a page of the next block, and the seal page
that is to be read is looked for there. A block has 64 pages, so that a scan finds no such block; the statement speaks of it nevertheless. -/

namespace Sys2Proof.Machine

/-- A SEAL tag of package 0, of serial 0. -/
def lateSealTag : PageTag := { role := .seal, pkg := 0, serial := 0, logical := 0, track := 0, generation := 0 }

/-- A package block candidate whose one readable tag, a SEAL tag, follows 64 unreadable ones. -/
def lateSealBlock : ScanBlock :=
  { block := 0, cls := .packageCandidate, marked := false, nextPage := 65, tags := List.replicate 64 .unreadable ++ [.readable lateSealTag] }

/-- The block makes an entry of package 0. -/
theorem scannedPackages_lateSeal : scannedPackages [lateSealBlock] = [scannedPackage [lateSealBlock] 0 0] := by decide

/-- The model reads no seal page of it: the tag's place, 64, lies in a second block, and the package has one. -/
theorem sealsToRead_lateSeal : sealsToRead [lateSealBlock] [scannedPackage [lateSealBlock] 0 0] = [] := by decide

/-- The tags of the block meet what the statement asks of a candidate's: one is readable, and the readable ones agree. -/
theorem lateSeal_agrees : ∀ b ∈ [lateSealBlock], b.cls = .packageCandidate ∨ b.cls = .amendCandidate →
    (∃ g, TagRead.readable g ∈ b.tags)
      ∧ ∀ g h, TagRead.readable g ∈ b.tags → TagRead.readable h ∈ b.tags → h.pkg = g.pkg ∧ h.serial = g.serial := by
  intro b hb _
  obtain rfl := List.mem_singleton.mp hb
  have htag {g : PageTag} (hg : TagRead.readable g ∈ lateSealBlock.tags) : g = lateSealTag := by
    rcases List.mem_append.mp hg with h | h
    · cases List.eq_of_mem_replicate h
    · exact TagRead.readable.inj (List.mem_singleton.mp h)
  refine ⟨⟨lateSealTag, List.mem_append_right _ (List.mem_singleton_self _)⟩, fun g h hg hh => ?_⟩
  rw [htag hg, htag hh]
  exact ⟨rfl, rfl⟩

/-- Refutes O27: of a block with more than 64 tags the seal page that the statement names, on page 64, is not the one that the scan reads. -/
theorem not_scanClassifiesAndGathers : ¬ Obligations.ScanClassifiesAndGathers := by
  unfold Obligations.ScanClassifiesAndGathers
  rintro ⟨-, h⟩
  obtain ⟨-, -, -, -, hpages, -⟩ := h [lateSealBlock] [scannedPackage [lateSealBlock] 0 0] _ _ _ _ _ scannedPackages_lateSeal.symm
    (List.pairwise_singleton _ _) lateSeal_agrees (fun _ _ => rfl) (fun _ _ => rfl) (fun _ _ => rfl) (fun _ => rfl) fun _ => rfl
  obtain ⟨hseals, -⟩ := hpages _ fun _ _ => rfl
  rw [sealsToRead_lateSeal] at hseals
  exact absurd hseals (by decide)

end Sys2Proof.Machine

/-! ## The hard resets (O3) -/

namespace Sys2Proof.Machine

/-- A cut-off operation changes the flash and the free value alone (R30). -/
theorem cutOff_eq (s : State) : ∃ fl k, s.cutOff = { s with flash := fl, free := k } := by
  unfold State.cutOff
  split
  · split
    · exact ⟨_, _, rfl⟩
    · exact ⟨_, _, rfl⟩
    · exact ⟨_, _, rfl⟩
  · exact ⟨_, _, rfl⟩

/-- An operation that is cut off leaves every page but those that it was working on (R30). -/
theorem cutOff_flash_outside {s : State} {a : Nat}
    (hprogram : ∀ f block page, s.flight = some f → f.req.op = .program block page → a ≠ pageAddr block page)
    (herase : ∀ f block, s.flight = some f → f.req.op = .erase block → a / 64 ≠ block) :
    flashGet s.cutOff.flash a = flashGet s.flash a := by
  unfold State.cutOff
  split
  · rename_i f hf
    split
    · rename_i block page hop
      exact flashGet_put_other _ _ (hprogram f block page hf hop)
    · rename_i block hop
      exact flashGet_tear_outside _ _ (herase f block hf hop)
    · rfl
  · rfl

theorem hardReset_aud (b : Bool) (s : State) (n : Aud) : (s.hardReset b).aud n = (s.aud n).hardReset n.val := by
  obtain ⟨fl, k, h⟩ := cutOff_eq s
  have haud : s.cutOff.aud n = s.aud n := by rw [h]; rfl
  show (Vector.ofFn fun n => (s.cutOff.aud n).hardReset n.val)[n.val] = _
  rw [Vector.getElem_ofFn, ← haud]

theorem hardReset_eng (b : Bool) (s : State) (n : Aud) (t : TextTrack) : (s.hardReset b).eng n t = .reset := by
  show ((s.hardReset b).aud n).text[t.val] = .reset
  simp [hardReset_aud, Auditorium.hardReset, Auditorium.reset]

theorem hardReset_play (b : Bool) (s : State) (n : Aud) (t : SoundTrack) : (s.hardReset b).play n t = .reset := by
  show ((s.hardReset b).aud n).sound[t.val] = .reset
  simp [hardReset_aud, Auditorium.hardReset, Auditorium.reset]

theorem hardReset_shold (b : Bool) (s : State) : (s.hardReset b).shold = s.shold.restarted := by
  obtain ⟨fl, k, h⟩ := cutOff_eq s
  show s.cutOff.shold.restarted = _
  rw [h]

theorem hardReset_block (strap : Bool) (s : State) {b : Nat} (h : b < 128) : (s.hardReset strap).block b = .reset := by
  show (Vector.replicate 128 BlockRec.reset)[b]?.getD .reset = .reset
  simp [h]

/-- Both hard resets are one (R159). -/
theorem exec_hardReset {i : Instr} {strap : Bool} (s : State) (h : i = .powerOnReset strap ∨ i = .lineReset strap) :
    exec i s = .next (s.hardReset strap) := by
  rcases h with rfl | rfl
  · rfl
  · rfl

/-- Settles O3: the reset state field by field, and the flash by the operation that was cut off. -/
theorem hardResetLeaves : Obligations.HardResetLeaves := by
  unfold Obligations.HardResetLeaves
  refine ⟨fun i strap s hi => ⟨_, exec_hardReset s hi, rfl, rfl, rfl, rfl, rfl, rfl, rfl, rfl, rfl, rfl, rfl, rfl, fun b => hardReset_block strap s,
    rfl, rfl, rfl, rfl, rfl, rfl, rfl, hardReset_shold strap s, fun n => ?_⟩, fun i strap s t hi h a hprogram herase => ?_⟩
  · rw [hardReset_aud]
    exact ⟨rfl, hardReset_eng strap s n, hardReset_play strap s n, rfl, rfl, rfl⟩
  · rw [exec_hardReset s hi] at h
    cases h
    exact cutOff_flash_outside hprogram herase

end Sys2Proof.Machine

/-! ## The wait on SWI, STORE_RECLAIM and the retire procedure (O25, O20, O19) -/

namespace Sys2Proof.Machine

/-! ### The wait on SWI (R41) -/

/-- SWI becomes inactive while an operation waits: the operation no longer waits, and its step is requested (R41). -/
theorem swiReleased_waiting {s : State} {h : HostSlot} {op : StoreOp} (hs : s.slot = some h) (hw : h.waiting = some op) :
    s.swiReleased = ({ s with swi := false, slot := some h.going } : State).request (hostRequest op) := by
  unfold State.swiReleased
  simp only [hs, Option.bind_some, hw, Option.map_some]

/-- SWI becomes inactive while no operation waits. -/
theorem swiReleased_none {s : State} (h : ∀ x, s.slot = some x → x.waiting = none) : s.swiReleased = { s with swi := false } := by
  unfold State.swiReleased
  cases hs : s.slot with
  | none => rfl
  | some x => simp only [Option.bind_some, h x hs]

/-- Settles O25, by whether an operation waits. -/
theorem swiReleasesTheWaitingStep : Obligations.SwiReleasesTheWaitingStep := by
  unfold Obligations.SwiReleasesTheWaitingStep
  refine fun after s => ⟨fun h op hs => ⟨fun hswi => ?_, fun hswi => hostWrite_free op hswi⟩, fun hnone => ?_, fun h op hs hw => ?_⟩
  · rw [hostWrite_held op hswi, hs, Option.map_some]
  · refine congrArg Host.Outcome.next ?_
    rw [swiReleased_none hnone]
  · have hgoes := request_goes ({ s with swi := false, slot := some h.going } : State) (hostRequest op)
    obtain ⟨hslot, -, hpk, -, hno, -, hflash, -⟩ := request_keeps ({ s with swi := false, slot := some h.going } : State) (hostRequest op)
    rw [← swiReleased_waiting hs hw] at hgoes hslot hpk hno hflash
    exact ⟨_, rfl, rfl, hslot, hgoes.1, hgoes.2, hpk, hflash, hno⟩

/-! ### STORE_RECLAIM (R42) -/

theorem exec_storeReclaim {s : State} (h : s.Accepts) (tag : Byte) :
    exec (.storeReclaim tag []) s = .next (State.answer 0x21 tag (storeReclaimAction s.taken)) :=
  congrArg Host.Outcome.next (take_runs s 0x21 tag false storeReclaimAction h)

theorem mem_ofClass {s : State} {c : BlockClass} {b : Nat} : b ∈ s.ofClass c ↔ b < 128 ∧ (s.block b).cls = c := by
  simp [State.ofClass, Config.storeBlocks]

theorem ofClass_rising (s : State) (c : BlockClass) : (s.ofClass c).Pairwise (· < ·) := List.pairwise_lt_range.filter _

/-- The lowest block of a class heads the list of its blocks, and the others follow. -/
theorem ofClass_of_lowest {s : State} {c : BlockClass} {b : Nat} (hb : b < 128) (hc : (s.block b).cls = c)
    (hlow : ∀ x, x < b → (s.block x).cls ≠ c) :
    ∃ rest, s.ofClass c = b :: rest ∧ (∀ x, x ∈ rest ↔ b < x ∧ x < 128 ∧ (s.block x).cls = c) ∧ rest.Pairwise (· < ·) := by
  have hmem : b ∈ s.ofClass c := mem_ofClass.mpr ⟨hb, hc⟩
  have hrising := ofClass_rising s c
  cases hl : s.ofClass c with
  | nil => rw [hl] at hmem; cases hmem
  | cons a rest =>
    rw [hl] at hmem hrising
    obtain ⟨habove, hrest⟩ := List.pairwise_cons.mp hrising
    have ha : a < 128 ∧ (s.block a).cls = c := mem_ofClass.mp (hl ▸ List.mem_cons_self ..)
    have hab : a = b := by
      rcases List.mem_cons.mp hmem with h | h
      · exact h.symm
      · exact absurd ha.2 (hlow a (habove b h))
    subst hab
    refine ⟨rest, rfl, fun x => ⟨fun hx => ⟨habove x hx, mem_ofClass.mp (hl ▸ List.mem_cons_of_mem _ hx)⟩, fun ⟨hlt, hx⟩ => ?_⟩, hrest⟩
    have hx' : x ∈ a :: rest := hl ▸ mem_ofClass.mpr hx
    exact (List.mem_cons.mp hx').resolve_left fun h => Nat.lt_irrefl _ (h ▸ hlt)

/-- Settles O20: the tests of the command, and the blocks that it takes. -/
theorem storeReclaimIsAccepted : Obligations.StoreReclaimIsAccepted := by
  unfold Obligations.StoreReclaimIsAccepted
  intro tag s hacc
  simp only [exec_storeReclaim hacc]
  have hfree (hswi : s.swi = false) (hslot : s.slot = none) :
      storeReclaimAction s.taken = done (s.taken.reclaimNext (s.ofClass .unknown) 0 0) .accepted [] := by
    unfold storeReclaimAction
    rw [taken_swi, taken_slot, if_neg (by simp [hswi]), if_neg (by simp [hslot])]
    rfl
  refine ⟨fun hswi => ?_, fun hswi hslot => ?_, fun hswi hslot => ⟨fun hnone => ?_, fun b hb hcls hlow => ?_⟩⟩
  · unfold storeReclaimAction
    rw [taken_swi, if_pos hswi, answer_refused]
  · unfold storeReclaimAction
    rw [taken_swi, taken_slot, if_neg (by simp [hswi]), if_pos (Option.isSome_iff_ne_none.mpr hslot), answer_refused]
  · have hempty : s.ofClass .unknown = [] :=
      List.eq_nil_iff_forall_not_mem.mpr fun b hb => hnone b (mem_ofClass.mp hb).1 (mem_ofClass.mp hb).2
    rw [hfree hswi hslot, hempty, answer_done]
    rfl
  · obtain ⟨rest, hl, hrest, hrising⟩ := ofClass_of_lowest hb hcls hlow
    have hwrite : s.taken.reclaimNext (b :: rest) 0 0 = (s.taken.setOp (.reclaim b rest 0 0)).request (hostRequest (.erase b)) :=
      hostWrite_free (s := s.taken.setOp (.reclaim b rest 0 0)) (.erase b) hswi
    obtain ⟨hslot', -, hpk, -, hno, hbl, hflash, -⟩ := request_keeps (s.taken.setOp (.reclaim b rest 0 0)) (hostRequest (.erase b))
    obtain ⟨hidle, hbusy⟩ := request_goes (s.taken.setOp (.reclaim b rest 0 0)) (hostRequest (.erase b))
    rw [hfree hswi hslot, hl, answer_done, hwrite]
    simp only [Host.Outcome.next.injEq, exists_and_left, exists_eq_left', replied_replyBuf, replied_slot, replied_flight, replied_queue, replied_flash,
      replied_blocks, replied_packages, replied_notices]
    exact ⟨rfl, rest, hslot', hrest, hrising, hidle, hbusy, hflash, hbl, hpk, hno⟩

/-! ### The retire procedure (R40) -/

/-- The state after the program of a RETIRE tag, its block released (R40 steps 3 and 4). -/
def State.tagged (s : State) (block page : Nat) (ok : Bool) : State := (s.programmed block page ok).release block (retiredClass ok)

section tagged

variable {s : State} {block page : Nat} (ok : Bool)

theorem tagged_rest (s : State) (block page : Nat) (ok : Bool) : (s.tagged block page ok).packages = s.packages
    ∧ (s.tagged block page ok).notices = s.notices ∧ (s.tagged block page ok).flight = s.flight
    ∧ (s.tagged block page ok).queue = s.queue ∧ (s.tagged block page ok).swi = s.swi := by
  obtain ⟨-, hpk, -, hno, hfl, hq, hswi, -⟩ := programmed_keeps s block page ok
  exact ⟨hpk, hno, hfl, hq, hswi⟩

theorem tagged_block (hb : block < 128) : ((s.tagged block page ok).block block).cls = (if ok then .retired else .unknown)
    ∧ ((s.tagged block page ok).block block).owner = none ∧ ((s.tagged block page ok).block block).marked = false := by
  rw [State.tagged, block_release _ _ hb]
  exact ⟨rfl, rfl, rfl⟩

/-- What follows the program of a RETIRE tag leaves the block records (R23, R42). -/
theorem retireProgrammed_blocks (op : HostOp) :
    (s.retireProgrammed block page op ok).startNext.blocks = (s.tagged block page ok).blocks := by
  rw [(startNext_keeps_rest _).2.2.2.2.1]
  have hdelete (id : Nat) (rest : List Nat) (n : Nat) : ((s.tagged block page ok).deleteNext id rest n).blocks
      = (s.tagged block page ok).blocks := by
    cases rest with
    | nil => rfl
    | cons c cs => exact (hostWrite_rest ((s.tagged block page ok).setOp (.delete id c cs n)) (.erase c)).2.2.2.1
  have hreclaim (rest : List Nat) (k n : Nat) : ((s.tagged block page ok).reclaimNext rest k n).blocks = (s.tagged block page ok).blocks := by
    cases rest with
    | nil => rfl
    | cons c cs => exact (hostWrite_rest ((s.tagged block page ok).setOp (.reclaim c cs k n)) (.erase c)).2.2.2.1
  cases op with
  | loadPage id => rfl
  | sealing id step l => rfl
  | amend id t cue pl sp ls b r stage => rfl
  | cueRead id t cue stage => rfl
  | delete id b rest n => exact hdelete id rest _
  | reclaim b rest k n => exact hreclaim rest k _

/-- An operation that goes on from a retired block with the erase of its next one (R23, R42). -/
theorem tagged_goes (hprog : s.hostProgram = some (block, page)) (op : HostOp) (c : Nat) :
    (((s.tagged block page ok).setOp op).hostWrite (.erase c)).startNext.packages = s.packages
      ∧ (((s.tagged block page ok).setOp op).hostWrite (.erase c)).startNext.notices = s.notices
      ∧ s.GoesOnWith (((s.tagged block page ok).setOp op).hostWrite (.erase c)).startNext op (.erase c) c := by
  obtain ⟨hpk, hno, hfl, hq, hswi⟩ := tagged_rest s block page ok
  obtain ⟨hpk', -, hno', -⟩ := going_rest ((s.tagged block page ok).setOp op) (.erase c)
  exact ⟨hpk'.trans hpk, hno'.trans hno, goesOnWith_hostWrite (u := (s.tagged block page ok).setOp op) rfl hswi hq
    (fun h => flight_ne_none_of_program hprog (hfl ▸ h)) fun _ => rfl⟩

end tagged

/-- Settles O19: the operations that retire a block, each by the blocks that are left to it, and the erase of a failed amendment. -/
theorem retireProcedureEnds : Obligations.RetireProcedureEnds := by
  unfold Obligations.RetireProcedureEnds
  intro s ok block hb
  refine ⟨fun page hprog => ?_, fun id tr cue pl sp ls b r herase hslot => ?_⟩
  · obtain ⟨hpk, hno, -⟩ := tagged_rest s block page ok
    have hexec (op : HostOp) (hop : s.hostOp = some op) (hr : op.retires = true) :
        exec (.retireTagProgramDone ok) s = .next (s.retireProgrammed block page op ok).startNext :=
      exec_retireTagProgramDone ok hprog hop hr
    obtain ⟨t, ht⟩ : ∃ t, exec (.retireTagProgramDone ok) s = .next t := ⟨_, rfl⟩
    have hnext (op : HostOp) (hop : s.hostOp = some op) (hr : op.retires = true) : t = (s.retireProgrammed block page op ok).startNext :=
      Host.Outcome.next.inj (ht.symm.trans (hexec op hop hr))
    refine ⟨t, ht, fun op hop hr => ?_, fun id b n hop => ?_, fun id b c cs n hop => ?_, fun b k n hop => ?_, fun b c cs k n hop => ?_,
      fun id tr cue pl sp ls b r hop => ?_⟩
    · rw [hnext op hop hr, block_of_blocks (retireProgrammed_blocks ok op)]
      exact tagged_block ok hb
    · rw [hnext _ hop rfl]
      obtain ⟨hgone, hslot, hdone, -⟩ := deleteNext_nil (s.tagged block page ok) id (n + if ok then 1 else 0)
      rw [hno] at hdone
      exact ⟨hgone, hslot, hdone⟩
    · rw [hnext _ hop rfl]
      exact tagged_goes ok hprog (.delete id c cs (n + if ok then 1 else 0)) c
    · rw [hnext _ hop rfl]
      obtain ⟨hpk', hslot, hdone, -⟩ := reclaimNext_nil (s.tagged block page ok) k (n + if ok then 1 else 0)
      rw [hno] at hdone
      exact ⟨hslot, hpk'.trans hpk, hdone⟩
    · rw [hnext _ hop rfl]
      exact tagged_goes ok hprog (.reclaim c cs k (n + if ok then 1 else 0)) c
    · rw [hnext _ hop rfl]
      obtain ⟨hslot, hpk', -, hno', -⟩ := startNext_keeps_rest (s.tagged block page ok).endOp
      exact ⟨hslot, hpk'.trans hpk, hno'.trans hno⟩
  · obtain ⟨hgo, hreg, hpk, hno, hbl⟩ := retireTag_goes (afterErase_erased ok herase hslot) block
    refine ⟨_, exec_retireEraseDone ok herase (congrArg (Option.map HostSlot.op) hslot), ?_, hreg, hpk, hno, hgo⟩
    rw [State.complete, block_of_blocks hbl, block_erased s ok hb]

end Sys2Proof.Machine

/-! ## What the completions of the store engine leave as it is (R30, R31) -/

namespace Sys2Proof.Machine

/-! ### The work of the track engines and of a bind -/

/-- The operation in flight stays in flight, and the input units and the emitter units are as they were. -/
structure Undisturbed (s t : State) : Prop where
  flight : s.flight ≠ none → t.flight = s.flight
  input : ∀ n, (t.aud n).input = (s.aud n).input
  emit : ∀ n, (t.aud n).emit = (s.aud n).emit

namespace Undisturbed

variable {s s' s'' : State}

theorem refl (s : State) : Undisturbed s s := ⟨fun _ => rfl, fun _ => rfl, fun _ => rfl⟩

theorem trans (h : Undisturbed s s') (k : Undisturbed s' s'') : Undisturbed s s'' where
  flight := fun hf => by rw [k.flight (by rw [h.flight hf]; exact hf), h.flight hf]
  input := fun n => (k.input n).trans (h.input n)
  emit := fun n => (k.emit n).trans (h.emit n)

theorem of_auds (flight : s'.flight = s.flight) (auds : s'.auds = s.auds) : Undisturbed s s' :=
  ⟨fun _ => flight, fun n => by simp only [State.aud, auds], fun n => by simp only [State.aud, auds]⟩

theorem ite {a b : State} (c : Prop) [Decidable c] (ha : c → Undisturbed s a) (hb : ¬ c → Undisturbed s b) : Undisturbed s (if c then a else b) := by
  split
  · exact ha ‹_›
  · exact hb ‹_›

theorem foldl {α : Type} (f : State → α → State) (h : ∀ s a, Undisturbed s (f s a)) (l : List α) : ∀ s, Undisturbed s (l.foldl f s) := by
  induction l with
  | nil => exact refl
  | cons a as ih => exact fun s => (h s a).trans (ih _)

theorem modEng (s : State) (n : Aud) (t : TextTrack) (f : TrackEngine → TrackEngine) : Undisturbed s (s.modEng n t f) :=
  ⟨fun _ => rfl, by simp, by simp⟩

theorem modPlay (s : State) (n : Aud) (t : SoundTrack) (f : Playout → Playout) : Undisturbed s (s.modPlay n t f) :=
  ⟨fun _ => rfl, by simp, by simp⟩

theorem modAir (s : State) (n : Aud) (f : AirSched → AirSched) : Undisturbed s (s.modAir n f) := ⟨fun _ => rfl, by simp, by simp⟩

theorem modCtx (s : State) (n : Aud) (f : ShowCtx → ShowCtx) : Undisturbed s (s.modCtx n f) := ⟨fun _ => rfl, by simp, by simp⟩

theorem raise (s : State) (src : Source) (k : NoticeKind) (x : List Byte) : Undisturbed s (s.raise src k x) := of_auds rfl rfl

theorem graded (s : State) (f : Flight) (errs : Nat) : Undisturbed s (s.graded f errs) :=
  of_auds (graded_rest s f errs).2.2.2 (graded_auds s f errs)

theorem request (s : State) (r : Request) : Undisturbed s (s.request r) where
  flight := fun h => by rw [request_busy r h]
  input := fun n => (request_aud s r n).2.2.2.1
  emit := fun n => (request_aud s r n).2.2.2.2

theorem engineRead (s : State) (n : Aud) (t : TextTrack) (k : ReadKind) (l need : Nat) : Undisturbed s (s.engineRead n t k l need) :=
  (modEng s n t _).trans (request _ _)

theorem fetchTest (s : State) (n : Aud) (t : TextTrack) : Undisturbed s (s.fetchTest n t) := by
  unfold State.fetchTest
  refine ite _ (fun _ => ?_) fun _ => refl s
  split
  · exact engineRead s n t _ _ _
  · exact refl s

theorem seekRead (s : State) (n : Aud) (t : TextTrack) : Undisturbed s (s.seekRead n t) := by
  unfold State.seekRead
  dsimp only
  split
  · exact engineRead s n t _ _ _
  · exact refl s

theorem missCues (s : State) (n : Aud) (t : TextTrack) (a b c : Nat) : Undisturbed s (s.missCues n t a b c) :=
  (modEng s n t _).trans (raise _ _ _ _)

theorem overflow (s : State) (n : Aud) : Undisturbed s (s.overflow n) := by
  unfold State.overflow
  exact modAir s n _

theorem submit (s : State) (n : Aud) (ev : Event) : Undisturbed s (s.submit n ev) :=
  ite _ (fun _ => modAir s n _) fun _ => overflow s n

theorem submitRestore (n : Aud) (evs : List Event) : ∀ s : State, Undisturbed s (s.submitRestore n evs) := by
  induction evs with
  | nil => exact refl
  | cons ev evs ih => exact fun s => ite _ (fun _ => (modAir s n _).trans (ih _)) fun _ => overflow s n

theorem completeSeek (s : State) (n : Aud) (t : TextTrack) : Undisturbed s (s.completeSeek n t) := by
  rw [completeSeek_eq]
  exact ((modEng s n t _).trans (ite _ (fun _ => refl _) fun _ => submitRestore n _ _)).trans (fetchTest _ n t)

theorem seekOn (s : State) (n : Aud) (t : TextTrack) : Undisturbed s (s.seekOn n t) := by
  rw [seekOn_eq]
  split
  · exact (modEng s n t _).trans (seekRead _ n t)
  · exact ((modEng s n t _).trans (modEng _ n t _)).trans (completeSeek _ n t)

theorem takeSeekPage (s : State) (n : Aud) (t : TextTrack) (cues : List Cue) : Undisturbed s (s.takeSeekPage n t cues) := by
  unfold State.takeSeekPage
  dsimp only
  split
  · exact refl s
  · refine (modEng s n t _).trans (ite _ (fun _ => ?_) fun _ => seekOn _ n t)
    split
    · exact (modEng _ n t _).trans (completeSeek _ n t)
    · exact (modEng _ n t _).trans (completeSeek _ n t)

theorem loseSeekPage (s : State) (n : Aud) (t : TextTrack) : Undisturbed s (s.loseSeekPage n t) := by
  unfold State.loseSeekPage
  dsimp only
  split
  · exact refl s
  · exact (missCues s n t _ _ _).trans (seekOn _ n t)

theorem takeFetchPage (s : State) (n : Aud) (t : TextTrack) (cues : List Cue) : Undisturbed s (s.takeFetchPage n t cues) := by
  rw [takeFetchPage_eq]
  exact (modEng s n t _).trans (fetchTest _ n t)

theorem loseFetchPage (s : State) (n : Aud) (t : TextTrack) : Undisturbed s (s.loseFetchPage n t) :=
  ((missCues s n t _ _ _).trans (modEng _ n t _)).trans (fetchTest _ n t)

theorem discardRead (s : State) (n : Aud) (t : TextTrack) : Undisturbed s (s.discardRead n t) := by
  unfold State.discardRead
  refine (modEng s n t fun e => { e with out := none }).trans ?_
  dsimp only
  split
  · exact seekRead _ n t
  · exact fetchTest _ n t
  · exact refl _

theorem engineReadDone (s : State) (f : Flight) (n : Aud) (t : TextTrack) (errs : Nat) : Undisturbed s (s.engineReadDone f n t errs) := by
  unfold State.engineReadDone
  refine (graded s f errs).trans (ite _ (fun _ => ?_) fun _ => discardRead _ n t)
  split
  · exact takeFetchPage _ n t _
  · exact loseFetchPage _ n t
  · exact takeSeekPage _ n t _
  · exact loseSeekPage _ n t

end Undisturbed

/-! ### The reads of a bind (R66) -/

/-- A step of a bind: its own show context, engines and playouts apart, and the store's requests and the notices, all is as it was. -/
structure BindStep (n : Aud) (s t : State) : Prop extends OnlyAud n s t, Undisturbed s t where
  air : ∀ m, (t.aud m).air = (s.aud m).air

namespace BindStep

variable {n : Aud} {s s' s'' : State}

theorem refl (n : Aud) (s : State) : BindStep n s s := ⟨.refl n s, .refl s, fun _ => rfl⟩

theorem trans (h : BindStep n s s') (k : BindStep n s' s'') : BindStep n s s'' :=
  ⟨h.toOnlyAud.trans k.toOnlyAud, h.toUndisturbed.trans k.toUndisturbed, fun m => (k.air m).trans (h.air m)⟩

theorem foldl {α : Type} (f : State → α → State) (h : ∀ s a, BindStep n s (f s a)) (l : List α) : ∀ s, BindStep n s (l.foldl f s) := by
  induction l with
  | nil => exact refl n
  | cons a as ih => exact fun s => (h s a).trans (ih _)

theorem modCtx (s : State) (n : Aud) (f : ShowCtx → ShowCtx) : BindStep n s (s.modCtx n f) := ⟨modCtx_only s n f, .modCtx s n f, by simp⟩

theorem raise (s : State) (n : Aud) (src : Source) (k : NoticeKind) (x : List Byte) : BindStep n s (s.raise src k x) :=
  ⟨raise_only n s src k x, .raise s src k x, fun _ => rfl⟩

theorem graded (s : State) (f : Flight) (n : Aud) (errs : Nat) : BindStep n s (s.graded f errs) := by
  rcases graded_cases s f errs with h | ⟨k, x, h⟩
  · rw [h]
    exact refl n s
  · rw [h]
    exact raise s n _ k x

theorem modEng (s : State) (n : Aud) (t : TextTrack) (f : TrackEngine → TrackEngine) : BindStep n s (s.modEng n t f) :=
  ⟨modEng_only s n t f, .modEng s n t f, by simp⟩

theorem modPlay (s : State) (n : Aud) (t : SoundTrack) (f : Playout → Playout) : BindStep n s (s.modPlay n t f) :=
  ⟨modPlay_only s n t f, .modPlay s n t f, by simp⟩

theorem request (s : State) (r : Request) (h : ∀ m t, r.who ≠ .engine m t) : BindStep n s (s.request r) :=
  ⟨request_only s r fun m t hw => absurd hw (h m t), .request s r, fun m => (request_aud s r m).2.2.1⟩

theorem bindRead (s : State) (n : Aud) : BindStep n s (s.bindRead n) := by
  unfold State.bindRead
  dsimp only
  split
  · exact (modCtx s n _).trans (request _ _ fun _ _ => by simp)
  · exact refl n s

theorem bound (s : State) (n : Aud) : BindStep n s (s.bound n) := by
  rw [bound_eq]
  have htext : ∀ (s : State) (t : TextTrack), BindStep n s (s.textBound n t) := by
    intro s t
    rw [textBound_eq]
    exact modEng s n t _
  exact (((modCtx s n _).trans (raise _ n _ _ _)).trans (foldl _ htext allText _)).trans (foldl _ (fun s t => modPlay s n t _) allSound _)

end BindStep

/-- What a completion of a bind's read comes to: the bind fails, or goes on (R66). -/
theorem bindReadDone_cases (s : State) (f : Flight) (n : Aud) (errs : Nat) :
    s.bindReadDone f n errs = (s.graded f errs).bindFail n ∨ BindStep n s (s.bindReadDone f n errs) := by
  have hg := BindStep.graded s f n errs
  unfold State.bindReadDone
  dsimp only
  split
  · split
    · split
      · split
        · exact .inr ((hg.trans (.modCtx _ n _)).trans (.bound _ n))
        · exact .inr ((hg.trans (.modCtx _ n _)).trans (.bindRead _ n))
      · exact .inr hg
    · exact .inl rfl
  · split
    · exact .inr (hg.trans (.bindRead _ n))
    · exact .inr hg

/-- An entry but for its bind count (R21). -/
def Package.unbound (p : Package) : Package := { p with binds := 0 }

/-- What a completion of a bind's read leaves as it was, whether the bind fails or goes on (R66, R67). -/
structure BindFrame (n : Aud) (s t : State) : Prop where
  rest : OnlyAud n s { t with packages := s.packages }
  packages : t.packages.map Package.unbound = s.packages.map Package.unbound
  flight : s.flight ≠ none → t.flight = s.flight
  air : ∀ m, (t.aud m).air = (s.aud m).air
  emit : ∀ m, (t.aud m).emit = (s.aud m).emit

theorem BindStep.frame {n : Aud} {s t : State} (h : BindStep n s t) : BindFrame n s t where
  rest := by
    rw [← h.packages]
    exact h.toOnlyAud
  packages := by rw [h.packages]
  flight := h.flight
  air := h.air
  emit := h.emit

theorem unbindCount_packages (s : State) (id : Nat) : (s.unbindCount id).packages.map Package.unbound = s.packages.map Package.unbound := by
  show (s.packages.map fun p => if p.id = id then { p with binds := p.binds - 1 } else p).map Package.unbound = _
  rw [List.map_map]
  refine List.map_congr_left fun p _ => ?_
  rw [Function.comp_apply]
  split
  · rfl
  · rfl

theorem bindFail_frame (s : State) (n : Aud) : BindFrame n s (s.bindFail n) where
  rest := ((modCtx_only s n ShowCtx.vacate).trans (modInput_only _ n InputUnit.onVacant)).trans (raise_only n _ _ _ _)
  packages := unbindCount_packages (s.modCtx n ShowCtx.vacate) _
  flight := fun _ => rfl
  air := fun m => by
    unfold State.bindFail
    dsimp only
    rw [raise_aud, State.modInput_aud_air]
    exact State.modCtx_aud_air ..
  emit := fun m => by
    unfold State.bindFail
    dsimp only
    rw [raise_aud, State.modInput_aud_emit]
    exact State.modCtx_aud_emit ..

theorem BindFrame.of_step {n : Aud} {s s' t : State} (h : BindStep n s s') (k : BindFrame n s' t) : BindFrame n s t where
  rest := by
    have hrest := h.toOnlyAud.trans k.rest
    rwa [h.packages] at hrest
  packages := by rw [k.packages, h.packages]
  flight := fun hf => by rw [k.flight (by rw [h.flight hf]; exact hf), h.flight hf]
  air := fun m => (k.air m).trans (h.air m)
  emit := fun m => (k.emit m).trans (h.emit m)

theorem bindReadDone_frame (s : State) (f : Flight) (n : Aud) (errs : Nat) : BindFrame n s (s.bindReadDone f n errs) := by
  rcases bindReadDone_cases s f n errs with h | h
  · rw [h]
    exact .of_step (.graded s f n errs) (bindFail_frame _ n)
  · exact h.frame

end Sys2Proof.Machine

/-! ### The work of the host operation and of the scan -/

namespace Sys2Proof.Machine

/-- The work of the host operation and of the scan while an operation is in flight: it stays in flight and no auditorium hears of the work,
nor do the SHOLD line, the link's selection, the notice threshold, the announcement count and the events that are due. -/
structure HostWork (s t : State) : Prop where
  shold : t.shold = s.shold
  linkSel : t.linkSel = s.linkSel
  threshold : t.threshold = s.threshold
  announces : t.announces = s.announces
  pending : t.pending = s.pending
  busy : s.flight ≠ none → t.flight = s.flight ∧ t.auds = s.auds

namespace HostWork

variable {s s' s'' : State}

theorem of_same (shold : s'.shold = s.shold) (linkSel : s'.linkSel = s.linkSel) (threshold : s'.threshold = s.threshold)
    (announces : s'.announces = s.announces) (pending : s'.pending = s.pending) (flight : s'.flight = s.flight) (auds : s'.auds = s.auds) :
    HostWork s s' :=
  ⟨shold, linkSel, threshold, announces, pending, fun _ => ⟨flight, auds⟩⟩

theorem refl (s : State) : HostWork s s := .of_same rfl rfl rfl rfl rfl rfl rfl

theorem trans (h : HostWork s s') (k : HostWork s' s'') : HostWork s s'' where
  shold := k.shold.trans h.shold
  linkSel := k.linkSel.trans h.linkSel
  threshold := k.threshold.trans h.threshold
  announces := k.announces.trans h.announces
  pending := k.pending.trans h.pending
  busy := fun hf => by
    obtain ⟨hflight, hauds⟩ := h.busy hf
    obtain ⟨kflight, kauds⟩ := k.busy (by rw [hflight]; exact hf)
    exact ⟨kflight.trans hflight, kauds.trans hauds⟩

theorem ite {a b : State} (c : Prop) [Decidable c] (ha : c → HostWork s a) (hb : ¬ c → HostWork s b) : HostWork s (if c then a else b) := by
  split
  · exact ha ‹_›
  · exact hb ‹_›

theorem request (s : State) (r : Request) : HostWork s (s.request r) := by
  obtain ⟨fl, q, au, h⟩ := request_eq s r
  refine ⟨by rw [h], by rw [h], by rw [h], by rw [h], by rw [h], fun hf => ?_⟩
  rw [request_busy r hf]
  exact ⟨rfl, rfl⟩

theorem raise (s : State) (src : Source) (k : NoticeKind) (x : List Byte) : HostWork s (s.raise src k x) := .of_same rfl rfl rfl rfl rfl rfl rfl

theorem graded (s : State) (f : Flight) (errs : Nat) : HostWork s (s.graded f errs) := by
  obtain ⟨ns, b, h⟩ := graded_eq s f errs
  rw [h]
  exact .of_same rfl rfl rfl rfl rfl rfl rfl

theorem programmed (s : State) (b p : Nat) (ok : Bool) : HostWork s (s.programmed b p ok) := by
  obtain ⟨fl, bl, k, h⟩ := programmed_eq s b p ok
  rw [h]
  exact .of_same rfl rfl rfl rfl rfl rfl rfl

theorem erased (s : State) (b : Nat) (ok : Bool) : HostWork s (s.erased b ok) := by
  obtain ⟨fl, bl, k, h⟩ := erased_eq s b ok
  rw [h]
  exact .of_same rfl rfl rfl rfl rfl rfl rfl

theorem hostRead (s : State) (op : StoreOp) : HostWork s (s.hostRead op) := request s _

theorem hostWrite (s : State) (op : StoreOp) : HostWork s (s.hostWrite op) :=
  ite _ (fun _ => .of_same rfl rfl rfl rfl rfl rfl rfl) fun _ => request s _

theorem setOp (s : State) (op : HostOp) : HostWork s (s.setOp op) := .of_same rfl rfl rfl rfl rfl rfl rfl

theorem endOp (s : State) : HostWork s s.endOp := .of_same rfl rfl rfl rfl rfl rfl rfl

theorem pageReg (s : State) (p : Option PageImage) : HostWork s { s with pageReg := p } := .of_same rfl rfl rfl rfl rfl rfl rfl

theorem load (s : State) (l : Option Load) : HostWork s { s with load := l } := .of_same rfl rfl rfl rfl rfl rfl rfl

theorem modPackage (s : State) (id : Nat) (f : Package → Package) : HostWork s (s.modPackage id f) := .of_same rfl rfl rfl rfl rfl rfl rfl

theorem dropPackage (s : State) (id : Nat) : HostWork s (s.dropPackage id) := .of_same rfl rfl rfl rfl rfl rfl rfl

theorem release (s : State) (b : Nat) (c : BlockClass) : HostWork s (s.release b c) := .of_same rfl rfl rfl rfl rfl rfl rfl

theorem startTx (s : State) (x : TxSource) : HostWork s (s.startTx x) := by
  unfold State.startTx
  split <;> exact .of_same rfl rfl rfl rfl rfl rfl rfl

theorem ready (s : State) (r : Reply) : HostWork s (s.ready r) :=
  .trans (s' := { s with replyBuf := .ready r }) (.of_same rfl rfl rfl rfl rfl rfl rfl) (startTx _ _)

/-! The host operation's steps (R13, R15, R19, R23, R36 to R42). -/

theorem storeFail (s : State) (id op cause : Nat) : HostWork s (s.storeFail id op cause) := raise _ _ _ _

theorem setPkgState (s : State) (id : Nat) (st : PkgState) : HostWork s (s.setPkgState id st) := modPackage _ _ _

theorem retireTag (s : State) (b : Nat) : HostWork s (s.retireTag b) := (pageReg s _).trans (hostWrite _ _)

theorem deleteNext (s : State) (id : Nat) (rest : List Nat) (k : Nat) : HostWork s (s.deleteNext id rest k) := by
  cases rest with
  | cons b bs => exact (setOp s _).trans (hostWrite _ _)
  | nil => exact ((dropPackage s id).trans (endOp _)).trans (raise _ _ _ _)

theorem reclaimNext (s : State) (rest : List Nat) (j k : Nat) : HostWork s (s.reclaimNext rest j k) := by
  cases rest with
  | cons b bs => exact (setOp s _).trans (hostWrite _ _)
  | nil => exact (raise s _ _ _).trans (endOp _)

theorem loadProgramDone (s : State) (id b p : Nat) (ok : Bool) : HostWork s (s.loadProgramDone id b p ok) := by
  unfold State.loadProgramDone
  refine ((programmed s b p ok).trans (endOp _)).trans (ite _ (fun _ => ite _ (fun _ => refl _) fun _ => ?_) fun _ => setPkgState _ _ _)
  exact ((setPkgState _ _ _).trans (load _ none)).trans (storeFail _ _ _ _)

theorem sealStep (s : State) (id step : Nat) (l : Load) : HostWork s (s.sealStep id step l) := by
  unfold State.sealStep
  split
  · split
    · exact ((setOp s _).trans (pageReg _ _)).trans (hostWrite _ _)
    · exact refl s
  · exact refl s

theorem sealProgramDone (s : State) (id k : Nat) (l : Load) (b p : Nat) (ok : Bool) : HostWork s (s.sealProgramDone id k l b p ok) := by
  unfold State.sealProgramDone
  refine (programmed s b p ok).trans ?_
  dsimp only
  split
  · refine ite _ (fun _ => ?_) fun _ => ite _ (fun _ => sealStep _ _ _ _) fun _ => ?_
    · exact ((setPkgState _ _ _).trans (endOp _)).trans (storeFail _ _ _ _)
    · exact ((modPackage _ _ _).trans (endOp _)).trans (raise _ _ _ _)
  · exact endOp _

theorem deleteErased (s : State) (id b : Nat) (rest : List Nat) (k : Nat) (ok : Bool) : HostWork s (s.deleteErased id b rest k ok) :=
  (erased s b ok).trans (ite _ (fun _ => (release _ _ _).trans (deleteNext _ _ _ _)) fun _ => retireTag _ _)

theorem reclaimErased (s : State) (b : Nat) (rest : List Nat) (j k : Nat) (ok : Bool) : HostWork s (s.reclaimErased b rest j k ok) :=
  (erased s b ok).trans (ite _ (fun _ => (release _ _ _).trans (reclaimNext _ _ _ _)) fun _ => retireTag _ _)

theorem retireProgrammed (s : State) (b p : Nat) (op : HostOp) (ok : Bool) : HostWork s (s.retireProgrammed b p op ok) := by
  unfold State.retireProgrammed
  refine ((programmed s b p ok).trans (release _ b (retiredClass ok))).trans ?_
  dsimp only
  split
  · exact deleteNext _ _ _ _
  · exact reclaimNext _ _ _ _
  · exact endOp _

theorem amendNoRoom (s : State) (id b : Nat) (r : Bool) : HostWork s (s.amendNoRoom id b r) := by
  unfold State.amendNoRoom
  exact ((storeFail s _ _ _).trans (ite _ (fun _ => release _ _ _) fun _ => refl _)).trans (endOp _)

theorem amendRead (s : State) (f : Flight) (errs id : Nat) (t : TextTrack) (cue : Nat) (pl : Placement) (sp : Option Nat)
    (ls : List Line) (b : Nat) (r : Bool) (stage : AmendStage) : HostWork s (s.amendRead f errs id t cue pl sp ls b r stage) := by
  unfold State.amendRead
  refine (graded s f errs).trans ?_
  dsimp only
  split
  · refine ite _ (fun _ => ?_) fun _ => (setOp _ _).trans (hostRead _ _)
    split
    · exact (setOp _ _).trans (hostRead _ _)
    · exact amendNoRoom _ _ _ _
  · split
    · exact ite _ (fun _ => amendNoRoom _ _ _ _) fun _ => ((setOp _ _).trans (pageReg _ _)).trans (hostWrite _ _)
    · exact amendNoRoom _ _ _ _
  · exact amendNoRoom _ _ _ _

theorem amendFailed (s : State) (id : Nat) (t : TextTrack) (cue : Nat) (pl : Placement) (sp : Option Nat) (ls : List Line)
    (b p : Nat) (r : Bool) (lg g : Nat) (c : Cue) : HostWork s (s.amendProgrammed id t cue pl sp ls b p r lg g c false) :=
  ((programmed s b p false).trans (storeFail _ _ _ _)).trans (ite _ (fun _ => (setOp _ _).trans (hostWrite _ _)) fun _ => endOp _)

theorem endCueRead (s : State) (c : Code) (v : List Byte) : HostWork s (s.endCueRead c v) := by
  unfold State.endCueRead
  refine (endOp s).trans ?_
  dsimp only
  split
  · exact ready _ _
  · exact refl _

theorem cueReadStep (s : State) (f : Flight) (errs id : Nat) (t : TextTrack) (cue : Nat) (stage : CueReadStage) :
    HostWork s (s.cueReadStep f errs id t cue stage) := by
  unfold State.cueReadStep
  refine (graded s f errs).trans ?_
  dsimp only
  split
  · refine ite _ (fun _ => ?_) fun _ => (setOp _ _).trans (hostRead _ _)
    split
    · exact (setOp _ _).trans (hostRead _ _)
    · exact endCueRead _ _ _
  · split
    · exact endCueRead _ _ _
    · exact endCueRead _ _ _
  · exact endCueRead _ _ _

/-! The scan's steps (R44 to R46). -/

theorem scan (s : State) (sc : Option Scan) : HostWork s { s with scan := sc } := .of_same rfl rfl rfl rfl rfl rfl rfl

theorem scanSeals (s : State) (sc : Scan) : HostWork s (s.scanSeals sc) := by
  unfold State.scanSeals
  split
  · exact (scan s _).trans (request _ _)
  · exact .of_same rfl rfl rfl rfl rfl rfl rfl

theorem scanTag (s : State) (sc : Scan) (b p : Nat) (d : Bool) : HostWork s (s.scanTag sc b p d) := by
  unfold State.scanTag
  dsimp only
  split
  · split
    · exact (scan s _).trans (request _ _)
    · exact .trans (s' := s.resolved _) (.of_same rfl rfl rfl rfl rfl rfl rfl) (scanSeals _ _)
  · exact (scan s _).trans (request _ _)

theorem scanSeal (s : State) (f : Flight) (sc : Scan) (errs : Nat) : HostWork s (s.scanSeal f sc errs) := by
  unfold State.scanSeal
  refine (graded s f errs).trans ?_
  dsimp only
  split
  · exact scanSeals _ _
  · exact scanSeals _ _

end HostWork

/-! ### The completions as the store engine sees them -/

/-- The completion of an operation in flight, where there is one that fits: the work it hands on, and the start of the next request (R31). -/
def Completes (work : State → State → Prop) (s t : State) : Prop := t = s ∨ (s.flight ≠ none ∧ ∃ u, work s u ∧ t = u.startNext)

theorem Completes.mono {P Q : State → State → Prop} {s t : State} (h : ∀ u, P s u → Q s u) (hc : Completes P s t) : Completes Q s t := by
  rcases hc with rfl | ⟨hf, u, hu, rfl⟩
  · exact .inl rfl
  · exact .inr ⟨hf, u, h u hu, rfl⟩

/-- A completion of the host operation or of the scan, the commit of an amendment apart. -/
theorem hostEvent_completes {i : Instr} {s t : State}
    (hi : ∃ ok errs, i ∈ [Instr.loadPageProgramDone ok, .sealStepDone ok, .amendReadDone errs, .amendProgramDone ok, .deleteEraseDone ok,
      .reclaimEraseDone ok, .retireTagProgramDone ok, .retireEraseDone ok, .cueReadStepDone errs, .scanTagReadDone ok, .scanSealReadDone errs])
    (hcommit : i ≠ .amendProgramDone true) (h : exec i s = .next t) : Completes HostWork s t := by
  obtain ⟨ok, errs, hi⟩ := hi
  simp only [List.mem_cons, List.not_mem_nil, or_false] at hi
  have busy {f : Flight} (hf : s.flight = some f) : s.flight ≠ none := by rw [hf]; exact Option.some_ne_none f
  rcases hi with rfl | rfl | rfl | rfl | rfl | rfl | rfl | rfl | rfl | rfl | rfl
  · cases h
    split
    · exact .inr ⟨flight_ne_none_of_program ‹_›, _, .loadProgramDone s _ _ _ ok, rfl⟩
    · exact .inl rfl
  · cases h
    split
    · exact .inr ⟨flight_ne_none_of_program ‹_›, _, .sealProgramDone s _ _ _ _ _ ok, rfl⟩
    · exact .inl rfl
  · cases h
    split
    · split
      · exact .inr ⟨busy ‹_›, _, .amendRead s _ errs _ _ _ _ _ _ _ _ _, rfl⟩
      · exact .inr ⟨busy ‹_›, _, .amendRead s _ errs _ _ _ _ _ _ _ _ _, rfl⟩
      · exact .inl rfl
    · exact .inl rfl
  · cases h
    obtain rfl : ok = false := Bool.eq_false_iff.mpr fun e => hcommit (e ▸ rfl)
    split
    · exact .inr ⟨flight_ne_none_of_program ‹_›, _, .amendFailed s _ _ _ _ _ _ _ _ _ _ _ _, rfl⟩
    · exact .inl rfl
  · cases h
    split
    · exact .inr ⟨flight_ne_none_of_erase ‹_›, _, .deleteErased s _ _ _ _ ok, rfl⟩
    · exact .inl rfl
  · cases h
    split
    · exact .inr ⟨flight_ne_none_of_erase ‹_›, _, .reclaimErased s _ _ _ _ ok, rfl⟩
    · exact .inl rfl
  · cases h
    split
    · split
      · exact .inr ⟨flight_ne_none_of_program ‹_›, _, .retireProgrammed s _ _ _ ok, rfl⟩
      · exact .inl rfl
    · exact .inl rfl
  · cases h
    split
    · exact .inr ⟨flight_ne_none_of_erase ‹_›, _, (HostWork.erased s _ ok).trans (.retireTag _ _), rfl⟩
    · exact .inl rfl
  · cases h
    split
    · split
      · exact .inr ⟨busy ‹_›, _, .cueReadStep s _ errs _ _ _ _, rfl⟩
      · exact .inl rfl
    · exact .inl rfl
  · cases h
    split
    · split
      · exact .inr ⟨busy ‹_›, _, .scanTag s _ _ _ ok, rfl⟩
      · exact .inl rfl
    · exact .inl rfl
  · cases h
    split
    · split
      · exact .inr ⟨busy ‹_›, _, .scanSeal s _ _ errs, rfl⟩
      · exact .inl rfl
    · exact .inl rfl

end Sys2Proof.Machine

/-! ## Requests to the store engine (O9) -/

namespace Sys2Proof.Machine

/-! ### The order of the requests (R31) -/

/-- What a request is ranked by, compared position by position: its requester's rank, and of a track engine's read the need, the auditorium and
the track. -/
def Request.key (a : Request) : List Nat :=
  match a.who with
  | .engine n t => [1, a.need, n.val, t.val]
  | .bind _ => [2]
  | .host => [3]
  | .scan => [4]

theorem before_iff_key (a b : Request) : a.before b = true ↔ a.key < b.key := by
  unfold Request.before Request.key
  cases a.who <;> cases b.who <;> simp [Requester.rank, List.cons_lt_cons_iff]

theorem before_false_iff_key (a b : Request) : a.before b = false ↔ b.key ≤ a.key := by
  rw [← not_lt, ← before_iff_key, Bool.not_eq_true]

theorem before_iff {rank : Requester → Nat} (he : ∀ n t, rank (.engine n t) = 1) (hb : ∀ n, rank (.bind n) = 2) (hh : rank .host = 3)
    (hs : rank .scan = 4) (a b : Request) : a.before b = true ↔ rank a.who < rank b.who
      ∨ ∃ n t m u, a.who = .engine n t ∧ b.who = .engine m u
          ∧ (a.need < b.need ∨ (a.need = b.need ∧ (n < m ∨ (n = m ∧ t < u)))) := by
  have hrank (x : Requester) : rank x = x.rank := by
    cases x with
    | engine n t => exact he n t
    | bind n => exact hb n
    | host => exact hh
    | scan => exact hs
  rw [hrank, hrank]
  unfold Request.before
  cases a.who <;> cases b.who <;> simp [Requester.rank, Fin.val_inj]

/-- The best of the waiting requests is the first of those that none goes before. -/
theorem bestRequest_split {q : List Request} : ∀ {r : Request}, bestRequest q = some r → ∃ front rear, q = front ++ r :: rear
    ∧ (∀ x ∈ front, r.key < x.key) ∧ ∀ x ∈ rear, r.key ≤ x.key := by
  induction q with
  | nil => exact fun h => nomatch h
  | cons y ys ih =>
    intro r h
    unfold bestRequest at h
    split at h
    · rename_i b hb
      obtain ⟨front, rear, rfl, hfront, hrear⟩ := ih hb
      split at h
      · rename_i hbefore
        obtain rfl := Option.some.inj h
        exact ⟨y :: front, rear, rfl, List.forall_mem_cons.mpr ⟨(before_iff_key ..).mp hbefore, hfront⟩, hrear⟩
      · rename_i hafter
        obtain rfl := Option.some.inj h
        have hyb : y.key ≤ b.key := (before_false_iff_key ..).mp (Bool.not_eq_true _ ▸ hafter)
        refine ⟨[], _, rfl, List.forall_mem_nil _, fun x hx => ?_⟩
        rcases List.mem_append.mp hx with hx | hx
        · exact hyb.trans (hfront x hx).le
        · rcases List.mem_cons.mp hx with rfl | hx
          · exact hyb
          · exact hyb.trans (hrear x hx)
    · rename_i hb
      obtain rfl := Option.some.inj h
      obtain rfl := bestRequest_none hb
      exact ⟨[], [], rfl, List.forall_mem_nil _, List.forall_mem_nil _⟩

/-! ### The engine takes the best waiting request (R31) -/

theorem startNext_empty {s : State} (h : s.queue = []) : s.startNext.flight = none ∧ s.startNext.queue = [] := by
  simp only [State.startNext, h, bestRequest, and_self]

theorem startNext_best {s : State} {r : Request} (h : bestRequest s.queue = some r) :
    s.startNext.flight = some { req := r, addr := s.resolve r.op }
      ∧ s.startNext.queue = s.queue.filter fun x => decide (x.who ≠ r.who) := by
  simp only [State.startNext, h, start_flight, start_queue]
  exact ⟨rfl, rfl⟩

theorem startNext_takes_the_first_best {s : State} (h : s.queue ≠ []) : ∃ front r rear, s.queue = front ++ r :: rear
    ∧ (∀ x ∈ front, r.before x = true) ∧ (∀ x ∈ rear, x.before r = false)
    ∧ s.startNext.flight = some { req := r, addr := s.resolve r.op }
    ∧ s.startNext.queue = s.queue.filter fun x => decide (x.who ≠ r.who) := by
  obtain ⟨r, hr⟩ := Option.ne_none_iff_exists'.mp (mt bestRequest_none h)
  obtain ⟨front, rear, hq, hfront, hrear⟩ := bestRequest_split hr
  exact ⟨front, r, rear, hq, fun x hx => (before_iff_key ..).mpr (hfront x hx), fun x hx => (before_false_iff_key ..).mpr (hrear x hx),
    startNext_best hr⟩

/-! ### Every completion ends with the start of the next request (R31) -/

/-- The commit's word to the engines changes auditoriums only (R37, R110). -/
theorem tellCommit_eq (s : State) (id : Nat) (t : TextTrack) (c : Cue) : ∃ au, s.tellCommit id t c = { s with auds := au } := by
  have amended (s : State) (n : Aud) : ∃ au, State.textAmended c s n t = { s with auds := au } := by
    rw [textAmended_eq]
    dsimp only
    split
    · unfold State.submit
      split
      · exact ⟨_, rfl⟩
      · exact ⟨_, rfl⟩
    · exact ⟨_, rfl⟩
  have told (l : List Aud) : ∀ s : State, ∃ au,
      l.foldl (fun s n => if (s.aud n).ctx.pkg = some id ∧ s.textOn n t then State.textAmended c s n t else s) s = { s with auds := au } := by
    induction l with
    | nil => exact fun s => ⟨s.auds, rfl⟩
    | cons n l ih =>
      intro s
      rw [List.foldl_cons]
      obtain ⟨au, h⟩ := ih (if (s.aud n).ctx.pkg = some id ∧ s.textOn n t then State.textAmended c s n t else s)
      rw [h]
      split
      · obtain ⟨au', h'⟩ := amended s n
        exact ⟨au, by rw [h']⟩
      · exact ⟨au, rfl⟩
  exact told allAuds s

/-- The commit of an amendment before its word to the engines: the program, the entry and STORE_DONE (R37). -/
def State.committed (s : State) (id : Nat) (t : TextTrack) (cue block page : Nat) (reserved : Bool) (logical g : Nat) : State :=
  ((s.programmed block page true).modPackage id fun p =>
    { p with amend := if reserved then some block else p.amend
             map := mapPut { logical := logical, page := page, generation := g + 1 } p.map }).raise .store .storeDone
    (u8 id ++ u8 opAmend ++ u8 t.val ++ u16 cue)

theorem committed_work (s : State) (id : Nat) (t : TextTrack) (cue block page : Nat) (reserved : Bool) (logical g : Nat) :
    HostWork s (s.committed id t cue block page reserved logical g) :=
  ((HostWork.programmed s block page true).trans (.modPackage _ _ _)).trans (.raise _ _ _ _)

theorem amendProgrammed_true (s : State) (id : Nat) (t : TextTrack) (cue : Nat) (pl : Placement) (sp : Option Nat) (ls : List Line)
    (block page : Nat) (reserved : Bool) (logical g : Nat) (c : Cue) :
    s.amendProgrammed id t cue pl sp ls block page reserved logical g c true
      = ((s.committed id t cue block page reserved logical g).tellCommit id t c).endOp := rfl

/-- The commit of an amendment, where one is in flight. -/
theorem commit_completes {s t : State} (h : exec (.amendProgramDone true) s = .next t) :
    Completes (fun s u => ∃ v id tr c, HostWork s v ∧ u = (v.tellCommit id tr c).endOp) s t := by
  cases h
  split
  · exact .inr ⟨flight_ne_none_of_program ‹_›, _, ⟨_, _, _, _, committed_work s .., amendProgrammed_true s ..⟩, rfl⟩
  · exact .inl rfl

/-- A completion of a track engine's read. -/
theorem trackReadDone_completes (s : State) (k : ReadKind) (errs : Nat) :
    Completes (fun s u => ∃ f n t, s.flight = some f ∧ f.req.who = .engine n t ∧ u = s.engineReadDone f n t errs) s (s.trackReadDone k errs) := by
  unfold State.trackReadDone
  split
  · rename_i f hf
    split
    · rename_i n t hw
      split
      · exact .inr ⟨by rw [hf]; exact Option.some_ne_none f, _, ⟨f, n, t, hf, hw, rfl⟩, rfl⟩
      · exact .inl rfl
    · exact .inl rfl
  · exact .inl rfl

/-- A completion of a bind's read. -/
theorem bindRead_completes {s t : State} {errs : Nat} (h : exec (.bindIndexReadDone errs) s = .next t) :
    Completes (fun s u => ∃ f n, s.flight = some f ∧ f.req.who = .bind n ∧ u = s.bindReadDone f n errs) s t := by
  cases h
  split
  · rename_i f hf
    split
    · rename_i n hw
      exact .inr ⟨by rw [hf]; exact Option.some_ne_none f, _, ⟨f, n, hf, hw, rfl⟩, rfl⟩
    · exact .inl rfl
  · exact .inl rfl

/-- A completion leaves the operation in flight until the engine starts the next request, or leaves the engine idle (R30, R31). -/
theorem completion_keepsFlight {i : Instr} {s t : State}
    (hi : ∃ errs ok, i ∈ [Instr.fetchReadDone errs, .seekReadDone errs, .bindIndexReadDone errs, .cueReadStepDone errs,
      .loadPageProgramDone ok, .sealStepDone ok, .amendReadDone errs, .amendProgramDone ok, .deleteEraseDone ok,
      .reclaimEraseDone ok, .retireTagProgramDone ok, .retireEraseDone ok, .scanTagReadDone ok, .scanSealReadDone errs])
    (h : exec i s = .next t) : Completes (fun s u => s.flight ≠ none → u.flight = s.flight) s t := by
  have track (k : ReadKind) (errs : Nat) : Completes (fun s u => s.flight ≠ none → u.flight = s.flight) s (s.trackReadDone k errs) := by
    refine (trackReadDone_completes s k errs).mono ?_
    rintro u ⟨f, n, t, -, -, rfl⟩
    exact (Undisturbed.engineReadDone s f n t errs).flight
  by_cases hcommit : i = .amendProgramDone true
  · subst hcommit
    refine (commit_completes h).mono ?_
    rintro u ⟨v, id, tr, c, hv, rfl⟩ hf
    obtain ⟨au, hau⟩ := tellCommit_eq v id tr c
    rw [hau]
    exact (hv.busy hf).1
  · obtain ⟨errs, ok, hi⟩ := hi
    simp only [List.mem_cons, List.not_mem_nil, or_false] at hi
    rcases hi with rfl | rfl | rfl | hi
    · cases h
      exact track .fetch errs
    · cases h
      exact track .seek errs
    · refine (bindRead_completes h).mono ?_
      rintro u ⟨f, n, -, -, rfl⟩
      exact (bindReadDone_frame s f n errs).flight
    · refine (hostEvent_completes ⟨ok, errs, ?_⟩ hcommit h).mono fun u hu hf => (hu.busy hf).1
      simp only [List.mem_cons, List.not_mem_nil, or_false]
      tauto

/-- A read in flight that fits its event completes, whatever its requester makes of it (R31). -/
theorem readDone_completes {s : State} {f : Flight} {i : Instr} {errs : Nat} {damaged : Bool} (hf : s.flight = some f)
    (hi : (i = .fetchReadDone errs ∧ f.req.kind = .fetch ∧ ∃ n k, f.req.who = .engine n k)
      ∨ (i = .seekReadDone errs ∧ f.req.kind = .seek ∧ ∃ n k, f.req.who = .engine n k)
      ∨ (i = .bindIndexReadDone errs ∧ ∃ n, f.req.who = .bind n)
      ∨ (i = .scanTagReadDone damaged ∧ f.req.who = .scan ∧ s.scan ≠ none ∧ ∃ block page, f.req.op = .readTag block page)
      ∨ (i = .scanSealReadDone errs ∧ f.req.who = .scan ∧ s.scan ≠ none ∧ ∃ block page, f.req.op = .readSeal block page)) :
    ∃ u : State, exec i s = .next u.startNext := by
  have track {n : Aud} {t : TextTrack} (hw : f.req.who = .engine n t) :
      s.trackReadDone f.req.kind errs = (s.engineReadDone f n t errs).startNext := by
    simp only [State.trackReadDone, hf, hw, if_true, State.complete]
  rcases hi with ⟨rfl, hk, n, t, hw⟩ | ⟨rfl, hk, n, t, hw⟩ | ⟨rfl, n, hw⟩ | ⟨rfl, hw, hscan, b, p, hop⟩ | ⟨rfl, hw, hscan, b, p, hop⟩
  · exact ⟨_, congrArg Host.Outcome.next (hk ▸ track hw)⟩
  · exact ⟨_, congrArg Host.Outcome.next (hk ▸ track hw)⟩
  · exact ⟨s.bindReadDone f n errs, by simp only [exec, execBindIndexReadDone, hf, hw, State.complete]⟩
  · obtain ⟨sc, hsc⟩ := Option.ne_none_iff_exists'.mp hscan
    exact ⟨_, exec_scanTagReadDone damaged hf hsc hw hop⟩
  · obtain ⟨sc, hsc⟩ := Option.ne_none_iff_exists'.mp hscan
    exact ⟨_, exec_scanSealReadDone errs hf hsc hw hop⟩

/-- Settles O9: a key compared position by position orders the requests, so the engine's choice is the first least one of the queue; and each
completion is its requester's work, which leaves the flight as it is, followed by the start of the next request. -/
theorem requestsAreRanked : Obligations.RequestsAreRanked := by
  unfold Obligations.RequestsAreRanked
  refine ⟨fun s r => ⟨request_flight_idle r, fun h => ?_⟩, fun rank he hb hh hs => before_iff he hb hh hs,
    fun s => ⟨startNext_empty, startNext_takes_the_first_best⟩, fun i s t hi h hne => ?_, fun s f i errs damaged => readDone_completes⟩
  · rw [request_busy r h]
    exact ⟨rfl, rfl⟩
  · rcases completion_keepsFlight hi h with rfl | ⟨hf, u, hu, rfl⟩
    · exact absurd rfl hne
    · exact ⟨hf, u, hu hf, rfl⟩

end Sys2Proof.Machine

/-! ## What an event leaves as it is (O58) -/

namespace Sys2Proof.Machine

/-! ### The lines and timers of an auditorium touch no other -/

theorem ite_only {n : Aud} {s a b : State} (c : Prop) [Decidable c] (ha : c → OnlyAud n s a) (hb : ¬ c → OnlyAud n s b) :
    OnlyAud n s (if c then a else b) := by
  split
  · exact ha ‹_›
  · exact hb ‹_›

theorem ite_fst_only {α : Type} {n : Aud} {s : State} {a b : State × α} (c : Prop) [Decidable c] (ha : c → OnlyAud n s a.1)
    (hb : ¬ c → OnlyAud n s b.1) : OnlyAud n s (if c then a else b).1 := by
  split
  · exact ha ‹_›
  · exact hb ‹_›

/-! Pulses (R47 to R55, R70 to R77). -/

theorem acquirePulse_only (s : State) (n : Aud) (m w : Bool) (p : Nat) : OnlyAud n s (s.acquirePulse n m w p) := by
  unfold State.acquirePulse
  exact ite_only _ (fun _ => modCtx_only s n _) fun _ => ite_only _ (fun _ => modCtx_only s n _) fun _ =>
    (modCtx_only s n _).trans (ite_only _ (fun _ => gainLock_only _ n) fun _ => .refl n _)

theorem runningPulse_only (s : State) (n : Aud) (m : Bool) (p : Nat) : OnlyAud n s (s.runningPulse n m p) := by
  unfold State.runningPulse
  exact (modCtx_only s n _).trans (finishTest_only _ n)

theorem handPulse_only (s : State) (n : Aud) (m w : Bool) (p : Nat) : OnlyAud n s (s.handPulse n m w p) := by
  unfold State.handPulse
  split
  · exact acquirePulse_only s n m w p
  · exact runningPulse_only s n m p
  · exact runningPulse_only s n m p
  · exact modCtx_only s n _
  · exact .refl n s

theorem measure_only (s : State) (n : Aud) (r : RateClass) (m : Nat) : OnlyAud n s (s.measure n r m) := by
  unfold State.measure
  simp only
  exact (modInput_only s n fun u => { u with pm := newEstimate r u.pm m, lastInterval := m }).trans (ite_only _ (fun _ => modInput_only _ n _)
    fun _ => ite_only _ (fun _ => (modInput_only _ n _).trans (raise_only n _ _ _ _)) fun _ => modInput_only _ n _)

theorem acceptPulse_only (s : State) (n : Aud) : OnlyAud n s (s.acceptPulse n) := by
  unfold State.acceptPulse
  simp only
  refine .trans (.trans (.trans ?_ (modInput_only _ n _)) (handPulse_only _ n _ _ _)) (adopt_only _ n)
  split
  · exact measure_only s n _ _
  · exact .refl n s

theorem candidate_only (s : State) (n : Aud) : OnlyAud n s (s.candidate n) := by
  unfold State.candidate
  exact (modInput_only s n fun u => { u with candidates := wrap16 (u.candidates + 1) }).trans (ite_only _ (fun _ => .refl n _) fun _ =>
    ite_only _ (fun _ => raise_only n _ _ _ _) fun _ => acceptPulse_only _ n)

theorem syntheticPulse_only (s : State) (n : Aud) : OnlyAud n s (s.syntheticPulse n) := by
  unfold State.syntheticPulse
  exact (((modCtx_only s n _).trans (modInput_only _ n _)).trans (ite_only _ (fun _ => raise_only n _ _ _ _) fun _ => .refl n _)).trans
    (finishTest_only _ n)

theorem answerDeadline_only (s : State) (n : Aud) : OnlyAud n s (s.answerDeadline n) := by
  unfold State.answerDeadline
  simp only
  split
  · exact (modCtx_only s n _).trans (modInput_only _ n _)
  · exact ite_only _ (fun _ => syntheticPulse_only s n) fun _ => hold_only s n
  · exact ite_only _ (fun _ => syntheticPulse_only s n) fun _ => hold_only s n
  · exact modInput_only s n _

theorem missDeadline_only (s : State) (n : Aud) : OnlyAud n s (s.missDeadline n) := by
  unfold State.missDeadline
  exact ite_only _ (fun _ => .refl n s) fun _ => ((modInput_only s n _).trans (answerDeadline_only _ n)).trans (adopt_only _ n)

theorem risingEdge_only (s : State) (n : Aud) : OnlyAud n s (s.risingEdge n) := by
  unfold State.risingEdge
  exact (modInput_only s n fun u => { u with fp := true }).trans (ite_only _
    (fun _ => ite_only _ (fun _ => (modInput_only _ n _).trans (candidate_only _ n)) fun _ => modInput_only _ n _) fun _ => .refl n _)

theorem qualify_only (s : State) (n : Aud) : OnlyAud n s (s.qualify n) := by
  unfold State.qualify
  exact ite_only _ (fun _ => (modInput_only s n _).trans (candidate_only _ n)) fun _ => .refl n s

/-! Contacts and the gate (R57 to R60). -/

/-- An auxiliary line of the auditorium. -/
def LineOf (n : Aud) (l : ContactLine) : Prop := l = .auxA n ∨ l = .auxB n

theorem modLine_only {n : Aud} {l : ContactLine} (h : LineOf n l) (s : State) (f : Debouncer → Debouncer) : OnlyAud n s (s.modLine l f) := by
  unfold State.modLine
  rcases h with rfl | rfl
  · exact modInput_only s n _
  · exact modInput_only s n _

theorem regateLine_only {n : Aud} {l : ContactLine} (h : LineOf n l) (s : State) : OnlyAud n s (s.regateLine l) := by
  unfold State.regateLine State.regate
  rcases h with rfl | rfl
  · exact modInput_only s n _
  · exact modInput_only s n _

theorem settle_only {n : Aud} {l : ContactLine} (h : LineOf n l) (s : State) : OnlyAud n s (s.settle l) :=
  (modLine_only h s .settle).trans (regateLine_only h _)

/-! The air scheduler (R98 to R101, R116 to R120, R129 to R142). -/

theorem ageAnnouncement_only (s : State) (n : Aud) : OnlyAud n s (s.ageAnnouncement n) := by
  unfold State.ageAnnouncement
  split
  · exact ite_only _ (fun _ => endAnnouncement_only s n) fun _ => modAir_only s n _
  · exact .refl n s

theorem claimAnnouncement_only (s : State) (n : Aud) (b : Build) : OnlyAud n s (s.claimAnnouncement n b).1 := by
  unfold State.claimAnnouncement
  split
  · split
    · split
      · dsimp only
        exact modAir_only s n _
      · exact .refl n s
    · dsimp only
      exact modAir_only s n _
  · exact .refl n s

theorem skipTest_only (s : State) (n : Aud) (p : Nat) (t : SoundTrack) : OnlyAud n s (s.skipTest n p t) := by
  unfold State.skipTest
  simp only
  split
  · exact ite_only _ (fun _ => (modPlay_only s n t _).trans (raise_only n _ _ _ _)) fun _ => .refl n s
  · exact .refl n s

theorem serveTurns_only (n : Aud) (p : Nat) (l : List SoundTrack) : ∀ (s : State) (b : Build), OnlyAud n s (State.serveTurns n p l s b).1 := by
  induction l with
  | nil => exact fun s _ => .refl n s
  | cons t ts ih =>
    intro s b
    unfold State.serveTurns
    simp only
    split
    · exact ih s b
    · split
      · exact .refl n s
      · exact (modPlay_only s n t _).trans (ih _ _)

theorem slotService_only (s : State) (n : Aud) (p : Nat) (b : Build) : OnlyAud n s (s.slotService n p b).1 :=
  (foldl_only _ (fun s t => skipTest_only s n p t) allSound s).trans (serveTurns_only n p _ _ _)

theorem packPending_only (s : State) (n : Aud) (g : Gate) (b : Build) : OnlyAud n s (s.packPending n g b).1 := by
  unfold State.packPending
  dsimp only
  exact modAir_only s n _

theorem runCarousel_only (s : State) (n : Aud) (b : Build) : OnlyAud n s (s.runCarousel n b).1 := by
  unfold State.runCarousel
  dsimp only
  split
  · dsimp only
    exact modAir_only s n _
  · exact .refl n s

theorem releaseCheck_only (s : State) (n : Aud) (p : Nat) (w : Bool) (t : TextTrack) : OnlyAud n s (s.releaseCheck n p w t) :=
  (releaseCheck_spec s n p w t).1.only

theorem closeFrame_only (s : State) (n : Aud) (g : Gate) (p : Nat) (b : Build) : OnlyAud n s (s.closeFrame n g p b).1 := by
  unfold State.closeFrame
  dsimp only
  exact modAir_only s n _

theorem buildFrame_only (s : State) (n : Aud) (k : FrameKind) : OnlyAud n s (s.buildFrame n k).1 := by
  unfold State.buildFrame
  -- the stages from the last to the first (R130)
  refine .trans ?_ (closeFrame_only _ n _ _ _)
  refine .trans ?_ (ite_fst_only _ (fun _ => runCarousel_only _ n _) fun _ => .refl n _)
  refine .trans ?_ (ite_fst_only _ (fun _ => by dsimp only; exact modAir_only _ n _) fun _ => packPending_only _ n _ _)
  refine .trans ?_ (ite_fst_only _ (fun _ => ite_fst_only _ (fun _ => slotService_only _ n _ _) fun _ => soundSignal_only _ n _) fun _ => .refl n _)
  refine .trans ?_ (ite_only _ (fun _ => restoreAll_only _ n) fun _ => .refl n _)
  refine .trans ?_ (ite_only _ (fun _ => foldl_only _ (fun s t => releaseCheck_only s n _ _ t) _ _) fun _ => .refl n _)
  refine .trans ?_ (ite_fst_only _ (fun _ => claimAnnouncement_only _ n _) fun _ => .refl n _)
  exact (finishTest_only s n).trans (modAir_only _ n _)

/-! The emitter (R149 to R158). -/

theorem noteDropped_only (s : State) (n : Aud) (q : Nat) : OnlyAud n s (s.noteDropped n q) := raise_only n _ _ _ _

theorem cutByFault_only (s : State) (n : Aud) (q : Nat) : OnlyAud n s (s.cutByFault n q) := by
  unfold State.cutByFault
  exact (((modEmit_only s n _).trans (raise_only n _ _ _ _)).trans (noteDropped_only _ n q)).trans
    (ite_only _ (fun _ => modEmit_only _ n _) fun _ => (modEmit_only _ n _).trans (raise_only n _ _ _ _))

theorem overcurrent_only (s : State) (n : Aud) : OnlyAud n s (s.overcurrent n) := by
  unfold State.overcurrent
  split
  · exact cutByFault_only s n _
  · exact .refl n s

theorem dropFrame_only (s : State) (n : Aud) (q : Nat) (b : Bool) : OnlyAud n s (s.dropFrame n q b) :=
  (modEmit_only s n _).trans (ite_only _ (fun _ => noteDropped_only _ n q) fun _ => .refl n _)

theorem sendFrame_only (s : State) (n : Aud) (f : AirFrame) (r : BitRate) : OnlyAud n s (s.sendFrame n f r) :=
  (modEmit_only s n _).trans (ite_only _ (fun _ => overcurrent_only _ n) fun _ => .refl n _)

theorem handOver_only (s : State) (n : Aud) (f : Option AirFrame) (r : BitRate) : OnlyAud n s (s.handOver n f r) := by
  unfold State.handOver
  refine (modEmit_only s n fun u => { u with demand := f.isSome }).trans ?_
  have hsend (c : Prop) [Decidable c] (s : State) (f : AirFrame) : OnlyAud n s (if c then s.dropFrame n f.sequence true else s.sendFrame n f r) :=
    ite_only c (fun _ => dropFrame_only s n _ _) fun _ => sendFrame_only s n f r
  simp only
  split
  · split
    · exact hsend _ _ _
    · exact hsend _ _ _
    · exact dropFrame_only _ n _ _
    · exact dropFrame_only _ n _ _
    · exact dropFrame_only _ n _ _
  · exact ite_only _ (fun _ => modEmit_only _ n _) fun _ => .refl n _

theorem endCooling_only (s : State) (n : Aud) : OnlyAud n s (s.endCooling n) := by
  unfold State.endCooling State.recover
  exact ite_only _ (fun _ => (modEmit_only s n _).trans (ite_only _
    (fun _ => ite_only _ (fun _ => restoreAll_only _ n) fun _ => .refl n _) fun _ => .refl n _)) fun _ => .refl n s

theorem endTransmission_only (s : State) (n : Aud) : OnlyAud n s (s.endTransmission n) := by
  unfold State.endTransmission
  split
  · exact modEmit_only s n _
  · exact .refl n s

theorem adoptAir_only (s : State) (n : Aud) : OnlyAud n s (s.adoptAir n) := by
  unfold State.adoptAir
  exact modAud_only s n _

theorem expire_only (s : State) (n : Aud) : OnlyAud n s (s.expire n) := by
  have hpre : OnlyAud n s (((s.modAir n fun a => { a with timer := cycleCounts }).adoptAir n).ageAnnouncement n) :=
    ((modAir_only s n _).trans (adoptAir_only _ n)).trans (ageAnnouncement_only _ n)
  unfold State.expire
  refine hpre.trans ?_
  dsimp only
  split
  · exact ((buildFrame_only _ n _).trans (modAir_only _ n _)).trans (handOver_only _ n _ _)
  · exact (modAir_only _ n _).trans (handOver_only _ n _ _)

/-- An event of an auditorium's lines and timers. -/
theorem audEvent_only {n : Aud} {i : Instr} {s t : State}
    (hi : ∃ level, i ∈ [Instr.framePulseRisingEdge n, .framePulseFallingEdge n, .qualifyingCountReached n, .missingPulseDeadline n,
      .contactLevelChange (.auxA n) level, .contactLevelChange (.auxB n) level, .debounceSettled (.auxA n), .debounceSettled (.auxB n),
      .cycleExpiry n, .transmissionEnd n, .overcurrentFault n level, .coolingEnd n]) (h : exec i s = .next t) : OnlyAud n s t := by
  obtain ⟨level, hi⟩ := hi
  simp only [List.mem_cons, List.not_mem_nil, or_false] at hi
  rcases hi with rfl | rfl | rfl | rfl | rfl | rfl | rfl | rfl | rfl | rfl | rfl | rfl
  · cases h; exact risingEdge_only s n
  · cases h; exact modInput_only s n _
  · cases h; exact qualify_only s n
  · cases h; exact missDeadline_only s n
  · cases h; exact modLine_only (.inl rfl) s _
  · cases h; exact modLine_only (.inr rfl) s _
  · cases h; exact settle_only (.inl rfl) s
  · cases h; exact settle_only (.inr rfl) s
  · cases h; exact expire_only s n
  · cases h; exact endTransmission_only s n
  · cases h; exact (overcurrent_only s n).trans (modEmit_only _ n _)
  · cases h; exact endCooling_only s n

end Sys2Proof.Machine

/-! ### The start of the next request, seen from the auditoriums and the link -/

namespace Sys2Proof.Machine

/-- Starting a request changes of an engine only whether its read is in flight. -/
theorem start_eng_but_out (s : State) (r : Request) (n : Aud) (j : TextTrack) :
    { (s.start r).eng n j with out := (s.eng n j).out } = s.eng n j := by
  unfold State.start
  split
  · rename_i m k _
    by_cases hn : n = m
    · subst hn
      by_cases hj : j = k
      · subst hj
        rw [State.modEng_eng]
        rfl
      · rw [State.modEng_eng_other _ _ _ _ _ hj]
        rfl
    · simp only [State.eng, State.modEng_other _ _ _ _ _ hn]
      rfl
  · rfl

theorem startNext_eng_but_out (s : State) (n : Aud) (j : TextTrack) :
    { s.startNext.eng n j with out := (s.eng n j).out } = s.eng n j := by
  unfold State.startNext
  dsimp only
  split
  · exact start_eng_but_out (State.withdraw { s with flight := none } _) _ n j
  · rfl

theorem startNext_links (s : State) : s.startNext.shold = s.shold ∧ s.startNext.linkSel = s.linkSel ∧ s.startNext.threshold = s.threshold
    ∧ s.startNext.announces = s.announces ∧ s.startNext.pending = s.pending := by
  obtain ⟨fl, q, au, h⟩ := startNext_eq s
  rw [h]
  exact ⟨rfl, rfl, rfl, rfl, rfl⟩

/-! ### The store engine's work reaches no auditorium but by the commit of an amendment -/

/-- What no work of the host operation or of the scan changes. -/
structure StoreFrame (s t : State) : Prop where
  shold : t.shold = s.shold
  linkSel : t.linkSel = s.linkSel
  threshold : t.threshold = s.threshold
  announces : t.announces = s.announces
  pending : t.pending = s.pending
  input : ∀ n, (t.aud n).input = (s.aud n).input
  ctx : ∀ n, (t.aud n).ctx = (s.aud n).ctx
  sound : ∀ n, (t.aud n).sound = (s.aud n).sound
  emit : ∀ n, (t.aud n).emit = (s.aud n).emit

/-- What the commit of an amendment may change besides: the event lists, and what the engines hold of the cues. -/
structure CueFrame (s t : State) : Prop where
  air : ∀ n, (t.aud n).air = (s.aud n).air
  eng : ∀ n k, (s.eng n k).Alike (t.eng n k)

namespace StoreFrame

variable {s s' s'' : State}

theorem refl (s : State) : StoreFrame s s := ⟨rfl, rfl, rfl, rfl, rfl, fun _ => rfl, fun _ => rfl, fun _ => rfl, fun _ => rfl⟩

theorem trans (h : StoreFrame s s') (k : StoreFrame s' s'') : StoreFrame s s'' where
  shold := k.shold.trans h.shold
  linkSel := k.linkSel.trans h.linkSel
  threshold := k.threshold.trans h.threshold
  announces := k.announces.trans h.announces
  pending := k.pending.trans h.pending
  input := fun n => (k.input n).trans (h.input n)
  ctx := fun n => (k.ctx n).trans (h.ctx n)
  sound := fun n => (k.sound n).trans (h.sound n)
  emit := fun n => (k.emit n).trans (h.emit n)

theorem foldl {α : Type} (f : State → α → State) (h : ∀ s a, StoreFrame s (f s a)) (l : List α) : ∀ s, StoreFrame s (l.foldl f s) := by
  induction l with
  | nil => exact refl
  | cons a as ih => exact fun s => (h s a).trans (ih _)

theorem of_auds (h : HostWork s s') (auds : s'.auds = s.auds) : StoreFrame s s' :=
  ⟨h.shold, h.linkSel, h.threshold, h.announces, h.pending, fun n => by simp only [State.aud, auds], fun n => by simp only [State.aud, auds],
    fun n => by simp only [State.aud, auds], fun n => by simp only [State.aud, auds]⟩

theorem startNext (s : State) : StoreFrame s s.startNext := by
  obtain ⟨hshold, hlink, hthreshold, hannounces, hpending⟩ := startNext_links s
  refine ⟨hshold, hlink, hthreshold, hannounces, hpending, fun n => ?_, fun n => ?_, fun n => ?_, fun n => ?_⟩
  all_goals
    obtain ⟨hctx, hsound, -, hinput, hemit⟩ := startNext_aud s n
    assumption

theorem endOp (s : State) : StoreFrame s s.endOp := of_auds (.endOp s) rfl

theorem modEng (s : State) (n : Aud) (t : TextTrack) (f : TrackEngine → TrackEngine) : StoreFrame s (s.modEng n t f) :=
  ⟨rfl, rfl, rfl, rfl, rfl, by simp, by simp, by simp, by simp⟩

theorem modAir (s : State) (n : Aud) (f : AirSched → AirSched) : StoreFrame s (s.modAir n f) :=
  ⟨rfl, rfl, rfl, rfl, rfl, by simp, by simp, by simp, by simp⟩

theorem textAmended (c : Cue) (s : State) (n : Aud) (t : TextTrack) : StoreFrame s (State.textAmended c s n t) := by
  rw [textAmended_eq]
  dsimp only
  split
  · unfold State.submit State.overflow
    split
    · exact (modEng s n t _).trans (modAir _ n _)
    · exact (modEng s n t _).trans (modAir _ n _)
  · exact modEng s n t _

theorem tellCommit (s : State) (id : Nat) (t : TextTrack) (c : Cue) : StoreFrame s (s.tellCommit id t c) := by
  refine foldl _ (fun s n => ?_) allAuds s
  split
  · exact textAmended c s n t
  · exact refl s

end StoreFrame

namespace CueFrame

variable {s s' : State}

theorem of_auds (auds : s'.auds = s.auds) : CueFrame s s' :=
  ⟨fun n => by simp only [State.aud, auds], fun n k => .of_eq (by simp only [State.eng, State.aud, auds])⟩

theorem endOp (s : State) : CueFrame s s.endOp := of_auds rfl

theorem trans {s'' : State} (h : CueFrame s s') (k : CueFrame s' s'') : CueFrame s s'' :=
  ⟨fun n => (k.air n).trans (h.air n), fun n t => (h.eng n t).trans (k.eng n t)⟩

theorem startNext (s : State) : CueFrame s s.startNext where
  air := fun n => by
    obtain ⟨-, -, hair, -, -⟩ := startNext_aud s n
    exact hair
  eng := startNext_alike s

end CueFrame

theorem swiReleased_work (s : State) : HostWork s s.swiReleased ∧ s.swiReleased.auds = s.auds := by
  unfold State.swiReleased
  dsimp only
  split
  · exact ⟨.trans (s' := { s with swi := false, slot := s.slot.map HostSlot.going }) (.of_same rfl rfl rfl rfl rfl rfl rfl) (.request _ _),
      request_host_auds _ _⟩
  · exact ⟨.of_same rfl rfl rfl rfl rfl rfl rfl, rfl⟩

theorem storeEvent_frames {i : Instr} {s t : State}
    (hi : ∃ ok errs, i ∈ [Instr.loadPageProgramDone ok, .sealStepDone ok, .amendReadDone errs, .amendProgramDone ok, .deleteEraseDone ok,
      .reclaimEraseDone ok, .retireTagProgramDone ok, .retireEraseDone ok, .cueReadStepDone errs, .scanTagReadDone ok,
      .scanSealReadDone errs, .swiInactive ok]) (h : exec i s = .next t) :
    StoreFrame s t ∧ (i ≠ .amendProgramDone true → CueFrame s t) := by
  by_cases hcommit : i = .amendProgramDone true
  · refine ⟨?_, fun hne => absurd hcommit hne⟩
    subst hcommit
    rcases commit_completes h with rfl | ⟨hf, u, ⟨v, id, tr, c, hv, hu⟩, rfl⟩
    · exact .refl _
    · obtain ⟨-, hauds⟩ := hv.busy hf
      rw [hu]
      exact (((StoreFrame.of_auds hv hauds).trans (.tellCommit v id tr c)).trans (.endOp _)).trans (.startNext _)
  · obtain ⟨ok, errs, hi⟩ := hi
    by_cases hswi : i = .swiInactive ok
    · subst hswi
      cases h
      obtain ⟨hwork, hauds⟩ := swiReleased_work s
      have hlevel : HostWork s.swiReleased { s.swiReleased with swi := ok } := .of_same rfl rfl rfl rfl rfl rfl rfl
      exact ⟨.of_auds (hwork.trans hlevel) hauds, fun _ => .of_auds hauds⟩
    · have hevent := hostEvent_completes ⟨ok, errs, by simpa [hswi] using hi⟩ hcommit h
      rcases hevent with rfl | ⟨hf, u, hu, rfl⟩
      · exact ⟨.refl _, fun _ => .of_auds rfl⟩
      · obtain ⟨-, hauds⟩ := hu.busy hf
        exact ⟨(StoreFrame.of_auds hu hauds).trans (.startNext u), fun _ => (CueFrame.of_auds hauds).trans (.startNext u)⟩

/-! ### The reads of the track engines and of a bind -/

/-- An engine as another auditorium's or track's read leaves it: as it was, but for its own read that may be in flight now. -/
theorem startNext_eng_of_eq {s u : State} {n : Aud} {j : TextTrack} (h : u.eng n j = s.eng n j) :
    { u.startNext.eng n j with out := (s.eng n j).out } = s.eng n j := by
  rw [← h]
  exact startNext_eng_but_out u n j

theorem trackRead_frame {s t : State} {k : ReadKind} {errs : Nat} (h : t = s.trackReadDone k errs) :
    t.packages = s.packages ∧ t.load = s.load ∧ t.slot = s.slot ∧ t.pageReg = s.pageReg ∧ t.blocks = s.blocks ∧ t.flash = s.flash
      ∧ t.replyBuf = s.replyBuf ∧ t.shold = s.shold
      ∧ ∀ n, (t.aud n).input = (s.aud n).input ∧ (t.aud n).ctx = (s.aud n).ctx ∧ (t.aud n).sound = (s.aud n).sound
          ∧ (t.aud n).emit = (s.aud n).emit
      ∧ ∀ f m k, s.flight = some f → f.req.who = .engine m k → (∀ n, n ≠ m → (t.aud n).air = (s.aud n).air)
          ∧ ∀ n j, (n, j) ≠ (m, k) → { t.eng n j with out := (s.eng n j).out } = s.eng n j := by
  rcases h ▸ trackReadDone_completes s k errs with rfl | ⟨-, u, ⟨f, m, k, hf, hw, rfl⟩, rfl⟩
  · exact ⟨rfl, rfl, rfl, rfl, rfl, rfl, rfl, rfl, fun n => ⟨rfl, rfl, rfl, rfl, fun _ _ _ _ _ => ⟨fun _ _ => rfl, fun _ _ _ => rfl⟩⟩⟩
  · have hstep := engineReadDone_engineStep s f m k errs
    have hundisturbed := Undisturbed.engineReadDone s f m k errs
    obtain ⟨hslot, hpk, hload, -, hblocks, hreg, -, hreply⟩ := startNext_keeps_rest (s.engineReadDone f m k errs)
    obtain ⟨hshold, -⟩ := startNext_links (s.engineReadDone f m k errs)
    obtain ⟨hflash, -⟩ := startNext_rest (s.engineReadDone f m k errs)
    refine ⟨hpk.trans hstep.only.packages, hload.trans hstep.only.load, hslot.trans hstep.only.slot, hreg.trans hstep.only.pageReg,
      hblocks.trans hstep.only.blocks, hflash.trans hstep.only.flash, hreply.trans hstep.only.replyBuf, hshold.trans hstep.only.shold,
      fun n => ?_⟩
    obtain ⟨hctx, hsound, -, hinput, hemit⟩ := startNext_aud (s.engineReadDone f m k errs) n
    refine ⟨hinput.trans (hundisturbed.input n), hctx.trans ?_, hsound.trans ?_, hemit.trans (hundisturbed.emit n), ?_⟩
    · by_cases hn : n = m
      · rw [hn, hstep.ctx]
      · rw [hstep.only.auds n hn]
    · by_cases hn : n = m
      · rw [hn, hstep.sound]
      · rw [hstep.only.auds n hn]
    · intro f' m' k' hf' hw'
      obtain rfl := Option.some.inj (hf.symm.trans hf')
      obtain ⟨rfl, rfl⟩ := Requester.engine.inj (hw.symm.trans hw')
      refine ⟨fun n hn => ?_, fun n j hnj => startNext_eng_of_eq ?_⟩
      · obtain ⟨-, -, hair, -⟩ := startNext_aud (s.engineReadDone f m k errs) n
        rw [hair, hstep.only.auds n hn]
      · by_cases hn : n = m
        · subst hn
          exact hstep.others j fun e => hnj (by rw [e])
        · simp only [State.eng, hstep.only.auds n hn]

theorem bindRead_frame {s t : State} {f : Flight} {m : Aud} {errs : Nat} (hf : s.flight = some f) (hw : f.req.who = .bind m)
    (h : exec (.bindIndexReadDone errs) s = .next t) :
    t.load = s.load ∧ t.slot = s.slot ∧ t.pageReg = s.pageReg ∧ t.blocks = s.blocks ∧ t.flash = s.flash ∧ t.replyBuf = s.replyBuf
      ∧ t.shold = s.shold ∧ t.phase = s.phase ∧ t.pending = s.pending
      ∧ (t.packages.map fun p => { p with binds := 0 }) = (s.packages.map fun p => { p with binds := 0 })
      ∧ (∀ n, (t.aud n).air = (s.aud n).air ∧ (t.aud n).emit = (s.aud n).emit)
      ∧ ∀ n, n ≠ m → (t.aud n).input = (s.aud n).input ∧ (t.aud n).ctx = (s.aud n).ctx ∧ (t.aud n).sound = (s.aud n).sound
          ∧ ∀ j, { t.eng n j with out := (s.eng n j).out } = s.eng n j := by
  rcases bindRead_completes h with rfl | ⟨-, u, ⟨f', m', hf', hw', rfl⟩, rfl⟩
  · exact ⟨rfl, rfl, rfl, rfl, rfl, rfl, rfl, rfl, rfl, rfl, fun _ => ⟨rfl, rfl⟩, fun _ _ => ⟨rfl, rfl, rfl, fun _ => rfl⟩⟩
  · obtain rfl := Option.some.inj (hf.symm.trans hf')
    obtain rfl := Requester.bind.inj (hw.symm.trans hw')
    have hframe := bindReadDone_frame s f m errs
    have hrest := hframe.rest
    obtain ⟨hslot, hpk, hload, -, hblocks, hreg, -, hreply⟩ := startNext_keeps_rest (s.bindReadDone f m errs)
    obtain ⟨hshold, -, -, -, hpending⟩ := startNext_links (s.bindReadDone f m errs)
    obtain ⟨hflash, hphase, -⟩ := startNext_rest (s.bindReadDone f m errs)
    refine ⟨hload.trans hrest.load, hslot.trans hrest.slot, hreg.trans hrest.pageReg, hblocks.trans hrest.blocks, hflash.trans hrest.flash,
      hreply.trans hrest.replyBuf, hshold.trans hrest.shold, hphase.trans hrest.phase, hpending.trans hrest.pending, ?_, fun n => ?_,
      fun n hn => ?_⟩
    · rw [hpk]
      exact hframe.packages
    · obtain ⟨-, -, hair, -, hemit⟩ := startNext_aud (s.bindReadDone f m errs) n
      exact ⟨hair.trans (hframe.air n), hemit.trans (hframe.emit n)⟩
    · have haud : (s.bindReadDone f m errs).aud n = s.aud n := hrest.auds n hn
      obtain ⟨hctx, hsound, -, hinput, -⟩ := startNext_aud (s.bindReadDone f m errs) n
      refine ⟨by rw [hinput, haud], by rw [hctx, haud], by rw [hsound, haud], fun j => startNext_eng_of_eq ?_⟩
      simp only [State.eng, haud]

/-- Settles O58: the frame of each family of events, taken together. -/
theorem eventsKeepWhatIsNotTheirs : Obligations.EventsKeepWhatIsNotTheirs := by
  unfold Obligations.EventsKeepWhatIsNotTheirs
  refine ⟨fun n i s t hi h => ?_, fun i s t hi h => ?_, fun i s t hi h => ?_, fun errs s t f m hf hw h => bindRead_frame hf hw h⟩
  · have k := audEvent_only hi h
    exact ⟨k.auds, k.shold, k.replyBuf, k.refusal, k.framer, k.phase, k.threshold, k.packages, k.serialHigh, k.load, k.slot, k.pageReg, k.flash,
      k.blocks, k.pending⟩
  · obtain ⟨k, hcue⟩ := storeEvent_frames hi h
    refine ⟨k.shold, k.linkSel, k.threshold, k.announces, k.pending, fun n => ⟨k.input n, k.ctx n, k.sound n, k.emit n, fun hne => ?_⟩⟩
    exact ⟨(hcue hne).air n, fun t => have e := (hcue hne).eng n t; ⟨e.look, e.active, e.state, e.cursor, e.seek⟩⟩
  · obtain ⟨errs, rfl | rfl⟩ := hi
    · exact trackRead_frame (Host.Outcome.next.inj h).symm
    · exact trackRead_frame (Host.Outcome.next.inj h).symm

end Sys2Proof.Machine

/-! ## The reads of an amendment and its program (O23) -/

namespace Sys2Proof.Machine

/-! ### A notice stays when another is raised (R166) -/

theorem mem_addNotice_of_mem {src : Source} {k : NoticeKind} {detail : List Byte} {ns : List Notice} {x : Notice} (h : x ∈ ns)
    (hne : noticeRank src k ≠ x.rank) : x ∈ addNotice src k detail ns := by
  induction ns with
  | nil => exact absurd h List.not_mem_nil
  | cons y ys ih =>
    unfold addNotice
    rcases List.mem_cons.mp h with rfl | h
    · rw [if_neg hne]
      split
      · exact List.mem_cons_of_mem _ (List.mem_cons_self ..)
      · exact List.mem_cons_self ..
    · split
      · exact List.mem_cons_of_mem _ h
      · split
        · exact List.mem_cons_of_mem _ (List.mem_cons_of_mem _ h)
        · exact List.mem_cons_of_mem _ (ih h)

/-! ### The ends of an amendment without commit (R38 a, c) -/

section read

variable {s : State} {f : Flight} {errs id cue block : Nat} {t : TextTrack} {pl : Placement} {sp : Option Nat} {ls : List Line}
  {reserved : Bool} {p : Package}

/-- What an end with NO_ROOM leaves, but for the block records. -/
theorem amendNoRoom_rest (s : State) (id block : Nat) (reserved : Bool) : (s.amendNoRoom id block reserved).startNext.slot = none
    ∧ (s.amendNoRoom id block reserved).startNext.packages = s.packages ∧ (s.amendNoRoom id block reserved).startNext.flash = s.flash
    ∧ (s.amendNoRoom id block reserved).startNext.notices = addNotice .store .storeFail (u8 id ++ [2, 1]) s.notices := by
  obtain ⟨hslot, hpk, -, hno, -⟩ := startNext_keeps_rest (s.amendNoRoom id block reserved)
  obtain ⟨hflash, -⟩ := startNext_rest (s.amendNoRoom id block reserved)
  rw [hslot, hpk, hno, hflash]
  cases reserved
  · exact ⟨rfl, rfl, rfl, rfl⟩
  · exact ⟨rfl, rfl, rfl, rfl⟩

theorem amendNoRoom_blocks (s : State) (id block : Nat) (reserved : Bool) : (s.amendNoRoom id block reserved).startNext.blocks
    = if reserved then (s.release block .blank).blocks else s.blocks := by
  obtain ⟨-, -, -, -, hblocks, -⟩ := startNext_keeps_rest (s.amendNoRoom id block reserved)
  rw [hblocks]
  cases reserved
  · rfl
  · rfl

/-- What the grading of a read leaves to the host operation (R34). -/
theorem graded_host (s : State) (f : Flight) (errs : Nat) : (s.graded f errs).blocks = s.blocks ∧ (s.graded f errs).queue = s.queue
    ∧ (s.graded f errs).swi = s.swi := by
  obtain ⟨ns, b, h⟩ := graded_eq s f errs
  rw [h]
  exact ⟨rfl, rfl, rfl⟩

/-- A read after which the amendment ends for want of room. -/
theorem graded_endsWithNoRoom (s : State) (f : Flight) (errs id : Nat) (reserved : Bool) (hblock : block < 128) :
    s.EndsWithNoRoom ((s.graded f errs).amendNoRoom id block reserved).startNext id block reserved := by
  obtain ⟨hpk, hflash, -, -⟩ := graded_rest s f errs
  obtain ⟨hbl, -, -⟩ := graded_host s f errs
  obtain ⟨hslot', hpk', hflash', hno'⟩ := amendNoRoom_rest (s.graded f errs) id block reserved
  have hblocks := amendNoRoom_blocks (s.graded f errs) id block reserved
  refine ⟨hslot', hpk'.trans hpk, hflash'.trans hflash, ?_, ?_, ?_⟩
  · rw [hno']
    exact addNotice_pending ..
  · rintro rfl
    rw [block_of_blocks (hblocks.trans (if_pos rfl)), block_release _ _ hblock, block_of_blocks hbl]
  · rintro rfl
    exact hblocks.trans hbl

/-- The page lost by a read of the host operation is noted, though STORE_FAIL is raised after it (R34). -/
theorem graded_notesLost (s : State) (hw : f.req.who = .host) (herrs : 4 < errs) (id block : Nat) (reserved : Bool) :
    ((s.graded f errs).amendNoRoom id block reserved).startNext.NotesLost f.addr := by
  obtain ⟨-, -, -, hno⟩ := amendNoRoom_rest (s.graded f errs) id block reserved
  obtain ⟨x, hx, hsrc, hkind, hdetail⟩ := addNotice_pending .store .storeUncorrectable
    (u8 (f.addr / 64) ++ u8 (f.addr % 64) ++ u8 f.req.who.code) s.notices
  refine ⟨x, ?_, hsrc, hkind, by rw [hdetail, hw]; rfl⟩
  rw [hno, graded_lost s f herrs]
  refine mem_addNotice_of_mem hx ?_
  rw [Notice.rank, hsrc, hkind]
  decide

/-! ### The reads (R36 steps 1 to 3) -/

theorem exec_amendReadDone {pkg logical position : Nat} {stage : AmendStage} (errs : Nat) (hf : s.flight = some f) (hw : f.req.who = .host)
    (hread : f.req.op = .readPosition pkg position ∨ f.req.op = .readLogical pkg logical)
    (ho : s.hostOp = some (.amend id t cue pl sp ls block reserved stage)) :
    exec (.amendReadDone errs) s = .next (s.complete fun s => s.amendRead f errs id t cue pl sp ls block reserved stage) := by
  rcases hread with hread | hread
  · simp only [exec, execAmendReadDone, hf, ho, hw, hread]
  · simp only [exec, execAmendReadDone, hf, ho, hw, hread]

/-- An index page that is read: the search ends, with an entry or without, or goes on with the next page (log entry 39). -/
theorem amendRead_index {ordinal : Nat} {before : Option IndexEntry} (hp : s.package id = some p) (herrs : errs ≤ 4) :
    s.amendRead f errs id t cue pl sp ls block reserved (.readIndex ordinal before) =
      if (searchIndex p t cue ordinal before (readBytes s.flash f.addr)).2 = true then
        (searchIndex p t cue ordinal before (readBytes s.flash f.addr)).1.elim ((s.graded f errs).amendNoRoom id block reserved) fun en =>
          ((s.graded f errs).setOp (.amend id t cue pl sp ls block reserved (.readPage en))).hostRead (.readLogical id en.logical)
      else ((s.graded f errs).setOp (.amend id t cue pl sp ls block reserved (.readIndex (ordinal + 1)
          (searchIndex p t cue ordinal before (readBytes s.flash f.addr)).1))).hostRead
        (.readPosition id (p.indexPosition t (ordinal + 1))) := by
  obtain ⟨hpk, hflash, -⟩ := graded_rest s f errs
  unfold State.amendRead
  simp only [(package_of_packages hpk id).trans hp, readable, decide_eq_true herrs, hflash]
  cases (searchIndex p t cue ordinal before (readBytes s.flash f.addr)).1 <;> rfl

/-- The page that holds the cue, where its patched content fits and a generation is left: it is in the page register and its program is asked
for (R36). -/
theorem amendRead_page {en : IndexEntry} {c : Cue} {patched : List Cue} (hp : s.package id = some p) (herrs : errs ≤ 4)
    (hc : (pageCues (readBytes s.flash f.addr))[cue - en.firstCue]? = some c)
    (hpatched : patched = (pageCues (readBytes s.flash f.addr)).set (cue - en.firstCue) { c with placement := pl, speaker := sp, lines := ls }) :
    s.amendRead f errs id t cue pl sp ls block reserved (.readPage en) =
      if 1024 < (cuesBytes patched).length ∨ 255 ≤ p.generation en.logical then (s.graded f errs).amendNoRoom id block reserved
      else ({ (s.graded f errs).setOp (.amend id t cue pl sp ls block reserved
          (.program en.logical (p.generation en.logical) { c with placement := pl, speaker := sp, lines := ls })) with
        pageReg := some
          { tag := { role := .amend, pkg := id, serial := p.serial, logical := en.logical, track := t.val
                     generation := p.generation en.logical + 1 }
            body := .bytes (cuesBytes patched) } } : State).hostWrite (.program block (s.block block).nextPage) := by
  obtain ⟨hpk, hflash, -⟩ := graded_rest s f errs
  obtain ⟨hbl, -⟩ := graded_host s f errs
  unfold State.amendRead
  simp only [(package_of_packages hpk id).trans hp, readable, decide_eq_true herrs, hflash, hc, block_of_blocks hbl, ← hpatched]
  rfl

/-- A page that is lost (R34, R38 c). -/
theorem amendRead_lost (stage : AmendStage) (hp : s.package id = some p) (herrs : 4 < errs) :
    s.amendRead f errs id t cue pl sp ls block reserved stage = (s.graded f errs).amendNoRoom id block reserved := by
  obtain ⟨hpk, -⟩ := graded_rest s f errs
  unfold State.amendRead
  simp only [(package_of_packages hpk id).trans hp, readable, decide_eq_false (Nat.not_le.mpr herrs)]

/-- A read that the amendment goes on with: it is under way or waits, and no package, page or block has changed. -/
theorem amendRead_goes_on {u : State} {op : HostOp} {step : StoreOp} (hflight : s.flight ≠ none)
    (hu : u = (((s.graded f errs).setOp op).hostRead step).startNext) : u.slot = some { op := op, waiting := none } ∧ u.HostReads step
      ∧ u.packages = s.packages ∧ u.flash = s.flash ∧ u.blocks = s.blocks := by
  subst hu
  obtain ⟨hpk, hflash, -, hfl⟩ := graded_rest s f errs
  obtain ⟨hbl, -⟩ := graded_host s f errs
  obtain ⟨hslot, -⟩ := hostRead_rest ((s.graded f errs).setOp op) step
  obtain ⟨-, hpk', -, -, hbl', -⟩ := startNext_keeps_rest (((s.graded f errs).setOp op).hostRead step)
  obtain ⟨hflash', -⟩ := startNext_rest (((s.graded f errs).setOp op).hostRead step)
  obtain ⟨-, -, hpk'', -, -, hbl'', hflash'', -⟩ := request_keeps ((s.graded f errs).setOp op) (hostRequest step)
  have hbusy : ((s.graded f errs).setOp op).flight ≠ none := hfl.trans_ne hflight
  exact ⟨hslot, hostRead_reads step hbusy, (hpk'.trans hpk'').trans hpk, (hflash'.trans hflash'').trans hflash, (hbl'.trans hbl'').trans hbl⟩

/-- The program of the patched page goes on, or waits on SWI (R36 step 4, R41). -/
theorem amendRead_programs {u : State} {op : HostOp} {img : PageImage} {b page : Nat} (hflight : s.flight ≠ none)
    (hu : u = (({ (s.graded f errs).setOp op with pageReg := some img } : State).hostWrite (.program b page)).startNext) :
    u.pageReg = some img ∧ s.GoesOnWith u op (.program b page) (pageAddr b page)
      ∧ u.packages = s.packages ∧ u.flash = s.flash ∧ u.blocks = s.blocks := by
  subst hu
  obtain ⟨hpk, hflash, -, hfl⟩ := graded_rest s f errs
  obtain ⟨hbl, hq, hswi⟩ := graded_host s f errs
  obtain ⟨hpk', -, -, hbl', hreg⟩ := going_rest ({ (s.graded f errs).setOp op with pageReg := some img } : State) (.program b page)
  obtain ⟨hflash', -⟩ := startNext_rest (({ (s.graded f errs).setOp op with pageReg := some img } : State).hostWrite (.program b page))
  have hflash'' := (hostWrite_keeps_laws ({ (s.graded f errs).setOp op with pageReg := some img } : State) (.program b page)).flash
  have hbusy : ({ (s.graded f errs).setOp op with pageReg := some img } : State).flight ≠ none := hfl.trans_ne hflight
  exact ⟨hreg, goesOnWith_hostWrite rfl hswi hq hbusy fun _ => rfl, hpk'.trans hpk, (hflash'.trans hflash'').trans hflash, hbl'.trans hbl⟩

end read

end Sys2Proof.Machine

/-! ### The commit tells the engines (R37, R110) -/

namespace Sys2Proof.Machine

/-- A walk over auditoriums whose steps touch their own only leaves an auditorium it does not visit. -/
theorem foldl_aud_other {f : State → Aud → State} (hf : ∀ s m, OnlyAud m s (f s m)) {n : Aud} (l : List Aud) :
    ∀ s : State, n ∉ l → (l.foldl f s).aud n = s.aud n := by
  induction l with
  | nil => exact fun _ _ => rfl
  | cons m l ih =>
    intro s hn
    obtain ⟨hm, hl⟩ := not_or.mp (mt List.mem_cons.mpr hn)
    exact (ih _ hl).trans ((hf s m).auds n hm)

/-- Such a walk does to an auditorium what its one step there does. -/
theorem foldl_aud {f : State → Aud → State} (hf : ∀ s m, OnlyAud m s (f s m)) {n : Aud} (l : List Aud) :
    ∀ s : State, l.Nodup → n ∈ l → ∃ v : State, v.aud n = s.aud n ∧ (l.foldl f s).aud n = (f v n).aud n := by
  induction l with
  | nil => exact fun _ _ h => absurd h List.not_mem_nil
  | cons m l ih =>
    intro s hd hn
    obtain ⟨hm, hl⟩ := List.nodup_cons.mp hd
    rcases List.mem_cons.mp hn with rfl | hn
    · exact ⟨s, rfl, foldl_aud_other hf l (f s n) hm⟩
    · obtain ⟨v, hv, h⟩ := ih (f s m) hl hn
      exact ⟨v, hv.trans ((hf s m).auds n fun e => hm (e ▸ hn)), h⟩

theorem textAmended_only (c : Cue) (s : State) (n : Aud) (t : TextTrack) : OnlyAud n s (State.textAmended c s n t) :=
  (textAmended_spec c s n t).1.only

/-- The word of a commit to one auditorium: that to its track's engine, where the show is bound to the package and the track is on. -/
theorem tellCommit_aud (s : State) (id : Nat) (t : TextTrack) (c : Cue) (n : Aud) : ∃ v : State, v.aud n = s.aud n
    ∧ (s.tellCommit id t c).aud n
      = (if (s.aud n).ctx.pkg = some id ∧ s.textOn n t = true then State.textAmended c v n t else v).aud n := by
  obtain ⟨v, hv, h⟩ := foldl_aud (f := fun s n => if (s.aud n).ctx.pkg = some id ∧ s.textOn n t then State.textAmended c s n t else s)
    (fun s m => ite_only _ (fun _ => textAmended_only c s m t) fun _ => .refl m s) (n := n) allAuds s (by decide) (by revert n; decide)
  have hon : v.textOn n t = s.textOn n t := by simp only [State.textOn, hv]
  rw [hv, hon] at h
  exact ⟨v, hv, h⟩

/-- A restore is made of what the context and the engines hold, and of the gate last read. -/
theorem restoreEvents_congr {s u : State} {n : Aud} (hgate : (u.aud n).air.lastGate = (s.aud n).air.lastGate)
    (hctx : (u.aud n).ctx = (s.aud n).ctx) (heng : ∀ t, (s.eng n t).Alike (u.eng n t)) : u.restoreEvents n = s.restoreEvents n := by
  have htrack (t : TextTrack) : (u.eng n t).restoreEvents t = (s.eng n t).restoreEvents t := by
    simp only [TrackEngine.restoreEvents, (heng t).state, (heng t).active]
  have hheld : u.withheld n = s.withheld n := by simp only [State.withheld, hgate]
  have hon (t : TextTrack) : u.textOn n t = s.textOn n t := by simp only [State.textOn, hctx]
  simp only [State.restoreEvents, hheld, hon, htrack]

/-- An event submitted to a list with room (R135). -/
theorem submit_air_fits {s : State} {n : Aud} (ev : Event) (h : (s.aud n).air.pend.length < 32) :
    ((s.submit n ev).aud n).air = { (s.aud n).air with pend := (s.aud n).air.pend ++ [ev] } := by
  rw [State.submit, if_pos (show _ < pendingLimit from h), State.modAir_same]

/-- An event submitted to a full list (R137). -/
theorem submit_air_full {s : State} {n : Aud} (ev : Event) (h : 32 ≤ (s.aud n).air.pend.length) :
    ((s.submit n ev).aud n).air = { (s.aud n).air with
      pend := s.restoreEvents n ++ (if (s.aud n).air.ann = .ending then [.announceEnd] else [])
      overflows := min 255 ((s.aud n).air.overflows + 1) } := by
  rw [State.submit, if_neg (show ¬ _ < pendingLimit from Nat.not_lt.mpr h), State.overflow]
  dsimp only
  rw [State.modAir_same]
  rfl

section told

variable {s : State} {n : Aud} {t : TextTrack} {c : Cue}

/-- An engine that is told of a commit holds the amended cue in place of its copies. -/
theorem textAmended_alike (c : Cue) (s : State) (n : Aud) (t : TextTrack) :
    ((s.eng n t).amended c).Alike ((State.textAmended c s n t).eng n t) := by
  have hmod : ((s.eng n t).amended c).Alike ((s.modEng n t (TrackEngine.amended c)).eng n t) := .of_eq (State.modEng_eng ..)
  rw [textAmended_eq]
  dsimp only
  split
  · exact hmod.trans (submit_quietStep _ n t _).alike
  · exact hmod

theorem holds_iff (c : Cue) (l : List Cue) : (l.any fun d => decide (d.number = c.number)) = true ↔ ∃ d ∈ l, d.number = c.number := by
  simp

/-- An active cue is sent again where the gate is open (R110). -/
theorem textAmended_sends (hactive : ∃ d ∈ (s.eng n t).active, d.number = c.number) (hgate : (s.aud n).air.lastGate = some .opened) :
    State.textAmended c s n t = (s.modEng n t (TrackEngine.amended c)).submit n (.cueOn t c) := by
  rw [textAmended_eq]
  exact if_pos ⟨(holds_iff ..).mpr hactive, by simp [State.withheld, hgate]⟩

/-- A cue that is not active, or a gate that withholds events, leaves the event list (R109, R110). -/
theorem textAmended_air_kept
    (h : (∀ d ∈ (s.eng n t).active, d.number ≠ c.number) ∨ (s.aud n).air.lastGate ≠ some .opened) :
    ((State.textAmended c s n t).aud n).air = (s.aud n).air := by
  rw [textAmended_eq]
  dsimp only
  rw [if_neg, State.modEng_aud_air]
  rintro ⟨hany, hopen⟩
  rcases h with h | h
  · obtain ⟨d, hd, hnum⟩ := (holds_iff ..).mp hany
    exact h d hd hnum
  · simp [State.withheld, h] at hopen

/-- The event list after an active cue was sent again: the event at its end, or the overflow's restore in its place (R110, R137). -/
theorem textAmended_air_sent (hactive : ∃ d ∈ (s.eng n t).active, d.number = c.number) (hgate : (s.aud n).air.lastGate = some .opened) :
    ((s.aud n).air.pend.length < 32 →
      ((State.textAmended c s n t).aud n).air = { (s.aud n).air with pend := (s.aud n).air.pend ++ [.cueOn t c] })
    ∧ (32 ≤ (s.aud n).air.pend.length → ((State.textAmended c s n t).aud n).air = { (s.aud n).air with
        pend := (State.textAmended c s n t).restoreEvents n ++ (if (s.aud n).air.ann = .ending then [.announceEnd] else [])
        overflows := min 255 ((s.aud n).air.overflows + 1) }) := by
  have hair : ((s.modEng n t (TrackEngine.amended c)).aud n).air = (s.aud n).air := State.modEng_aud_air ..
  rw [textAmended_sends hactive hgate]
  refine ⟨fun h => ?_, fun h => ?_⟩
  · rw [submit_air_fits _ (by rw [hair]; exact h), hair]
  · have hfull := submit_air_full (s := s.modEng n t (TrackEngine.amended c)) (n := n) (.cueOn t c) (by rw [hair]; exact h)
    have hrestore : ((s.modEng n t (TrackEngine.amended c)).submit n (.cueOn t c)).restoreEvents n
        = (s.modEng n t (TrackEngine.amended c)).restoreEvents n :=
      restoreEvents_congr (by rw [hfull]) (submit_quietStep _ n t _).ctx fun u => (submit_quietStep _ n u _).alike
    rw [hrestore, hfull, hair]

end told

/-! ### What the commit comes to (R37) -/

section commit

variable {s : State} {id cue block page logical g : Nat} {t : TextTrack} {reserved : Bool} {c : Cue} {p : Package}

/-- The state after the commit: the engine then takes its next request. -/
def State.afterCommit (s : State) (id : Nat) (t : TextTrack) (cue block page : Nat) (reserved : Bool) (logical g : Nat) (c : Cue) : State :=
  ((s.committed id t cue block page reserved logical g).tellCommit id t c).endOp.startNext

theorem exec_commit {pl : Placement} {sp : Option Nat} {ls : List Line} (hp : s.hostProgram = some (block, page))
    (ho : s.hostOp = some (.amend id t cue pl sp ls block reserved (.program logical g c))) :
    exec (.amendProgramDone true) s = .next (s.afterCommit id t cue block page reserved logical g c) :=
  exec_amendProgramDone true hp ho

theorem committed_package (hp : s.package id = some p) : (s.committed id t cue block page reserved logical g).package id
    = some { p with
        amend := if reserved then some block else p.amend
        map := mapPut { logical := logical, page := page, generation := g + 1 } p.map } := by
  have h := package_modPackage (s.programmed block page true) id (fun p =>
    { p with amend := if reserved then some block else p.amend
             map := mapPut { logical := logical, page := page, generation := g + 1 } p.map }) fun _ => rfl
  rw [programmed_package, hp] at h
  exact h

theorem committed_notices (s : State) : (s.committed id t cue block page reserved logical g).notices
    = addNotice .store .storeDone (u8 id ++ [2] ++ u8 t.val ++ u16 cue) s.notices := by
  obtain ⟨-, -, -, hno, -⟩ := programmed_keeps s block page true
  rw [← hno]
  rfl

theorem afterCommit_store (hp : s.package id = some p) : (s.afterCommit id t cue block page reserved logical g c).package id
      = some { p with
          amend := if reserved then some block else p.amend
          map := mapPut { logical := logical, page := page, generation := g + 1 } p.map }
    ∧ (s.afterCommit id t cue block page reserved logical g c).slot = none
    ∧ (s.afterCommit id t cue block page reserved logical g c).notices
      = addNotice .store .storeDone (u8 id ++ [2] ++ u8 t.val ++ u16 cue) s.notices := by
  obtain ⟨au, htold⟩ := tellCommit_eq (s.committed id t cue block page reserved logical g) id t c
  obtain ⟨hslot, hpk, -, hno, -⟩ :=
    startNext_keeps_rest ((s.committed id t cue block page reserved logical g).tellCommit id t c).endOp
  refine ⟨?_, hslot, ?_⟩
  · rw [State.afterCommit, package_of_packages hpk, htold, ← committed_package (cue := cue) (t := t) hp]
    rfl
  · rw [State.afterCommit, hno, htold, ← committed_notices]
    rfl

/-- The word to the engines is the last that changes an auditorium, but for reads that the engine puts in flight. -/
theorem afterCommit_frames (s : State) (id : Nat) (t : TextTrack) (cue block page : Nat) (reserved : Bool) (logical g : Nat) (c : Cue) :
    StoreFrame ((s.committed id t cue block page reserved logical g).tellCommit id t c) (s.afterCommit id t cue block page reserved logical g c)
      ∧ CueFrame ((s.committed id t cue block page reserved logical g).tellCommit id t c)
          (s.afterCommit id t cue block page reserved logical g c) := by
  unfold State.afterCommit
  exact ⟨(StoreFrame.endOp _).trans (.startNext _), (CueFrame.endOp _).trans (.startNext _)⟩

/-- What an auditorium is after the commit, but for reads that the engine has put in flight. -/
theorem afterCommit_aud (hbusy : s.flight ≠ none) (n : Aud) (k : TextTrack) :
    ∃ v : State, v.aud n = s.aud n
      ∧ ∀ w : State, w = (if (s.aud n).ctx.pkg = some id ∧ s.textOn n t = true then State.textAmended c v n t else v) →
          ((s.afterCommit id t cue block page reserved logical g c).aud n).air = (w.aud n).air
            ∧ (w.eng n k).Alike ((s.afterCommit id t cue block page reserved logical g c).eng n k)
            ∧ (s.afterCommit id t cue block page reserved logical g c).restoreEvents n = w.restoreEvents n := by
  obtain ⟨-, hauds⟩ := (committed_work s id t cue block page reserved logical g).busy hbusy
  have haud : (s.committed id t cue block page reserved logical g).aud n = s.aud n := by simp only [State.aud, hauds]
  obtain ⟨v, hv, htold⟩ := tellCommit_aud (s.committed id t cue block page reserved logical g) id t c n
  have hon : (s.committed id t cue block page reserved logical g).textOn n t = s.textOn n t := by simp only [State.textOn, haud]
  rw [haud, hon] at htold
  refine ⟨v, hv.trans haud, ?_⟩
  rintro w hw
  rw [← hw] at htold
  obtain ⟨hstore, hcue⟩ := afterCommit_frames s id t cue block page reserved logical g c
  have hair : ((s.afterCommit id t cue block page reserved logical g c).aud n).air = (w.aud n).air := by rw [hcue.air n, htold]
  have hctx : ((s.afterCommit id t cue block page reserved logical g c).aud n).ctx = (w.aud n).ctx := by rw [hstore.ctx n, htold]
  have heng (j : TextTrack) : (w.eng n j).Alike ((s.afterCommit id t cue block page reserved logical g c).eng n j) :=
    TrackEngine.Alike.trans (.of_eq (by simp only [State.eng, htold])) (hcue.eng n j)
  exact ⟨hair, heng k, restoreEvents_congr (by rw [hair]) hctx heng⟩

/-- An auditorium whose show is bound to the package, with the track on (R37 step 4, R110). -/
theorem afterCommit_told {u : State} {n : Aud} (hbusy : s.flight ≠ none) (hu : u = s.afterCommit id t cue block page reserved logical g c)
    (hpkg : (s.aud n).ctx.pkg = some id) (hon : s.textOn n t = true) :
    (u.eng n t).look = replaceCue c (s.eng n t).look ∧ (u.eng n t).active = replaceCue c (s.eng n t).active
      ∧ (u.eng n t).seek
        = ((s.eng n t).seek.map fun k => { k with overlap := replaceCue c k.overlap, future := replaceCue c k.future })
      ∧ ((∃ d ∈ (s.eng n t).active, d.number = c.number) → (s.aud n).air.lastGate = some .opened →
          ((s.aud n).air.pend.length < 32 → (u.aud n).air = { (s.aud n).air with pend := (s.aud n).air.pend ++ [.cueOn t c] })
          ∧ (32 ≤ (s.aud n).air.pend.length → (u.aud n).air = { (s.aud n).air with
              pend := u.restoreEvents n ++ (if (s.aud n).air.ann = .ending then [.announceEnd] else [])
              overflows := min 255 ((s.aud n).air.overflows + 1) }))
      ∧ ((∀ d ∈ (s.eng n t).active, d.number ≠ c.number) ∨ (s.aud n).air.lastGate ≠ some .opened → (u.aud n).air = (s.aud n).air) := by
  rw [hu]
  obtain ⟨v, hv, htold⟩ := afterCommit_aud (id := id) (cue := cue) (block := block) (page := page) (logical := logical) (g := g) (t := t)
    (reserved := reserved) (c := c) hbusy n t
  obtain ⟨hair, halike, hrestore⟩ := htold _ rfl
  rw [if_pos ⟨hpkg, hon⟩] at hair halike hrestore
  have heng : v.eng n t = s.eng n t := by simp only [State.eng, hv]
  have hamended := (textAmended_alike c v n t).trans halike
  rw [heng] at hamended
  refine ⟨hamended.look, hamended.active, hamended.seek, ?_⟩
  rw [hair, hrestore, ← hv, ← heng]
  exact ⟨textAmended_air_sent, textAmended_air_kept⟩

/-- An auditorium that the commit does not concern. -/
theorem afterCommit_untold {u : State} {n : Aud} (hbusy : s.flight ≠ none) (hu : u = s.afterCommit id t cue block page reserved logical g c)
    (hnot : (s.aud n).ctx.pkg ≠ some id ∨ s.textOn n t = false) :
    (u.aud n).air = (s.aud n).air ∧ (u.eng n t).look = (s.eng n t).look ∧ (u.eng n t).active = (s.eng n t).active
      ∧ (u.eng n t).seek = (s.eng n t).seek := by
  rw [hu]
  obtain ⟨v, hv, htold⟩ := afterCommit_aud (id := id) (cue := cue) (block := block) (page := page) (logical := logical) (g := g) (t := t)
    (reserved := reserved) (c := c) hbusy n t
  obtain ⟨hair, halike, -⟩ := htold _ rfl
  have hout : ¬ ((s.aud n).ctx.pkg = some id ∧ s.textOn n t = true) := by
    rintro ⟨hpkg, hon⟩
    rcases hnot with h | h
    · exact h hpkg
    · exact Bool.false_ne_true (h.symm.trans hon)
  have heng : v.eng n t = s.eng n t := by simp only [State.eng, hv]
  rw [if_neg hout] at hair halike
  rw [heng] at halike
  exact ⟨by rw [hair, hv], halike.look, halike.active, halike.seek⟩

end commit

end Sys2Proof.Machine

/-! ### A program that fails (R38 b) -/

namespace Sys2Proof.Machine

section failed

variable {s : State} {id cue block page logical g : Nat} {t : TextTrack} {reserved : Bool} {c : Cue} {pl : Placement} {sp : Option Nat}
  {ls : List Line}

/-- The state after an amendment's program failed: the engine then takes its next request. -/
def State.afterFailure (s : State) (id : Nat) (t : TextTrack) (cue : Nat) (pl : Placement) (sp : Option Nat) (ls : List Line)
    (block page : Nat) (reserved : Bool) (logical g : Nat) (c : Cue) : State :=
  (s.amendProgrammed id t cue pl sp ls block page reserved logical g c false).startNext

/-- The failed program marks its block, and STORE_FAIL is raised (R38 b, R39). -/
def State.programFailed (s : State) (id block page : Nat) : State := (s.programmed block page false).storeFail id opAmend causeProgramFail

theorem amendProgrammed_false (s : State) (id : Nat) (t : TextTrack) (cue : Nat) (pl : Placement) (sp : Option Nat) (ls : List Line)
    (block page : Nat) (reserved : Bool) (logical g : Nat) (c : Cue) :
    s.amendProgrammed id t cue pl sp ls block page reserved logical g c false =
      if reserved then ((s.programFailed id block page).setOp (.amend id t cue pl sp ls block reserved .retire)).hostWrite (.erase block)
      else (s.programFailed id block page).endOp := rfl

/-- A failed program changes no package, marks the block and raises STORE_FAIL, whatever follows. -/
theorem afterFailure_rest (hblock : block < 128) : (s.afterFailure id t cue pl sp ls block page reserved logical g c).packages = s.packages
    ∧ ((s.afterFailure id t cue pl sp ls block page reserved logical g c).block block).marked = true
    ∧ (s.afterFailure id t cue pl sp ls block page reserved logical g c).notices
      = addNotice .store .storeFail (u8 id ++ [2, 0]) s.notices := by
  obtain ⟨-, hpk, -, hno, -⟩ := programmed_keeps s block page false
  obtain ⟨-, hpk', -, hno', hbl', -⟩ := startNext_keeps_rest (s.amendProgrammed id t cue pl sp ls block page reserved logical g c false)
  have hmarked : ((s.programFailed id block page).block block).marked = true := by
    have hblocks : (s.programFailed id block page).blocks = (s.programmed block page false).blocks := rfl
    rw [block_of_blocks hblocks, block_programmed s page false hblock]
    exact Bool.or_true _
  have hnotice : (s.programFailed id block page).notices = addNotice .store .storeFail (u8 id ++ [2, 0]) s.notices := by
    rw [← hno]
    rfl
  rw [State.afterFailure, hpk', hno', block_of_blocks hbl', amendProgrammed_false]
  split
  · obtain ⟨hpk'', -, hno'', hbl'', -⟩ :=
      hostWrite_rest ((s.programFailed id block page).setOp (.amend id t cue pl sp ls block reserved .retire)) (.erase block)
    rw [hpk'', hno'', block_of_blocks hbl'']
    exact ⟨hpk, hmarked, hnotice⟩
  · exact ⟨hpk, hmarked, hnotice⟩

/-- With a block of the package's own, a failed amendment ends (R38 b). -/
theorem afterFailure_ends : (s.afterFailure id t cue pl sp ls block page false logical g c).slot = none := by
  obtain ⟨hslot, -⟩ := startNext_keeps_rest (s.amendProgrammed id t cue pl sp ls block page false logical g c false)
  exact hslot

/-- A reserved block is retired, its erase first (R38 b, R40). -/
theorem afterFailure_retires (hp : s.hostProgram = some (block, page)) :
    s.GoesOnWith (s.afterFailure id t cue pl sp ls block page true logical g c) (.amend id t cue pl sp ls block true .retire) (.erase block)
      block := by
  obtain ⟨-, -, -, -, hfl, hq, hswi, -⟩ := programmed_keeps s block page false
  have hbusy : (s.programmed block page false).flight ≠ none := hfl.trans_ne (flight_ne_none_of_program hp)
  exact goesOnWith_hostWrite (u := (s.programFailed id block page).setOp (.amend id t cue pl sp ls block true .retire)) rfl hswi hq hbusy
    fun _ => rfl

end failed

/-- Settles O23: each read by its page, lost, of the index or of the cue; the program by its outcome, the commit seen from each auditorium. -/
theorem amendmentPatchesAndCommits : Obligations.AmendmentPatchesAndCommits := by
  unfold Obligations.AmendmentPatchesAndCommits
  refine ⟨fun s f errs id cue t pl sp ls block reserved p op hf hw hop hp hblock => ?_,
    fun s block page id cue t pl sp ls reserved logical g c p repl hprog hblock hp ho hrepl => ⟨?_, ?_⟩⟩
  · have hbusy : s.flight ≠ none := by rw [hf]; exact Option.some_ne_none f
    simp only [hop]
    refine ⟨fun ordinal pkg position before found loc es hread ho hloc hes hfound herrs => ?_,
      fun en pkg logical c patched hread ho herrs hc hpatched => ⟨fun hfits hgen => ?_, fun hfull => ?_⟩,
      fun stage pkg logical position ho hread herrs => ⟨_, exec_amendReadDone errs hf hw hread ho, ?_⟩⟩
    · rw [exec_amendReadDone (logical := 0) errs hf hw (.inl hread) ho]
      simp only [State.complete, amendRead_index hp herrs, searchIndex_eq hloc hes hfound, indexPosition_eq hloc]
      refine ⟨fun hends => ⟨fun en hen => ⟨_, rfl, ?_⟩, fun hnone => ⟨_, rfl, ?_⟩⟩, fun hall hmore => ⟨_, rfl, ?_⟩⟩
      · rw [if_pos (by simpa using hends), hen, Option.elim_some]
        exact amendRead_goes_on hbusy rfl
      · rw [if_pos (by simpa using hends), hnone, Option.elim_none]
        exact graded_endsWithNoRoom s f errs id reserved hblock
      · rw [if_neg (by simpa using ⟨hall, hmore⟩)]
        exact amendRead_goes_on hbusy rfl
    · refine ⟨_, exec_amendReadDone (position := 0) errs hf hw (.inr hread) ho, ?_⟩
      rw [State.complete, amendRead_page hp herrs hc hpatched, if_neg (by omega)]
      exact amendRead_programs hbusy rfl
    · refine ⟨_, exec_amendReadDone (position := 0) errs hf hw (.inr hread) ho, ?_⟩
      rw [State.complete, amendRead_page hp herrs hc hpatched, if_pos (by omega)]
      exact graded_endsWithNoRoom s f errs id reserved hblock
    · rw [State.complete, amendRead_lost stage hp herrs]
      exact ⟨graded_endsWithNoRoom s f errs id reserved hblock, graded_notesLost s hw herrs id block reserved⟩
  · have hbusy := flight_ne_none_of_program hprog
    obtain ⟨hpackage, hslot, hno⟩ := afterCommit_store (t := t) (cue := cue) (block := block) (page := page) (reserved := reserved)
      (logical := logical) (g := g) (c := c) hp
    obtain rfl : repl = replaceCue c := funext hrepl
    refine ⟨_, exec_commit hprog ho, hpackage, hslot, hno, ?_⟩
    rintro n air rfl
    exact ⟨afterCommit_told hbusy rfl, afterCommit_untold hbusy rfl⟩
  · refine ⟨_, exec_amendProgramDone false hprog ho, ?_⟩
    obtain ⟨hpk, hmarked, hno⟩ := afterFailure_rest (s := s) (id := id) (t := t) (cue := cue) (pl := pl) (sp := sp) (ls := ls) (page := page)
      (reserved := reserved) (logical := logical) (g := g) (c := c) hblock
    refine ⟨hpk, hmarked, hno, ?_, ?_⟩
    · rintro rfl
      exact afterFailure_ends
    · rintro rfl
      exact afterFailure_retires hprog

end Sys2Proof.Machine

/-! ## What leaves the show contexts and the input units as they are (chapters 3 and 4) -/

namespace Sys2Proof.Machine

/-- The show contexts and the input units are as they were. -/
structure ShowFrame (s t : State) : Prop where
  ctx : ∀ n, (t.aud n).ctx = (s.aud n).ctx
  input : ∀ n, (t.aud n).input = (s.aud n).input

namespace ShowFrame

variable {s s' s'' : State}

theorem refl (s : State) : ShowFrame s s := ⟨fun _ => rfl, fun _ => rfl⟩

theorem trans (h : ShowFrame s s') (k : ShowFrame s' s'') : ShowFrame s s'' :=
  ⟨fun n => (k.ctx n).trans (h.ctx n), fun n => (k.input n).trans (h.input n)⟩

/-- A change outside the auditoriums. -/
theorem of_auds (auds : s'.auds = s.auds) : ShowFrame s s' :=
  ⟨fun n => by simp only [State.aud, auds], fun n => by simp only [State.aud, auds]⟩

theorem of_store (h : StoreFrame s s') : ShowFrame s s' := ⟨h.ctx, h.input⟩

theorem ite {a b : State} (c : Prop) [Decidable c] (ha : c → ShowFrame s a) (hb : ¬ c → ShowFrame s b) : ShowFrame s (if c then a else b) := by
  split
  · exact ha ‹_›
  · exact hb ‹_›

theorem ite_fst {α : Type} {a b : State × α} (c : Prop) [Decidable c] (ha : c → ShowFrame s a.1) (hb : ¬ c → ShowFrame s b.1) :
    ShowFrame s (if c then a else b).1 := by
  split
  · exact ha ‹_›
  · exact hb ‹_›

theorem foldl {α : Type} (f : State → α → State) (h : ∀ s a, ShowFrame s (f s a)) (l : List α) : ∀ s, ShowFrame s (l.foldl f s) := by
  induction l with
  | nil => exact refl
  | cons a as ih => exact fun s => (h s a).trans (ih _)

/-! ### The updates of the other blocks -/

theorem raise (s : State) (src : Source) (k : NoticeKind) (x : List Byte) : ShowFrame s (s.raise src k x) := of_auds rfl

theorem withdraw (s : State) (w : Requester) : ShowFrame s (s.withdraw w) := of_auds rfl

theorem modAir (s : State) (n : Aud) (f : AirSched → AirSched) : ShowFrame s (s.modAir n f) := ⟨by simp, by simp⟩

theorem modEmit (s : State) (n : Aud) (f : Emitter → Emitter) : ShowFrame s (s.modEmit n f) := ⟨by simp, by simp⟩

theorem modEng (s : State) (n : Aud) (t : TextTrack) (f : TrackEngine → TrackEngine) : ShowFrame s (s.modEng n t f) := ⟨by simp, by simp⟩

theorem modPlay (s : State) (n : Aud) (t : SoundTrack) (f : Playout → Playout) : ShowFrame s (s.modPlay n t f) := ⟨by simp, by simp⟩

theorem request (s : State) (r : Request) : ShowFrame s (s.request r) :=
  ⟨fun n => (request_aud s r n).1, fun n => (request_aud s r n).2.2.2.1⟩

theorem startNext (s : State) : ShowFrame s s.startNext := of_store (.startNext s)

theorem graded (s : State) (f : Flight) (errs : Nat) : ShowFrame s (s.graded f errs) := of_auds (graded_auds s f errs)

/-! ### The pending event list (R107, R108, R135, R137) -/

theorem overflow (s : State) (n : Aud) : ShowFrame s (s.overflow n) := by
  unfold State.overflow
  exact modAir s n _

theorem submit (s : State) (n : Aud) (ev : Event) : ShowFrame s (s.submit n ev) := ite _ (fun _ => modAir s n _) fun _ => overflow s n

theorem submitRestore (n : Aud) (evs : List Event) : ∀ s : State, ShowFrame s (s.submitRestore n evs) := by
  induction evs with
  | nil => exact refl
  | cons ev evs ih => exact fun s => ite _ (fun _ => (modAir s n _).trans (ih _)) fun _ => overflow s n

theorem restoreAll (s : State) (n : Aud) : ShowFrame s (s.restoreAll n) := submitRestore n _ s

/-! ### The track engines (R92 to R105) -/

theorem engineRead (s : State) (n : Aud) (t : TextTrack) (k : ReadKind) (l need : Nat) : ShowFrame s (s.engineRead n t k l need) :=
  (modEng s n t _).trans (request _ _)

theorem fetchTest (s : State) (n : Aud) (t : TextTrack) : ShowFrame s (s.fetchTest n t) := by
  unfold State.fetchTest
  refine ite _ (fun _ => ?_) fun _ => refl s
  split
  · exact engineRead s n t _ _ _
  · exact refl s

theorem dropWaiting (s : State) (n : Aud) (t : TextTrack) : ShowFrame s (s.dropWaiting n t) := by
  unfold State.dropWaiting
  split
  · exact (withdraw s _).trans (modEng _ n t _)
  · exact refl s

theorem missCues (s : State) (n : Aud) (t : TextTrack) (a b c : Nat) : ShowFrame s (s.missCues n t a b c) :=
  (modEng s n t _).trans (raise _ _ _ _)

theorem completeSeek (s : State) (n : Aud) (t : TextTrack) : ShowFrame s (s.completeSeek n t) := by
  rw [completeSeek_eq]
  exact ((modEng s n t _).trans (ite _ (fun _ => refl _) fun _ => submitRestore n _ _)).trans (fetchTest _ n t)

theorem seekRead (s : State) (n : Aud) (t : TextTrack) : ShowFrame s (s.seekRead n t) := by
  unfold State.seekRead
  dsimp only
  split
  · exact engineRead s n t _ _ _
  · exact refl s

theorem startSeek (s : State) (n : Aud) (t : TextTrack) (q : Nat) : ShowFrame s (s.startSeek n t q) := by
  refine (modEng s n t _).trans (ite _ (fun _ => ?_) fun _ => ite _ (fun _ => refl _) fun _ => seekRead _ n t)
  exact ((dropWaiting _ n t).trans (modEng _ n t _)).trans (completeSeek _ n t)

theorem textWait (s : State) (n : Aud) (t : TextTrack) : ShowFrame s (s.textWait n t) :=
  ((dropWaiting s n t).trans (modEng _ n t _)).trans (submit _ n _)

theorem textFinish (s : State) (n : Aud) (t : TextTrack) : ShowFrame s (s.textFinish n t) :=
  ((dropWaiting s n t).trans (modEng _ n t _)).trans (submit _ n _)

theorem textOff (s : State) (n : Aud) (t : TextTrack) : ShowFrame s (s.textOff n t) := by
  unfold State.textOff
  exact (((dropWaiting s n t).trans (modEng _ n t _)).trans (submit _ n _)).trans (modEng _ n t _)

theorem textUnbind (s : State) (n : Aud) (t : TextTrack) : ShowFrame s (s.textUnbind n t) := (textOff s n t).trans (modEng _ n t _)

theorem textSeek (p : Nat) (s : State) (n : Aud) (t : TextTrack) : ShowFrame s (State.textSeek p s n t) := startSeek s n t _

theorem textOnSignal (p : Nat) (s : State) (n : Aud) (t : TextTrack) : ShowFrame s (State.textOnSignal p s n t) := by
  unfold State.textOnSignal
  dsimp only
  split
  · exact (modEng s n t _).trans (textSeek p _ n t)
  · exact (modEng s n t _).trans (textSeek p _ n t)
  · exact (modEng s n t _).trans (modEng _ n t _)
  · exact (modEng s n t _).trans (modEng _ n t _)
  · exact (modEng s n t _).trans (modEng _ n t _)
  · exact (modEng s n t _).trans (modEng _ n t _)
  · exact modEng s n t _
  · exact modEng s n t _

theorem textBound (s : State) (n : Aud) (t : TextTrack) : ShowFrame s (s.textBound n t) := by
  rw [textBound_eq]
  exact modEng s n t _

/-! ### The signals to the tracks of an auditorium (R86) -/

theorem textSignal (s : State) (n : Aud) (f : State → Aud → TextTrack → State) (hf : ∀ s t, ShowFrame s (f s n t)) :
    ShowFrame s (s.textSignal n f) :=
  foldl _ (fun s t => ite _ (fun _ => hf s t) fun _ => refl s) allText s

theorem soundSignal (s : State) (n : Aud) (f : Playout → Playout) : ShowFrame s (s.soundSignal n f) :=
  foldl _ (fun s t => modPlay s n t f) allSound s

/-! ### The release check (R98 to R101) -/

theorem cutOldest (s : State) (n : Aud) (t : TextTrack) (w : Bool) : ShowFrame s (s.cutOldest n t w) := by
  unfold State.cutOldest
  split
  · exact ite _ (fun _ => (modEng s n t _).trans (ite _ (fun _ => refl _) fun _ => submit _ n _)) fun _ => refl s
  · exact refl s

theorem releaseDue (n : Aud) (t : TextTrack) (q : Nat) (w : Bool) (fuel : Nat) : ∀ s : State, ShowFrame s (State.releaseDue n t q w fuel s) := by
  induction fuel with
  | zero => exact refl
  | succ fuel ih =>
    intro s
    rw [releaseDue_succ]
    split
    · exact refl s
    · refine ite _ (fun _ => refl s) fun _ => ite _ (fun _ => ?_) fun _ => .trans ?_ (ih _)
      · exact ((modEng s n t _).trans (missCues _ n t _ _ _)).trans (ih _)
      · exact ((cutOldest s n t w).trans (modEng _ n t _)).trans (ite _ (fun _ => refl _) fun _ => submit _ n _)

theorem releaseCheck (s : State) (n : Aud) (p : Nat) (w : Bool) (t : TextTrack) : ShowFrame s (s.releaseCheck n p w t) :=
  ite _ (fun _ => (((modEng s n t _).trans (releaseDue n t _ w _ _)).trans (modEng _ n t _)).trans (fetchTest _ n t)) fun _ => refl s

/-! ### The air scheduler and the emitter unit, but for the sample of a build (chapters 7 and 8) -/

theorem endAnnouncement (s : State) (n : Aud) : ShowFrame s (s.endAnnouncement n) := (modAir s n _).trans (submit _ n _)

theorem ageAnnouncement (s : State) (n : Aud) : ShowFrame s (s.ageAnnouncement n) := by
  unfold State.ageAnnouncement
  split
  · exact ite _ (fun _ => endAnnouncement s n) fun _ => modAir s n _
  · exact refl s

theorem claimAnnouncement (s : State) (n : Aud) (b : Build) : ShowFrame s (s.claimAnnouncement n b).1 := by
  unfold State.claimAnnouncement
  split
  · split
    · split
      · dsimp only
        exact modAir s n _
      · exact refl s
    · dsimp only
      exact modAir s n _
  · exact refl s

theorem cancel (mask : Nat) (l : List Aud) : ∀ s : State, ShowFrame s (State.cancel mask s l).1 := by
  induction l with
  | nil => exact refl
  | cons n ns ih => exact fun s => ite_fst _ (fun _ => (endAnnouncement s n).trans (ih _)) fun _ => ih s

theorem skipTest (s : State) (n : Aud) (p : Nat) (t : SoundTrack) : ShowFrame s (s.skipTest n p t) := by
  unfold State.skipTest
  dsimp only
  split
  · exact ite _ (fun _ => (modPlay s n t _).trans (raise _ _ _ _)) fun _ => refl s
  · exact refl s

theorem serveTurns (n : Aud) (p : Nat) (l : List SoundTrack) : ∀ (s : State) (b : Build), ShowFrame s (State.serveTurns n p l s b).1 := by
  induction l with
  | nil => exact fun s _ => refl s
  | cons t ts ih =>
    intro s b
    unfold State.serveTurns
    dsimp only
    split
    · exact ih s b
    · split
      · exact refl s
      · exact (modPlay s n t _).trans (ih _ _)

theorem slotService (s : State) (n : Aud) (p : Nat) (b : Build) : ShowFrame s (s.slotService n p b).1 :=
  (foldl _ (fun s t => skipTest s n p t) allSound s).trans (serveTurns n p _ _ _)

theorem packPending (s : State) (n : Aud) (g : Gate) (b : Build) : ShowFrame s (s.packPending n g b).1 := by
  unfold State.packPending
  dsimp only
  exact modAir s n _

theorem runCarousel (s : State) (n : Aud) (b : Build) : ShowFrame s (s.runCarousel n b).1 := by
  unfold State.runCarousel
  dsimp only
  split
  · dsimp only
    exact modAir s n _
  · exact refl s

theorem closeFrame (s : State) (n : Aud) (g : Gate) (p : Nat) (b : Build) : ShowFrame s (s.closeFrame n g p b).1 := by
  unfold State.closeFrame
  dsimp only
  exact modAir s n _

/-- The stages of a frame build after the sample (R130). -/
theorem buildFrame (s : State) (n : Aud) (k : FrameKind) : ShowFrame (s.finishTest n) (s.buildFrame n k).1 := by
  unfold State.buildFrame
  extract_lets sp s1 p gate opening s2 b sb3 s3 running withhold s4 s5 sb6 sb7 sb8
  have h3 : ShowFrame s1 s3 := (modAir s1 n _).trans (ite_fst _ (fun _ => claimAnnouncement _ n _) fun _ => refl _)
  have h4 : ShowFrame s3 s4 := ite _ (fun _ => foldl _ (fun s t => releaseCheck s n _ _ t) _ _) fun _ => refl _
  have h5 : ShowFrame s4 s5 := ite _ (fun _ => restoreAll _ n) fun _ => refl _
  have h6 : ShowFrame s5 sb6.1 :=
    ite_fst _ (fun _ => ite_fst _ (fun _ => slotService _ n _ _) fun _ => soundSignal _ n _) fun _ => refl _
  have h7 : ShowFrame sb6.1 sb7.1 := ite_fst _ (fun _ => by dsimp only; exact modAir _ n _) fun _ => packPending _ n _ _
  have h8 : ShowFrame sb7.1 sb8.1 := ite_fst _ (fun _ => runCarousel _ n _) fun _ => refl _
  exact ((((h3.trans h4).trans h5).trans h6).trans h7).trans (h8.trans (closeFrame _ n _ _ _))

theorem noteDropped (s : State) (n : Aud) (q : Nat) : ShowFrame s (s.noteDropped n q) := raise _ _ _ _

theorem overcurrent (s : State) (n : Aud) : ShowFrame s (s.overcurrent n) := by
  unfold State.overcurrent
  split
  · unfold State.cutByFault
    refine .trans ?_ (ite _ (fun _ => modEmit _ n _) fun _ => (modEmit _ n _).trans (raise _ _ _ _))
    exact ((modEmit s n _).trans (raise _ _ _ _)).trans (noteDropped _ n _)
  · exact refl s

theorem dropFrame (s : State) (n : Aud) (q : Nat) (b : Bool) : ShowFrame s (s.dropFrame n q b) :=
  (modEmit s n _).trans (ite _ (fun _ => noteDropped _ n q) fun _ => refl _)

theorem sendFrame (s : State) (n : Aud) (f : AirFrame) (r : BitRate) : ShowFrame s (s.sendFrame n f r) :=
  (modEmit s n _).trans (ite _ (fun _ => overcurrent _ n) fun _ => refl _)

theorem handOver (s : State) (n : Aud) (f : Option AirFrame) (r : BitRate) : ShowFrame s (s.handOver n f r) := by
  unfold State.handOver
  refine (modEmit s n fun u => { u with demand := f.isSome }).trans ?_
  dsimp only
  split
  · split
    · exact ite _ (fun _ => dropFrame _ n _ _) fun _ => sendFrame _ n _ r
    · exact ite _ (fun _ => dropFrame _ n _ _) fun _ => sendFrame _ n _ r
    · exact dropFrame _ n _ _
    · exact dropFrame _ n _ _
    · exact dropFrame _ n _ _
  · exact ite _ (fun _ => modEmit _ n _) fun _ => refl _

theorem recover (s : State) (n : Aud) : ShowFrame s (s.recover n) := ite _ (fun _ => restoreAll s n) fun _ => refl s

theorem endCooling (s : State) (n : Aud) : ShowFrame s (s.endCooling n) :=
  ite _ (fun _ => (modEmit s n _).trans (ite _ (fun _ => recover _ n) fun _ => refl _)) fun _ => refl s

theorem endTransmission (s : State) (n : Aud) : ShowFrame s (s.endTransmission n) := by
  unfold State.endTransmission
  split
  · exact modEmit s n _
  · exact refl s

theorem enableEmitter (s : State) (n : Aud) (b : Bool) : ShowFrame s (s.enableEmitter n b) := by
  refine ite _ (fun _ => ite _ (fun _ => ?_) fun _ => refl s) fun _ => ite _ (fun _ => refl s) fun _ => modEmit s n _
  exact (modEmit s n _).trans (ite _ (fun _ => recover _ n) fun _ => refl _)

theorem adoptAir (s : State) (n : Aud) : ShowFrame s (s.adoptAir n) := by
  constructor
  · intro m
    by_cases h : m = n
    · subst h; simp [State.adoptAir]
    · rw [State.adoptAir, State.modAud_other _ _ _ _ h]
  · intro m
    by_cases h : m = n
    · subst h; simp [State.adoptAir]
    · rw [State.adoptAir, State.modAud_other _ _ _ _ h]

end ShowFrame

end Sys2Proof.Machine

/-! ## The bounds of the show arithmetic (O53) -/

namespace Sys2Proof.Machine

/-! ### The law on a context and a period estimate (R52, R63, R68) -/

/-- The bounds of a show context and of the period estimate beside it. -/
structure ShowCtx.Within (x : ShowCtx) (pm : Nat) : Prop where
  c : x.c ≤ x.duration
  coast : x.coast ≤ 48
  coastLimit : x.coastLimit ≤ 48
  coastLimitStaged : x.coastLimitStaged ≤ 48
  slewWindow : x.slewWindow ≤ 48
  slewWindowStaged : x.slewWindowStaged ≤ 48
  k : x.k.natAbs ≤ 2400
  bound : x.st ≠ .vacant → x.rate.isSome = true
  rate : ∀ r, x.rate = some r → r.ticks - r.step ≤ x.adv ∧ x.adv ≤ r.ticks + r.step ∧ r.lo ≤ pm ∧ pm ≤ r.hi

theorem showOk_iff (a : Auditorium) : a.ShowOk ↔ a.ctx.Within a.input.pm :=
  ⟨fun ⟨hc, hcoast, hlimit, hlimit', hslew, hslew', hk, hbound, hrate⟩ => ⟨hc, hcoast, hlimit, hlimit', hslew, hslew', hk, hbound, hrate⟩,
    fun h => ⟨h.c, h.coast, h.coastLimit, h.coastLimitStaged, h.slewWindow, h.slewWindowStaged, h.k, h.bound, h.rate⟩⟩

theorem ShowCtx.ticks_of_rate {x : ShowCtx} {r : RateClass} (h : x.rate = some r) : x.ticks = r.ticks := by simp [ShowCtx.ticks, h]

theorem ShowCtx.slewStep_of_rate {x : ShowCtx} {r : RateClass} (h : x.rate = some r) : x.slewStep = r.step := by simp [ShowCtx.slewStep, h]

theorem RateClass.ticks_le (r : RateClass) : r.ticks ≤ 50 := by cases r <;> decide

theorem ShowCtx.ticks_le (x : ShowCtx) : x.ticks ≤ 50 := by
  unfold ShowCtx.ticks
  cases x.rate with
  | none => exact Nat.zero_le _
  | some r => exact r.ticks_le

theorem RateClass.nominal_in_window (r : RateClass) : r.lo ≤ r.nominal ∧ r.nominal ≤ r.hi := by cases r <;> decide

theorem RateClass.lo_le_hi (r : RateClass) : r.lo ≤ r.hi := r.nominal_in_window.1.trans r.nominal_in_window.2

theorem clampInterval_eq (r : RateClass) (m : Nat) : clampInterval r m = max r.lo (min r.hi m) := by
  have h := r.lo_le_hi
  unfold clampInterval
  split
  · omega
  · split <;> omega

/-- An estimate in the rate window stays there (R52). -/
theorem newEstimate_in_window (r : RateClass) {pm : Nat} (m : Nat) (h : r.lo ≤ pm ∧ pm ≤ r.hi) :
    r.lo ≤ newEstimate r pm m ∧ newEstimate r pm m ≤ r.hi := by
  have h' := r.lo_le_hi
  rw [newEstimate, clampInterval_eq]
  omega

/-- The position lies within D where C does (R69). -/
theorem ShowCtx.position_le {x : ShowCtx} (e pm : Nat) (h : x.c ≤ x.duration) : x.position e pm ≤ x.duration := by
  unfold ShowCtx.position
  split
  · exact Nat.zero_le _
  · exact min_le_right _ _
  · exact min_le_right _ _
  · exact min_le_right _ _
  · exact h

namespace ShowCtx.Within

variable {x : ShowCtx} {pm : Nat}

/-- A frame that begins at the nominal advance (R68). -/
theorem nominalAdvance (h : x.Within pm) : { x with adv := x.ticks }.Within pm :=
  { h with rate := fun r hr => have hx : x.ticks = r.ticks := ticks_of_rate hr
      ⟨hx ▸ Nat.sub_le _ _, hx ▸ Nat.le_add_right _ _, (h.rate r hr).2.2⟩ }

theorem slewTo (h : x.Within pm) {k : Int} (hk : k.natAbs ≤ 2400) : { x with k := k }.Within pm := { h with k := hk }

theorem moveTo (h : x.Within pm) {c : Nat} (hc : c ≤ x.duration) : { x with c := c }.Within pm := { h with c := hc }

theorem coastTo (h : x.Within pm) {k : Nat} (hk : k ≤ 48) : { x with coast := k }.Within pm := { h with coast := hk }

theorem acquireTo (h : x.Within pm) (k : Nat) : { x with acquire := k }.Within pm := { h with }

/-- A show that is bound may enter any state. -/
theorem enter (h : x.Within pm) (hst : x.st ≠ .vacant) (st : ShowState) : { x with st := st }.Within pm :=
  { h with bound := fun _ => h.bound hst }

theorem estimate (h : x.Within pm) {pm' : Nat} (hpm : ∀ r, x.rate = some r → r.lo ≤ pm' ∧ pm' ≤ r.hi) : x.Within pm' :=
  { h with rate := fun r hr => have k := h.rate r hr; ⟨k.1, k.2.1, hpm r hr⟩ }

theorem countFrame (h : x.Within pm) : x.countFrame.Within pm := h.moveTo (min_le_right _ _)

/-- A frame takes a slew step of s at most from the remainder (R68). -/
theorem newFrame (h : x.Within pm) : x.newFrame.Within pm := by
  have hk := h.k
  unfold ShowCtx.newFrame
  split
  · exact h.nominalAdvance
  · split
    · refine { h with k := ?_, rate := fun r hr => ?_ }
      · show (x.k - ((min x.k.toNat x.slewStep : Nat) : Int)).natAbs ≤ 2400
        omega
      · have hr : x.rate = some r := hr
        have k := h.rate r hr
        show _ ≤ x.ticks + min x.k.toNat x.slewStep ∧ x.ticks + min x.k.toNat x.slewStep ≤ _ ∧ _
        rw [ticks_of_rate hr, slewStep_of_rate hr]
        omega
    · refine { h with k := ?_, rate := fun r hr => ?_ }
      · show (x.k + ((min (-x.k).toNat x.slewStep : Nat) : Int)).natAbs ≤ 2400
        omega
      · have hr : x.rate = some r := hr
        have k := h.rate r hr
        show _ ≤ x.ticks - min (-x.k).toNat x.slewStep ∧ x.ticks - min (-x.k).toNat x.slewStep ≤ _ ∧ _
        rw [ticks_of_rate hr, slewStep_of_rate hr]
        omega

end ShowCtx.Within

/-! ### Steps that keep the bounds -/

/-- A step that keeps the bounds of each auditorium. -/
def ShowStep (s t : State) : Prop := ∀ n, (s.aud n).ShowOk → (t.aud n).ShowOk

theorem ShowFrame.shows {s t : State} (h : ShowFrame s t) : ShowStep s t := fun n k => by
  rw [showOk_iff, h.ctx, h.input]
  exact (showOk_iff _).mp k

namespace ShowStep

variable {n : Aud} {s s' s'' : State}

theorem refl (s : State) : ShowStep s s := fun _ => id

theorem trans (h : ShowStep s s') (k : ShowStep s' s'') : ShowStep s s'' := fun n => k n ∘ h n

theorem of_auds (auds : s'.auds = s.auds) : ShowStep s s' := (ShowFrame.of_auds auds).shows

/-- A step of one auditorium, judged there. -/
theorem of_only (only : OnlyAud n s s') (own : (s.aud n).ctx.Within (s.aud n).input.pm → (s'.aud n).ShowOk) : ShowStep s s' := fun m hm => by
  by_cases h : m = n
  · exact h ▸ own ((showOk_iff _).mp (h ▸ hm))
  · rw [only.auds m h]
    exact hm

/-- The bounds of the auditorium at work may be taken from the state before. -/
theorem assuming (only : OnlyAud n s s') (h : (s.aud n).ctx.Within (s.aud n).input.pm → ShowStep s s') : ShowStep s s' :=
  of_only only fun k => h k n ((showOk_iff _).mpr k)

theorem ite {a b : State} (c : Prop) [Decidable c] (ha : c → ShowStep s a) (hb : ¬ c → ShowStep s b) : ShowStep s (if c then a else b) := by
  split
  · exact ha ‹_›
  · exact hb ‹_›

theorem ite_fst {α : Type} {a b : State × α} (c : Prop) [Decidable c] (ha : c → ShowStep s a.1) (hb : ¬ c → ShowStep s b.1) :
    ShowStep s (if c then a else b).1 := by
  split
  · exact ha ‹_›
  · exact hb ‹_›

theorem foldl {α : Type} (f : State → α → State) (h : ∀ s a, ShowStep s (f s a)) (l : List α) : ∀ s, ShowStep s (l.foldl f s) := by
  induction l with
  | nil => exact refl
  | cons a as ih => exact fun s => (h s a).trans (ih _)

theorem when_ (s : State) (c : Bool) (f : State → State) (h : ∀ s, ShowStep s (f s)) : ShowStep s (s.when_ c f) :=
  ite _ (fun _ => h s) fun _ => refl s

theorem raise (s : State) (src : Source) (k : NoticeKind) (x : List Byte) : ShowStep s (s.raise src k x) := (ShowFrame.raise s src k x).shows

theorem modCtx (s : State) (n : Aud) (f : ShowCtx → ShowCtx)
    (h : (s.aud n).ctx.Within (s.aud n).input.pm → (f (s.aud n).ctx).Within (s.aud n).input.pm) : ShowStep s (s.modCtx n f) :=
  of_only (modCtx_only s n f) fun k => by
    rw [State.modCtx_same, showOk_iff]
    exact h k

theorem modInput (s : State) (n : Aud) (f : InputUnit → InputUnit)
    (h : ∀ r, (s.aud n).ctx.rate = some r → r.lo ≤ (s.aud n).input.pm ∧ (s.aud n).input.pm ≤ r.hi →
      r.lo ≤ (f (s.aud n).input).pm ∧ (f (s.aud n).input).pm ≤ r.hi) : ShowStep s (s.modInput n f) :=
  of_only (modInput_only s n f) fun k => by
    rw [State.modInput_same, showOk_iff]
    exact k.estimate fun r hr => h r hr (k.rate r hr).2.2

/-- A change of the input unit that leaves the period estimate. -/
theorem modInput_pm (s : State) (n : Aud) (f : InputUnit → InputUnit) (h : ∀ u, (f u).pm = u.pm) : ShowStep s (s.modInput n f) :=
  modInput s n f fun r _ k => by
    rw [h]
    exact k

end ShowStep

@[simp] theorem clearRef_pm (u : InputUnit) : u.clearRef.pm = u.pm := rfl

@[simp] theorem restart_pm (u : InputUnit) : u.restart.pm = u.pm := by
  unfold InputUnit.restart
  split <;> rfl

/-! ### The show timeline (R70 to R82) -/

/-- The context of a show that has finished (R82). -/
def ShowCtx.finished (x : ShowCtx) : ShowCtx := { x with c := x.duration, adv := x.ticks, k := 0, coast := 0, st := .finished }

/-- A finish: the context, SHOW_FINISHED, and the signal to the tracks (R82, R92 f, R123 b). -/
theorem finish_frame (s : State) (n : Aud) : ShowFrame (s.modCtx n ShowCtx.finished) (s.finish n) := by
  unfold State.finish
  exact ((ShowFrame.raise _ _ _ _).trans (.textSignal _ n _ fun s t => .textFinish s n t)).trans (.soundSignal _ n _)

theorem finish_shows (s : State) (n : Aud) (hst : (s.aud n).ctx.st ≠ .vacant) : ShowStep s (s.finish n) :=
  (ShowStep.modCtx s n ShowCtx.finished fun h =>
    (((h.moveTo le_rfl).nominalAdvance.slewTo (k := 0) (by decide)).coastTo (k := 0) (by decide)).enter hst .finished).trans (finish_frame s n).shows

theorem finishTest_shows (s : State) (n : Aud) : ShowStep s (s.finishTest n) :=
  .ite _ (fun h => finish_shows s n (ShowState.running_ne_vacant h.1)) fun _ => .refl s

theorem gainLock_shows (s : State) (n : Aud) (hst : (s.aud n).ctx.st ≠ .vacant) : ShowStep s (s.gainLock n) := by
  unfold State.gainLock
  dsimp only
  refine .ite _ (fun _ => finish_shows s n hst) fun _ => ?_
  refine .trans (.modCtx s n (fun x => { x with st := .locked, coast := 0, acquire := 0 }) fun h =>
    ((h.enter hst .locked).coastTo (k := 0) (by decide)).acquireTo 0) ?_
  exact (((ShowFrame.raise _ _ _ _).trans (.textSignal _ n _ fun s t => .textSeek _ s n t)).trans (.soundSignal _ n _)).shows

theorem hold_shows (s : State) (n : Aud) (hst : (s.aud n).ctx.st ≠ .vacant) : ShowStep s (s.hold n) := by
  unfold State.hold
  dsimp only
  refine .ite _ (fun _ => (finish_shows s n hst).trans (.modInput_pm _ n _ clearRef_pm)) fun _ => ?_
  refine .trans (.trans (.modCtx s n _ fun h => ?_) (.modInput_pm _ n _ clearRef_pm))
    (((ShowFrame.raise _ _ _ _).trans (.textSignal _ n _ fun s t => .textWait s n t)).trans (.soundSignal _ n _)).shows
  have hp : s.position n ≤ (s.aud n).ctx.duration := ShowCtx.position_le _ _ h.c
  exact ((((h.moveTo hp).nominalAdvance.slewTo (k := 0) (by decide)).coastTo (k := 0) (by decide)).acquireTo 0).enter hst .held

theorem onStart_pm {rate : Option RateClass} {r : RateClass} (u : InputUnit) (h : rate = some r) : (u.onStart rate).pm = r.nominal := by
  rw [h]
  rfl

theorem startShow_shows (s : State) (n : Aud) (p : Nat) (hst : (s.aud n).ctx.st ≠ .vacant) : ShowStep s (s.startShow n p) := by
  unfold State.startShow
  dsimp only
  refine .trans (.trans (.modCtx s n _ fun h => ?_) (.modInput _ n _ fun r hr _ => ?_))
    ((ShowFrame.textSignal _ n _ fun s t => .textWait s n t).trans (.soundSignal _ n _)).shows
  · have hframe := ((h.moveTo (min_le_right p _)).slewTo (k := 0) (by decide)).nominalAdvance
    exact ((hframe.coastTo (k := 0) (by decide)).acquireTo 0).enter hst .acquiring
  · rw [onStart_pm _ hr]
    exact r.nominal_in_window

theorem jump_shows (s : State) (n : Aud) (r p : Nat) (hst : (s.aud n).ctx.st ≠ .vacant) (hr : r ≤ (s.aud n).ctx.duration) :
    ShowStep s (s.jump n r p) := by
  unfold State.jump
  dsimp only
  have hmove : ShowStep s ((s.modCtx n fun x => { x with c := r }).modInput n InputUnit.restart) :=
    .trans (.modCtx s n _ fun h => h.moveTo hr) (.modInput_pm _ n _ restart_pm)
  have hframe : ShowStep ((s.modCtx n fun x => { x with c := r }).modInput n InputUnit.restart)
      (((s.modCtx n fun x => { x with c := r }).modInput n InputUnit.restart).modCtx n fun x => { x with k := 0, adv := x.ticks }) :=
    .modCtx _ n _ fun h => (h.slewTo (k := 0) (by decide)).nominalAdvance
  refine (hmove.trans hframe).trans ((ShowStep.raise _ _ _ _).trans (.ite _ (fun _ => finish_shows _ n ?_) fun _ => ?_))
  · simpa using hst
  · exact ((ShowFrame.textSignal _ n _ fun s t => .textSeek _ s n t).trans (.soundSignal _ n _)).shows

theorem report_shows (s : State) (n : Aud) (r p : Nat) (hst : (s.aud n).ctx.st ≠ .vacant) (hr : r ≤ (s.aud n).ctx.duration) :
    ShowStep s (s.report n r p).1 := by
  unfold State.report
  dsimp only
  refine .ite_fst _ (fun _ => .ite_fst _ (fun _ => .refl s) fun _ => .ite_fst _ (fun hslew => ?_) fun _ => jump_shows s n r p hst hr) fun _ => ?_
  · refine .modCtx s n (fun x => { x with k := (r : Int) - p }) fun h => h.slewTo (hslew.trans ?_)
    exact (Nat.mul_le_mul h.slewWindow (ShowCtx.ticks_le _)).trans (by decide)
  · exact .trans (.modCtx s n _ fun h => (h.moveTo hr).slewTo (k := 0) (by decide)) (.modInput_pm _ n _ restart_pm)

theorem adopt_shows (s : State) (n : Aud) : ShowStep s (s.adopt n) :=
  .of_only (adopt_only s n) fun h => by
    rw [State.adopt, State.modAud_same, showOk_iff]
    exact { h with coastLimit := h.coastLimitStaged, slewWindow := h.slewWindowStaged }

/-! ### Pulses (R47 to R55, R70 to R77) -/

theorem acquirePulse_shows (s : State) (n : Aud) (m w : Bool) (p : Nat) (hst : (s.aud n).ctx.st ≠ .vacant) (hp : p ≤ (s.aud n).ctx.duration) :
    ShowStep s (s.acquirePulse n m w p) := by
  unfold State.acquirePulse
  refine .ite _ (fun _ => .modCtx s n _ fun h => ((h.moveTo hp).acquireTo 0).newFrame) fun _ => .ite _
    (fun _ => .modCtx s n _ fun h => (h.countFrame.acquireTo 0).newFrame) fun _ => ?_
  have hcount : ShowStep s (s.modCtx n fun x => { x.countFrame with acquire := x.acquire + 1 }.newFrame) :=
    .modCtx s n _ fun h => (h.countFrame.acquireTo _).newFrame
  refine hcount.trans (.ite _ (fun _ => gainLock_shows _ n ?_) fun _ => .refl _)
  simpa [ShowCtx.countFrame] using hst

theorem runningPulse_shows (s : State) (n : Aud) (m : Bool) (p : Nat) (hst : (s.aud n).ctx.st ≠ .vacant) (hp : p ≤ (s.aud n).ctx.duration) :
    ShowStep s (s.runningPulse n m p) := by
  refine .trans (.modCtx s n _ fun h => ?_) (finishTest_shows _ n)
  cases m with
  | true => exact (h.countFrame.newFrame.enter (by simpa [ShowCtx.countFrame] using hst) .locked).coastTo (k := 0) (by decide)
  | false => exact ((h.moveTo hp).newFrame.enter (by simpa using hst) .locked).coastTo (k := 0) (by decide)

theorem handPulse_shows (s : State) (n : Aud) (m w : Bool) (p : Nat) (hst : (s.aud n).ctx.st ≠ .vacant) (hp : p ≤ (s.aud n).ctx.duration) :
    ShowStep s (s.handPulse n m w p) := by
  unfold State.handPulse
  split
  · exact acquirePulse_shows s n m w p hst hp
  · exact runningPulse_shows s n m p hst hp
  · exact runningPulse_shows s n m p hst hp
  · exact .modCtx s n _ fun h => ((h.enter hst .acquiring).acquireTo 0).nominalAdvance
  · exact .refl s

theorem measure_shows (s : State) (n : Aud) (r : RateClass) (m : Nat) (hr : (s.aud n).ctx.rate = some r) : ShowStep s (s.measure n r m) := by
  unfold State.measure
  dsimp only
  refine .trans (.modInput s n (fun u => { u with pm := newEstimate r u.pm m, lastInterval := m }) fun r' hr' h => ?_) ?_
  · obtain rfl := Option.some.inj (hr.symm.trans hr')
    exact newEstimate_in_window r m h
  · exact .ite _ (fun _ => .modInput_pm _ n _ (by intro; rfl)) fun _ => .ite _
      (fun _ => .trans (.modInput_pm _ n _ (by intro; rfl)) (.raise _ _ _ _)) fun _ => .modInput_pm _ n _ (by intro; rfl)

theorem measure_ctx (s : State) (n : Aud) (r : RateClass) (m : Nat) : ((s.measure n r m).aud n).ctx = (s.aud n).ctx := by
  unfold State.measure
  dsimp only
  split
  · simp
  · split <;> simp

theorem acceptPulse_shows (s : State) (n : Aud) (hst : (s.aud n).ctx.st ≠ .vacant) : ShowStep s (s.acceptPulse n) := by
  refine .assuming (acceptPulse_only s n) fun h => ?_
  unfold State.acceptPulse
  extract_lets u measured p rate inw s1 s2
  have hrate : (s.aud n).ctx.rate = rate := rfl
  clear_value rate measured
  have h1 : ShowStep s s1 ∧ (s1.aud n).ctx = (s.aud n).ctx := by
    unfold s1
    split
    · exact ⟨measure_shows s n _ _ hrate, measure_ctx s n _ _⟩
    · exact ⟨.refl s, rfl⟩
  obtain ⟨h1, hctx1⟩ := h1
  have hctx : (s2.aud n).ctx = (s.aud n).ctx := by rw [← hctx1]; simp [s2]
  refine .trans (.trans (.trans h1 (.modInput_pm s1 n _ (by intro; rfl))) (handPulse_shows s2 n _ _ _ ?_ ?_)) (adopt_shows _ n)
  · rw [hctx]
    exact hst
  · rw [hctx]
    exact ShowCtx.position_le _ _ h.c

theorem candidate_shows (s : State) (n : Aud) : ShowStep s (s.candidate n) := by
  unfold State.candidate
  refine .trans (.modInput_pm s n (fun u => { u with candidates := wrap16 (u.candidates + 1) }) (by intro; rfl)) ?_
  exact .ite _ (fun _ => .refl _) fun hst => .ite _ (fun _ => .raise _ _ _ _) fun _ => acceptPulse_shows _ n hst

theorem syntheticPulse_shows (s : State) (n : Aud) (hst : (s.aud n).ctx.st ≠ .vacant) (hcoast : (s.aud n).ctx.coast < (s.aud n).ctx.coastLimit) :
    ShowStep s (s.syntheticPulse n) := by
  unfold State.syntheticPulse
  dsimp only
  refine .trans (.trans (.trans (.modCtx s n _ fun h => ?_) (.modInput_pm _ n _ (by intro; rfl)))
    (.ite _ (fun _ => .raise _ _ _ _) fun _ => .refl _)) (finishTest_shows _ n)
  exact (h.countFrame.newFrame.coastTo (Nat.le_trans hcoast h.coastLimit)).enter (by simpa [ShowCtx.countFrame] using hst) .coasting

theorem answerDeadline_shows (s : State) (n : Aud) : ShowStep s (s.answerDeadline n) := by
  have hrun (hst : (s.aud n).ctx.st ≠ .vacant) :
      ShowStep s (if (s.aud n).ctx.coast < (s.aud n).ctx.coastLimit then s.syntheticPulse n else s.hold n) :=
    .ite _ (fun h => syntheticPulse_shows s n hst h) fun _ => hold_shows s n hst
  unfold State.answerDeadline
  dsimp only
  split
  · exact .trans (.modCtx s n _ fun h => (h.moveTo (ShowCtx.position_le _ _ h.c)).acquireTo 0) (.modInput_pm _ n _ restart_pm)
  · rename_i hst
    exact hrun (by rw [hst]; decide)
  · rename_i hst
    exact hrun (by rw [hst]; decide)
  · exact .modInput_pm s n _ clearRef_pm

theorem missDeadline_shows (s : State) (n : Aud) : ShowStep s (s.missDeadline n) :=
  .ite _ (fun _ => .refl s) fun _ =>
    .trans (.trans (.modInput_pm s n _ (by intro; rfl)) (answerDeadline_shows _ n)) (adopt_shows _ n)

theorem risingEdge_shows (s : State) (n : Aud) : ShowStep s (s.risingEdge n) := by
  unfold State.risingEdge
  refine .trans (.modInput_pm s n (fun u => { u with fp := true }) (by intro; rfl)) ?_
  refine .ite _ (fun _ => .ite _ (fun _ => ?_) fun _ => .modInput_pm _ n _ (by intro; rfl)) fun _ => .refl _
  exact .trans (.modInput_pm _ n _ (by intro; rfl)) (candidate_shows _ n)

theorem qualify_shows (s : State) (n : Aud) : ShowStep s (s.qualify n) :=
  .ite _ (fun _ => .trans (.modInput_pm s n _ (by intro; rfl)) (candidate_shows _ n)) fun _ => .refl s

/-! ### Contacts, the cycle expiry and a measure count -/

theorem modLine_shows (s : State) (l : ContactLine) (f : Debouncer → Debouncer) : ShowStep s (s.modLine l f) := by
  unfold State.modLine
  split
  · exact .modInput_pm s _ _ (by intro; rfl)
  · exact .modInput_pm s _ _ (by intro; rfl)
  · exact .of_auds rfl

theorem regate_shows (s : State) (n : Aud) : ShowStep s (s.regate n) := .modInput_pm s n _ (by intro; rfl)

theorem settle_shows (s : State) (l : ContactLine) : ShowStep s (s.settle l) := by
  unfold State.settle
  refine (modLine_shows s l .settle).trans ?_
  unfold State.regateLine
  split
  · exact regate_shows _ _
  · exact regate_shows _ _
  · exact .foldl _ regate_shows _ _

theorem expire_shows (s : State) (n : Aud) : ShowStep s (s.expire n) := by
  have hpre : ShowFrame s (((s.modAir n fun a => { a with timer := cycleCounts }).adoptAir n).ageAnnouncement n) :=
    .trans (.trans (.modAir s n _) (.adoptAir _ n)) (.ageAnnouncement _ n)
  unfold State.expire
  refine hpre.shows.trans ?_
  dsimp only
  split
  · exact (finishTest_shows _ n).trans (((ShowFrame.buildFrame _ n _).trans (.modAir _ n _)).trans (.handOver _ n _ _)).shows
  · exact ((ShowFrame.modAir _ n _).trans (.handOver _ n _ _)).shows

theorem count_aud (s : State) (n : Aud) : s.count.aud n = (s.aud n).count :=
  show (s.auds.map Auditorium.count)[n.val] = (s.auds[n.val]).count from Vector.getElem_map ..

theorem count_shows (s : State) : ShowStep s s.count := fun n h => by
  rw [count_aud, showOk_iff]
  exact (showOk_iff _).mp h

theorem dueOf_shows (s : State) (n : Aud) : ShowStep s (s.dueOf n) := by
  unfold State.dueOf
  refine .trans ?_ (.when_ _ _ _ fun s => expire_shows s n)
  refine .trans ?_ (.when_ _ _ _ fun s => (ShowFrame.endCooling s n).shows)
  refine .trans ?_ (.when_ _ _ _ fun s => missDeadline_shows s n)
  refine .trans ?_ (.when_ _ _ _ fun s => settle_shows s _)
  refine .trans ?_ (.when_ _ _ _ fun s => settle_shows s _)
  refine .trans ?_ (.when_ _ _ _ fun s => qualify_shows s n)
  exact .when_ _ _ _ fun s => (ShowFrame.endTransmission s n).shows

end Sys2Proof.Machine

/-! ## The commands of shows, sound, air and emitters keep the bounds (O53) -/

namespace Sys2Proof.Machine

/-! ### Binding (R65 to R67) -/

/-- A show without a package has no rate class to be bound to (R67). -/
theorem ShowCtx.Within.vacate {x : ShowCtx} {pm : Nat} (h : x.Within pm) (pm' : Nat) : x.vacate.Within pm' where
  c := le_rfl
  coast := h.coast
  coastLimit := h.coastLimit
  coastLimitStaged := h.coastLimitStaged
  slewWindow := h.slewWindow
  slewWindowStaged := h.slewWindowStaged
  k := Nat.zero_le _
  bound := fun hst => absurd rfl hst
  rate := fun _ hr => by cases hr

/-- The context of a show that has just been bound (R65). -/
theorem ShowCtx.Within.bindTo {x y : ShowCtx} {pm : Nat} (h : x.Within pm) (r : RateClass) (hc : y.c = 0) (hcoast : y.coast = 0) (hk : y.k = 0)
    (hrate : y.rate = some r) (hadv : y.adv = r.ticks) (htimes : (y.coastLimit, y.coastLimitStaged, y.slewWindow, y.slewWindowStaged)
      = (x.coastLimit, x.coastLimitStaged, x.slewWindow, x.slewWindowStaged)) : y.Within r.nominal := by
  simp only [Prod.mk.injEq] at htimes
  obtain ⟨hlimit, hlimit', hslew, hslew'⟩ := htimes
  refine ⟨hc ▸ Nat.zero_le _, hcoast ▸ Nat.zero_le _, hlimit ▸ h.coastLimit, hlimit' ▸ h.coastLimitStaged, hslew ▸ h.slewWindow,
    hslew' ▸ h.slewWindowStaged, by simp [hk], fun _ => by rw [hrate]; rfl, fun r' hr' => ?_⟩
  obtain rfl := Option.some.inj (hrate.symm.trans hr')
  exact ⟨hadv ▸ Nat.sub_le _ _, hadv ▸ Nat.le_add_right _ _, r.nominal_in_window⟩

/-- An answer changes nothing that the action has not changed. -/
theorem ShowStep.done {s s' : State} (c : Code) (v : List Byte) (h : ShowStep s s') : ShowStep s (done s' c v).1 := h

theorem ShowFrame.done {s s' : State} (c : Code) (v : List Byte) (h : ShowFrame s s') : ShowFrame s (done s' c v).1 := h

theorem ShowFrame.modPackage (s : State) (id : Nat) (f : Package → Package) : ShowFrame s (s.modPackage id f) := .of_auds rfl

theorem bindRead_shows (s : State) (n : Aud) : ShowStep s (s.bindRead n) := by
  unfold State.bindRead
  dsimp only
  split
  · exact .trans (.modCtx s n (fun x => { x with bindAsked := true }) fun h => { h with }) (ShowFrame.request _ _).shows
  · exact .refl s

theorem bound_shows (s : State) (n : Aud) (hst : (s.aud n).ctx.st ≠ .vacant) : ShowStep s (s.bound n) := by
  unfold State.bound
  dsimp only
  refine .trans (.modCtx s n (fun x => { x with st := .standby }) fun h => h.enter hst _) ?_
  refine (ShowFrame.trans (.trans (.raise _ _ _ _) (.foldl _ (fun s t => .textBound s n t) _ _)) (.foldl _ (fun s t => .modPlay s n t _) _ _)).shows

theorem bindFail_shows (s : State) (n : Aud) : ShowStep s (s.bindFail n) := by
  unfold State.bindFail
  dsimp only
  refine .trans (.trans (.trans (.modCtx s n ShowCtx.vacate fun h => h.vacate _) (ShowFrame.modPackage _ _ _).shows) (.modInput _ n _ ?_))
    (.raise _ _ _ _)
  intro r hr
  have hnone : (((s.modCtx n ShowCtx.vacate).unbindCount ((s.aud n).ctx.pkg.getD 0)).aud n).ctx.rate = none := by
    change ((s.modCtx n ShowCtx.vacate).aud n).ctx.rate = none
    rw [State.modCtx_same]
    rfl
  rw [State.unbindCount] at hnone
  exact absurd (hnone.symm.trans hr) (by simp)

theorem bindReadDone_shows (s : State) (f : Flight) (n : Aud) (errs : Nat) : ShowStep s (s.bindReadDone f n errs) := by
  unfold State.bindReadDone
  refine (ShowFrame.graded s f errs).shows.trans ?_
  generalize s.graded f errs = s
  dsimp only
  split
  · rename_i hb
    split
    · split
      · rename_i r rest _
        have hs : ShowStep s (s.modCtx n fun x => { x with
            index := x.index.set r.track.val (x.index.get r.track ++ indexEntries r.entries (readBytes s.flash f.addr)) r.track.isLt
            bindTodo := rest }) := .modCtx s n _ fun h => { h with }
        split
        · refine hs.trans (bound_shows _ n ?_)
          rw [State.modCtx_same]
          change (s.aud n).ctx.st ≠ _
          rw [hb.1]
          decide
        · exact hs.trans (bindRead_shows _ n)
      · exact .refl s
    · exact bindFail_shows s n
  · split
    · exact bindRead_shows s n
    · exact .refl s

theorem onVacant_shows (s : State) (n : Aud) (h : (s.aud n).ctx.rate = none) : ShowStep s (s.modInput n InputUnit.onVacant) :=
  .modInput s n _ fun r hr => by simp [h] at hr

theorem unbind_shows (s : State) (n : Aud) : ShowStep s (s.unbind n) := by
  unfold State.unbind
  dsimp only
  have hsignal : ShowFrame (s.modCtx n ShowCtx.vacate) (if (s.aud n).ctx.st = .binding then (s.modCtx n ShowCtx.vacate).withdraw (.bind n)
      else ((s.modCtx n ShowCtx.vacate).textSignal n State.textUnbind).soundSignal n Playout.onUnbind) :=
    .ite _ (fun _ => .withdraw _ _) fun _ => (ShowFrame.textSignal _ n _ fun s t => .textUnbind s n t).trans (.soundSignal _ n _)
  refine .trans (.trans (.modCtx s n ShowCtx.vacate fun h => h.vacate _) (hsignal.trans (.modPackage _ _ _)).shows) (onVacant_shows _ n ?_)
  rw [(hsignal.trans (.modPackage _ _ _)).ctx n, State.modCtx_same]
  rfl

theorem showBind_shows (a p : Byte) (xs ys : List (Option TrackSetting)) (s : State) : ShowStep s (showBindAction a p xs ys s).1 := by
  unfold showBindAction
  split
  · rename_i n _ _ _ _ _ _ _
    refine .ite_fst _ (fun _ => .refl s) fun _ => ?_
    split
    · exact .refl s
    · split
      · rename_i info _ _
        refine .ite_fst _ (fun _ => .refl s) fun _ => ?_
        refine .done _ _ (.trans ?_ (.ite _ (fun _ => bound_shows _ n ?_) fun _ => .ite _ (fun _ => .refl _) fun _ => bindRead_shows _ n))
        · -- the context and the input unit change together
          refine (ShowFrame.modPackage s _ _).shows.trans (.of_only ((modCtx_only _ n _).trans (modInput_only _ n _)) fun h => ?_)
          rw [State.modInput_same, State.modCtx_same, showOk_iff]
          exact h.bindTo info.rate rfl rfl rfl rfl rfl rfl
        · rw [State.modInput_aud_ctx, State.modCtx_same]
          exact fun h => by cases h
      · exact .refl s
  · exact .refl s

theorem showUnbind_shows (a : Byte) (s : State) : ShowStep s (showUnbindAction a s).1 := by
  unfold showUnbindAction
  split
  · exact .ite_fst _ (fun _ => .refl s) fun _ => unbind_shows s _
  · exact .refl s

/-! ### Positioning and settings (R78 to R87) -/

theorem showStart_shows (a : Byte) (p : Nat) (s : State) : ShowStep s (showStartAction a p s).1 := by
  unfold showStartAction
  split
  · exact .ite_fst _ (fun _ => .refl s) fun _ => .ite_fst _ (fun _ => .refl s) fun h => startShow_shows s _ p fun hv => h (.inl hv)
  · exact .refl s

/-- A finish leaves the duration, and a show that is bound stays bound (R82). -/
theorem finishTest_duration (s : State) (n : Aud) : ((s.finishTest n).aud n).ctx.duration = (s.aud n).ctx.duration := by
  unfold State.finishTest
  split
  · rw [(finish_frame s n).ctx, State.modCtx_same]
    rfl
  · rfl

theorem finishTest_ne_vacant (s : State) (n : Aud) (h : (s.aud n).ctx.st ≠ .vacant) : ((s.finishTest n).aud n).ctx.st ≠ .vacant := by
  unfold State.finishTest
  split
  · rw [(finish_frame s n).ctx, State.modCtx_same]
    exact fun h => by cases h
  · exact h

theorem positionReport_shows (a : Byte) (r : Nat) (s : State) : ShowStep s (positionReportAction a r s).1 := by
  unfold positionReportAction
  split
  · rename_i n _
    refine .ite_fst _ (fun _ => .refl s) fun _ => .ite_fst _ (fun _ => .refl s) fun hst => ?_
    refine (finishTest_shows s n).trans (.ite_fst _ (fun _ => .refl _) fun _ => report_shows _ n _ _ ?_ ?_)
    · exact finishTest_ne_vacant s n fun hv => hst (.inl hv)
    · rw [finishTest_duration]
      exact min_le_right _ _
  · exact .refl s

theorem setText_shows (s : State) (n : Aud) (t : TextTrack) (set : TrackSetting) : ShowStep s (s.setText n t set) := by
  unfold State.setText
  dsimp only
  refine .trans (.modCtx s n (fun x => { x with text := x.text.set t.val set t.isLt }) fun h => { h with }) ?_
  refine .ite _ (fun _ => (ShowFrame.textOff _ n t).shows) fun _ => .ite _ (fun _ => ?_) fun _ => .refl _
  exact (finishTest_shows _ n).trans (ShowFrame.textOnSignal _ _ n t).shows

theorem setSound_shows (s : State) (n : Aud) (t : SoundTrack) (set : TrackSetting) : ShowStep s (s.setSound n t set) := by
  unfold State.setSound
  dsimp only
  refine .trans (.trans (.modCtx s n (fun x => { x with sound := x.sound.set t.val set t.isLt }) fun h => { h with }) ?_)
    (ShowFrame.modPlay _ n t _).shows
  exact .ite_fst _ (fun _ => finishTest_shows _ n) fun _ => .refl _

theorem trackSet_shows (a k t e l : Byte) (s : State) : ShowStep s (trackSetAction a k t e l s).1 := by
  unfold trackSetAction
  split
  · refine .ite_fst _ (fun _ => ?_) fun _ => .ite_fst _ (fun _ => ?_) fun _ => .refl s
    · split
      · exact .ite_fst _ (fun _ => .refl s) fun _ => .ite_fst _ (fun _ => .refl s) fun _ => setText_shows s _ _ _
      · exact .refl s
    · split
      · exact .ite_fst _ (fun _ => .refl s) fun _ => .ite_fst _ (fun _ => .refl s) fun _ => setSound_shows s _ _ _
      · exact .refl s
  · exact .refl s

theorem gateSet_shows (a : Byte) (es : List Byte) (s : State) : ShowStep s (gateSetAction a es s).1 := by
  unfold gateSetAction
  split
  · exact .trans (.modInput_pm s _ (fun u => { u with gateTable := _ }) (by intro; rfl)) (regate_shows _ _)
  · exact .refl s

theorem timingSet_shows (a w c sl : Byte) (s : State) : ShowStep s (timingSetAction a w c sl s).1 := by
  unfold timingSetAction
  split
  · rename_i n _
    refine .ite_fst _ (fun _ => .refl s) fun hrange => ?_
    refine .trans (.of_only (modAud_only s n _) fun h => ?_) (.ite _ (fun _ => adopt_shows _ n) fun _ => .refl _)
    rw [State.modAud_same, showOk_iff]
    exact { h with
      coastLimitStaged := show c.toNat ≤ 48 by omega
      slewWindowStaged := show sl.toNat ≤ 48 by omega }
  · exact .refl s

theorem showStatus_shows (a : Byte) (s : State) : ShowStep s (showStatusAction a s).1 := by
  unfold showStatusAction
  split
  · exact finishTest_shows s _
  · exact .refl s

/-! ### Sound, air and emitters -/

theorem ShowFrame.soundBlock (a t : Byte) (stamp : Nat) (x : List Byte) (s : State) : ShowFrame s (soundBlockAction a t stamp x s).1 := by
  unfold soundBlockAction
  split
  · exact ite_fst _ (fun _ => refl s) fun _ => ite_fst _ (fun _ => refl s) fun _ => ite_fst _ (fun _ => refl s) fun _ =>
      ite_fst _ (fun _ => refl s) fun _ => ite_fst _ (fun _ => refl s) fun _ => ite_fst _ (fun _ => refl s) fun _ =>
      ite_fst _ (fun _ => refl s) fun _ => ite_fst _ (fun _ => refl s) fun _ => .done _ _ (modPlay s _ _ _)
  · exact refl s

theorem ShowFrame.soundFlush (a t : Byte) (s : State) : ShowFrame s (soundFlushAction a t s).1 := by
  unfold soundFlushAction
  split
  · exact ite_fst _ (fun _ => refl s) fun _ => ite_fst _ (fun _ => refl s) fun _ => .done _ _ (modPlay s _ _ _)
  · exact refl s

theorem ShowFrame.emitterSet (a en ma pa mb pb pr : Byte) (p w : Nat) (s : State) : ShowFrame s (emitterSetAction a en ma pa mb pb pr p w s).1 := by
  unfold emitterSetAction
  split
  · exact ite_fst _ (fun _ => refl s) fun _ => ite_fst _ (fun _ => refl s) fun _ => (modEmit s _ _).trans (enableEmitter _ _ _)
  · exact refl s

theorem ShowFrame.airSet (a r : Byte) (site : Nat) (i : Byte) (s : State) : ShowFrame s (airSetAction a r site i s).1 := by
  unfold airSetAction
  split
  · exact ite_fst _ (fun _ => refl s) fun _ => ite_fst _ (fun _ => refl s) fun _ => .done _ _ (modAir s _ _)
  · exact refl s

theorem ShowFrame.announce (mask i d : Nat) (x : List Byte) (s : State) : ShowFrame s (announceAction mask i d x s).1 := by
  unfold announceAction
  refine ite_fst _ (fun _ => refl s) fun _ => .trans (s' := { s with announces := (s.announces + 1) % 4294967296 }) (.of_auds rfl) ?_
  exact foldl _ (fun s n => ite _ (fun _ => modAir s n _) fun _ => refl s) _ _

theorem ShowFrame.announceCancel (mask : Nat) (s : State) : ShowFrame s (announceCancelAction mask s).1 := cancel mask allAuds s

end Sys2Proof.Machine

/-! ## Every step keeps the bounds of the shows (O53) -/

namespace Sys2Proof.Machine

namespace ShowFrame

/-! ### The commands of the directory and the cue store touch no auditorium (R6 to R24, R42) -/

theorem hostRead (s : State) (op : StoreOp) : ShowFrame s (s.hostRead op) := request s _

theorem hostWrite (s : State) (op : StoreOp) : ShowFrame s (s.hostWrite op) := ite _ (fun _ => of_auds rfl) fun _ => request s _

theorem setOp (s : State) (op : HostOp) : ShowFrame s (s.setOp op) := of_auds rfl

theorem claim (s : State) (b : Nat) (c : BlockClass) (o : Nat) : ShowFrame s (s.claim b c o) := of_auds rfl

/-- A write that follows changes outside the auditoriums. -/
theorem hostWrite_of_auds {s s' : State} (op : StoreOp) (auds : s'.auds = s.auds) : ShowFrame s (s'.hostWrite op) :=
  (of_auds auds).trans (hostWrite s' op)

theorem packageOpen (a : OpenArgs) (s : State) : ShowFrame s (packageOpenAction a s).1 := by
  unfold packageOpenAction
  split
  · exact refl s
  · split
    · exact refl s
    · refine ite_fst _ (fun _ => refl s) fun _ => ?_
      split
      · exact refl s
      · exact of_auds rfl

theorem handover (s : State) (p : Package) (l : Load) : ShowFrame s (s.handover p l) := by
  unfold State.handover
  dsimp only
  refine hostWrite_of_auds _ ?_
  split <;> rfl

theorem stage (s : State) (id : Nat) (l : Load) (t : TextTrack) (c : Cue) : ShowFrame s (s.stage id l t c) := of_auds rfl

theorem appendRecord {s s' : State} {p : Package} {info : PkgInfo} {l : Load} {r : RawRecord} {k : Nat} {c : Bool}
    (h : Machine.appendRecord s p info l r = .taken s' k c) : ShowFrame s s' := by
  have hleaves := appendRecord_leaves (P := ShowFrame s) (s := s) (p := p) (l := l) info r (stage s) fun _ _ _ _ =>
    (handover s p l).trans (stage _ _ _ _ _)
  rwa [h] at hleaves

theorem appendBatch (id : Nat) (rs : List RawRecord) : ∀ (s : State) (b : Batch), ShowFrame s (Machine.appendBatch id rs s b).1 := by
  induction rs with
  | nil => exact fun s _ => refl s
  | cons r rs ih =>
    intro s b
    unfold Machine.appendBatch
    split
    · split
      · split
        · rename_i h
          exact (appendRecord h).trans (ih _ _)
        · exact refl s
      · exact refl s
    · exact refl s

theorem appendReply (s : State) (b : Batch) (c : Code) : ShowFrame s (Machine.appendReply s b c).1 := by
  unfold Machine.appendReply
  split
  · exact refl s
  · exact of_auds rfl

theorem cueAppend (id : Nat) (rs : List RawRecord) (s : State) : ShowFrame s (cueAppendAction id rs s).1 := by
  unfold cueAppendAction
  split
  · exact refl s
  · exact ite_fst _ (fun _ => refl s) fun _ => ite_fst _ (fun _ => refl s) fun _ => (appendBatch id rs s _).trans (appendReply _ _ _)

theorem sealStep (s : State) (id step : Nat) (l : Load) : ShowFrame s (s.sealStep id step l) := by
  unfold State.sealStep
  split
  · split
    · exact hostWrite_of_auds _ rfl
    · exact refl s
  · exact refl s

theorem packageSeal (id : Nat) (s : State) : ShowFrame s (packageSealAction id s).1 := by
  unfold packageSealAction
  split
  · exact refl s
  · split
    · refine ite_fst _ (fun _ => refl s) fun _ => ite_fst _ (fun _ => refl s) fun _ => ite_fst _ (fun _ => refl s) fun _ =>
        ite_fst _ (fun _ => refl s) fun _ => .done _ _ (.trans ?_ (sealStep _ _ _ _))
      exact .trans (foldl _ (fun s b => claim s b _ _) _ s) (of_auds rfl)
    · exact refl s

theorem deleteNext (s : State) (id : Nat) (rest : List Nat) (k : Nat) : ShowFrame s (s.deleteNext id rest k) := by
  unfold State.deleteNext
  split
  · exact (setOp s _).trans (hostWrite _ _)
  · exact of_auds rfl

theorem reclaimNext (s : State) (rest : List Nat) (j k : Nat) : ShowFrame s (s.reclaimNext rest j k) := by
  unfold State.reclaimNext
  split
  · exact (setOp s _).trans (hostWrite _ _)
  · exact of_auds rfl

theorem packageDelete (id : Nat) (s : State) : ShowFrame s (packageDeleteAction id s).1 := by
  unfold packageDeleteAction
  split
  · exact refl s
  · refine ite_fst _ (fun _ => refl s) fun _ => ite_fst _ (fun _ => refl s) fun _ => ite_fst _ (fun _ => refl s) fun _ =>
      ite_fst _ (fun _ => refl s) fun _ => ite_fst _ (fun _ => refl s) fun _ => .done _ _ (.trans ?_ (deleteNext _ _ _ _))
    exact of_auds rfl

theorem packageProtect (id : Nat) (level : Byte) (s : State) : ShowFrame s (packageProtectAction id level s).1 := by
  unfold packageProtectAction
  split
  · exact refl s
  · split
    · exact refl s
    · exact ite_fst _ (fun _ => refl s) fun _ => ite_fst _ (fun _ => refl s) fun _ => of_auds rfl

theorem packageInfo (id : Nat) (s : State) :
    ShowFrame s (match s.package id with | some p => Machine.done s .ok p.infoBytes | none => refused s .noSuch).1 := by
  split <;> exact refl s

theorem cueAmend (id track cue : Nat) (x : Option CueText) (s : State) : ShowFrame s (cueAmendAction id track cue x s).1 := by
  unfold cueAmendAction
  split
  · exact refl s
  · refine ite_fst _ (fun _ => refl s) fun _ => ite_fst _ (fun _ => refl s) fun _ => ?_
    split
    · split
      · exact refl s
      · refine ite_fst _ (fun _ => refl s) fun _ => ite_fst _ (fun _ => refl s) fun _ => ite_fst _ (fun _ => refl s) fun _ =>
          ite_fst _ (fun _ => refl s) fun _ => .done _ _ (.trans (.trans ?_ (setOp _ _)) (hostRead _ _))
        exact ite _ (fun _ => of_auds rfl) fun _ => refl s
    · exact refl s

theorem cueRead (id track cue : Nat) (s : State) : ShowFrame s (cueReadAction id track cue s).1 := by
  unfold cueReadAction
  split
  · exact refl s
  · refine ite_fst _ (fun _ => refl s) fun _ => ?_
    split
    · exact ite_fst _ (fun _ => refl s) fun _ => ite_fst _ (fun _ => refl s) fun _ => (setOp s _).trans (hostRead _ _)
    · exact refl s

theorem storeReclaim (s : State) : ShowFrame s (storeReclaimAction s).1 :=
  ite_fst _ (fun _ => refl s) fun _ => ite_fst _ (fun _ => refl s) fun _ => reclaimNext s _ _ _

theorem noticeSet (b : Byte) (s : State) : ShowFrame s (noticeSetAction b s).1 := by
  unfold noticeSetAction
  split
  · exact of_auds rfl
  · exact refl s

/-! ### The control link (R160 to R163) -/

theorem startTx (s : State) (src : TxSource) : ShowFrame s (s.startTx src) := by
  unfold State.startTx
  split
  · exact of_auds rfl
  · exact refl s

theorem ready (s : State) (r : Reply) : ShowFrame s (s.ready r) := .trans (s' := { s with replyBuf := .ready r }) (of_auds rfl) (startTx _ _)

theorem refuse (s : State) (r : Reply) : ShowFrame s (s.refuse r) := by
  unfold State.refuse
  split
  · exact refl s
  · exact .trans (s' := { s with refusal := some r }) (of_auds rfl) (startTx _ _)

theorem frameError (s : State) : ShowFrame s s.frameError := .trans (s' := { s with framer := .hunting }) (of_auds rfl) (refuse _ _)

/-- An answer goes to the link alone. -/
theorem answer (kind tag : Byte) (d : Done) : ShowFrame d.1 (State.answer kind tag d) := by
  unfold State.answer
  split
  · exact ready _ _
  · exact of_auds rfl

theorem collect (s : State) (n : Nat) : ShowFrame s (s.collect n) := by
  unfold State.collect
  split <;> exact of_auds rfl

theorem replySent (s : State) : ShowFrame s s.replySent := by
  unfold State.replySent
  split
  · dsimp only
    split
    · exact .trans (s' := { s with refusal := none, uartTx := none }) (of_auds rfl) (startTx _ _)
    · exact of_auds rfl
  · dsimp only
    split
    · exact .trans (s' := { s with replyBuf := .empty, uartTx := none }) (of_auds rfl) (startTx _ _)
    · exact of_auds rfl
  · exact refl s

theorem clockOut (s : State) (out : List Byte) : ShowFrame s (s.clockOut out) := of_auds rfl

end ShowFrame

/-! ### Every command keeps the bounds -/

/-- A command keeps the bounds when its owner's action does. -/
theorem take_shows (s : State) (kind tag : Byte) (inStarting : Bool) (action : Option (State → Done))
    (h : ∀ act, action = some act → ∀ s, ShowStep s (act s).1) : ShowStep s (s.take kind tag inStarting action) := by
  unfold State.take
  refine .trans (s' := { s with framer := .hunting }) (.of_auds rfl) ?_
  refine .ite _ (fun _ => (ShowFrame.refuse _ _).shows) fun _ => .ite _ (fun _ => (ShowFrame.answer _ _ (refused _ _)).shows) fun _ => ?_
  split
  · exact (h _ rfl _).trans (ShowFrame.answer _ _ _).shows
  · exact (ShowFrame.answer _ _ (refused _ _)).shows

/-- The action of a command's owner keeps the bounds. -/
def ActionShows (o : Option (State → Done)) : Prop := ∀ act, o = some act → ∀ s, ShowStep s (act s).1

theorem actionShows_none : ActionShows none := fun _ h => by cases h

theorem actionShows_some {act : State → Done} (h : ∀ s, ShowStep s (act s).1) : ActionShows (some act) := fun _ e => by cases e; exact h

theorem actionShows_frame {act : State → Done} (h : ∀ s, ShowFrame s (act s).1) : ActionShows (some act) := actionShows_some fun s => (h s).shows

theorem actionShows_map {α : Type} (o : Option α) {act : α → State → Done} (h : ∀ a s, ShowFrame s (act a s).1) : ActionShows (o.map act) := by
  cases o
  · exact actionShows_none
  · exact actionShows_frame (h _)

theorem next_shows {s t : State} {kind tag : Byte} {b : Bool} {o : Option (State → Done)}
    (h : (Host.Outcome.next (s.take kind tag b o) : Host.Outcome State Fault Refusal) = .next t) (ho : ActionShows o) : ShowStep s t := by
  cases h
  exact take_shows s kind tag b o ho

/-- A reset auditorium meets the bounds (R159). -/
theorem showOk_of_reset {a : Auditorium} (g : Nat) (h : a.ctx = { ShowCtx.reset with bindGen := g }) : a.ShowOk := by
  rw [showOk_iff, h]
  refine ⟨?_, ?_, ?_, ?_, ?_, ?_, ?_, fun h => absurd rfl h, fun _ h => by cases h⟩ <;> simp [ShowCtx.reset]

theorem partReset_shows (s : State) : ShowStep s s.partReset := fun n _ => by
  have haud : s.partReset.aud n = (s.closeLoad.closeSlot.aud n).partReset n.val := by
    show (Vector.ofFn fun n : Aud => (s.closeLoad.closeSlot.aud n).partReset n.val)[n.val] = _
    rw [Vector.getElem_ofFn]
  exact haud ▸ showOk_of_reset _ rfl

theorem hardReset_shows (b : Bool) (s : State) : ShowStep s (s.hardReset b) := fun n _ =>
  showOk_of_reset 0 (by rw [hardReset_aud]; rfl)

theorem execKind_shows {kind tag : Byte} {body : List Byte} {s t : State} (h : execKind kind tag body s = .next t) : ShowStep s t := by
  have answered (f : State → List Byte) : ActionShows (some fun s => done s .ok (f s)) := actionShows_some fun s => .refl s
  unfold execKind at h
  split at h
  · exact next_shows h (by split; exacts [answered _, actionShows_none])
  · exact next_shows h (by split; exacts [answered _, actionShows_none])
  · exact next_shows h (by split; exacts [actionShows_frame fun s => .of_auds rfl, actionShows_none])
  · exact next_shows h (by split; exacts [actionShows_frame (ShowFrame.noticeSet _), actionShows_none])
  · exact next_shows h (by split; exacts [actionShows_some partReset_shows, actionShows_none])
  · exact next_shows h (actionShows_map _ ShowFrame.packageOpen)
  · exact next_shows h (by split; exacts [actionShows_map _ (ShowFrame.cueAppend _), actionShows_none])
  · exact next_shows h (by split; exacts [actionShows_frame (ShowFrame.packageSeal _), actionShows_none])
  · exact next_shows h (by split; exacts [actionShows_frame (ShowFrame.packageDelete _), actionShows_none])
  · exact next_shows h (by split; exacts [actionShows_frame (ShowFrame.packageProtect _ _), actionShows_none])
  · exact next_shows h (by split; exacts [actionShows_frame (ShowFrame.packageInfo _), actionShows_none])
  · exact next_shows h (by split; exacts [answered _, actionShows_none])
  · exact next_shows h (by
      split
      · split; exacts [actionShows_frame (ShowFrame.cueAmend _ _ _ _), actionShows_none]
      · exact actionShows_none)
  · exact next_shows h (by split; exacts [actionShows_frame (ShowFrame.cueRead _ _ _), actionShows_none])
  · exact next_shows h (by split; exacts [answered _, actionShows_none])
  · exact next_shows h (by split; exacts [actionShows_frame ShowFrame.storeReclaim, actionShows_none])
  · exact next_shows h (by split; exacts [actionShows_some (gateSet_shows _ _), actionShows_none])
  · exact next_shows h (by split; exacts [actionShows_some (timingSet_shows _ _ _ _), actionShows_none])
  · exact next_shows h (by split; exacts [actionShows_some (showBind_shows _ _ _ _), actionShows_none])
  · exact next_shows h (by split; exacts [actionShows_some (showUnbind_shows _), actionShows_none])
  · exact next_shows h (by split; exacts [actionShows_some (showStart_shows _ _), actionShows_none])
  · exact next_shows h (by split; exacts [actionShows_some (positionReport_shows _ _), actionShows_none])
  · exact next_shows h (by split; exacts [actionShows_some (trackSet_shows _ _ _ _ _), actionShows_none])
  · exact next_shows h (by split; exacts [actionShows_some (showStatus_shows _), actionShows_none])
  · exact next_shows h (by split; exacts [actionShows_frame (ShowFrame.soundBlock _ _ _ _), actionShows_none])
  · exact next_shows h (by split; exacts [actionShows_frame (ShowFrame.soundFlush _ _), actionShows_none])
  · exact next_shows h (by split; exacts [actionShows_frame (ShowFrame.airSet _ _ _ _), actionShows_none])
  · exact next_shows h (by split; exacts [actionShows_frame (ShowFrame.announce _ _ _ _), actionShows_none])
  · exact next_shows h (by split; exacts [actionShows_frame (ShowFrame.announceCancel _), actionShows_none])
  · exact next_shows h (by split; exacts [actionShows_frame (ShowFrame.emitterSet _ _ _ _ _ _ _ _ _), actionShows_none])
  · cases h
    exact (ShowFrame.trans (s' := { s with framer := .hunting }) (.of_auds rfl) (.refuse _ _)).shows

theorem execFrame_shows {bytes : List Byte} {s t : State} (h : execFrame bytes s = .next t) : ShowStep s t := by
  unfold execFrame at h
  split at h
  · exact execKind_shows h
  · cases h
    exact (ShowFrame.frameError s).shows

/-! ### Every event keeps the bounds -/

theorem readLinkStatus_shows {s t : State} {code : Byte} {sent : List Byte} (h : execReadLinkStatus code s sent = .next t) : ShowStep s t := by
  unfold execReadLinkStatus State.transfer at h
  split at h
  · dsimp only at h
    split at h
    · exact (ShowFrame.clockOut s _).shows.trans (execFrame_shows h)
    · cases h; exact (ShowFrame.collect s _).shows
    · cases h; exact (ShowFrame.clockOut s _).shows
    · cases h; exact (ShowFrame.clockOut s _).shows
  · cases h; exact .refl s

theorem uartByte_shows {s t : State} {b : Byte} {ok : Bool} (h : execUartSyncByteReceived s b ok = .next t) : ShowStep s t := by
  have hframer (x : Framer) : ShowStep s { s with framer := x } := .of_auds rfl
  unfold execUartSyncByteReceived State.byteReceived State.frameByte at h
  split at h
  · split at h
    · cases h; exact .ite _ (fun _ => hframer _) fun _ => .refl s
    · split at h
      · cases h; exact (ShowFrame.frameError s).shows
      · split at h
        · exact execFrame_shows h
        · cases h; exact hframer _
  · cases h; exact .refl s
  · cases h; exact .refl s

theorem tick_shows (s : State) : ShowStep s s.tick := by
  unfold State.tick
  refine .trans ?_ (.foldl _ (fun s n => dueOf_shows s n) _ _)
  exact .trans (.trans (count_shows s) (.when_ _ _ _ fun s => (ShowFrame.frameError s).shows)) (.when_ _ _ _ fun s => settle_shows s _)

/-- A completion of the store engine's work (R30 to R46). -/
theorem storeEvent_shows {i : Instr} {s t : State}
    (hi : ∃ ok errs, i ∈ [Instr.loadPageProgramDone ok, .sealStepDone ok, .amendReadDone errs, .amendProgramDone ok, .deleteEraseDone ok,
      .reclaimEraseDone ok, .retireTagProgramDone ok, .retireEraseDone ok, .cueReadStepDone errs, .scanTagReadDone ok,
      .scanSealReadDone errs, .swiInactive ok]) (h : exec i s = .next t) : ShowStep s t :=
  (ShowFrame.of_store (storeEvent_frames hi h).1).shows

theorem trackReadDone_shows {s t : State} {k : ReadKind} {errs : Nat} (h : t = s.trackReadDone k errs) : ShowStep s t := by
  obtain ⟨-, -, -, -, -, -, -, -, haud⟩ := trackRead_frame h
  exact (ShowFrame.mk (fun n => (haud n).2.1) fun n => (haud n).1).shows

theorem bindIndexRead_shows {s t : State} {errs : Nat} (h : exec (.bindIndexReadDone errs) s = .next t) : ShowStep s t := by
  rcases bindRead_completes h with rfl | ⟨-, u, ⟨f, n, -, -, rfl⟩, rfl⟩
  · exact .refl _
  · exact (bindReadDone_shows s f n errs).trans (ShowFrame.startNext _).shows

theorem exec_shows {i : Instr} {s t : State} (h : exec i s = .next t) : ShowStep s t := by
  have kind (k tag : Byte) (body : List Byte) (h : execKind k tag body s = .next t) : ShowStep s t := execKind_shows h
  cases i with
  | powerOnReset b => cases h; exact hardReset_shows b s
  | lineReset b => cases h; exact hardReset_shows b s
  | partReset tag body => exact kind 0x05 tag body h
  | partInfo tag body => exact kind 0x01 tag body h
  | linkStatus tag body => exact kind 0x02 tag body h
  | takeNotices tag body => exact kind 0x03 tag body h
  | noticeSet tag body => exact kind 0x04 tag body h
  | packageOpen tag body => exact kind 0x10 tag body h
  | cueAppend tag body => exact kind 0x11 tag body h
  | packageSeal tag body => exact kind 0x12 tag body h
  | packageDelete tag body => exact kind 0x13 tag body h
  | packageProtect tag body => exact kind 0x14 tag body h
  | packageInfo tag body => exact kind 0x15 tag body h
  | packageList tag body => exact kind 0x16 tag body h
  | cueAmend tag body => exact kind 0x17 tag body h
  | cueRead tag body => exact kind 0x18 tag body h
  | storeInfo tag body => exact kind 0x20 tag body h
  | storeReclaim tag body => exact kind 0x21 tag body h
  | gateSet tag body => exact kind 0x30 tag body h
  | timingSet tag body => exact kind 0x31 tag body h
  | showBind tag body => exact kind 0x32 tag body h
  | showUnbind tag body => exact kind 0x33 tag body h
  | showStart tag body => exact kind 0x34 tag body h
  | positionReport tag body => exact kind 0x35 tag body h
  | trackSet tag body => exact kind 0x36 tag body h
  | showStatus tag body => exact kind 0x37 tag body h
  | soundBlock tag body => exact kind 0x40 tag body h
  | soundFlush tag body => exact kind 0x41 tag body h
  | airSet tag body => exact kind 0x50 tag body h
  | announce tag body => exact kind 0x51 tag body h
  | announceCancel tag body => exact kind 0x52 tag body h
  | emitterSet tag body => exact kind 0x60 tag body h
  | frameError => cases h; exact (ShowFrame.frameError s).shows
  | unknownKind k tag =>
    cases h
    exact (ShowFrame.trans (s' := { s with framer := .hunting }) (.of_auds rfl) (.refuse _ _)).shows
  | collectReply n =>
    cases h
    split
    · exact (ShowFrame.collect s n).shows
    · exact .refl s
  | readLinkStatus code sent => exact readLinkStatus_shows h
  | uartFrameTimeout =>
    cases h
    split
    · exact (ShowFrame.frameError s).shows
    · exact .refl s
  | replySent => cases h; exact (ShowFrame.replySent s).shows
  | uartSyncByteReceived b ok => exact uartByte_shows h
  | fetchReadDone errs => cases h; exact trackReadDone_shows rfl
  | seekReadDone errs => cases h; exact trackReadDone_shows rfl
  | bindIndexReadDone errs => exact bindIndexRead_shows h
  | cueReadStepDone errs => exact storeEvent_shows ⟨true, errs, by simp⟩ h
  | amendReadDone errs => exact storeEvent_shows ⟨true, errs, by simp⟩ h
  | loadPageProgramDone ok => exact storeEvent_shows ⟨ok, 0, by simp⟩ h
  | sealStepDone ok => exact storeEvent_shows ⟨ok, 0, by simp⟩ h
  | amendProgramDone ok => exact storeEvent_shows ⟨ok, 0, by simp⟩ h
  | retireTagProgramDone ok => exact storeEvent_shows ⟨ok, 0, by simp⟩ h
  | deleteEraseDone ok => exact storeEvent_shows ⟨ok, 0, by simp⟩ h
  | reclaimEraseDone ok => exact storeEvent_shows ⟨ok, 0, by simp⟩ h
  | retireEraseDone ok => exact storeEvent_shows ⟨ok, 0, by simp⟩ h
  | scanTagReadDone d => exact storeEvent_shows ⟨d, 0, by simp⟩ h
  | scanSealReadDone errs => exact storeEvent_shows ⟨true, errs, by simp⟩ h
  | swiInactive after => exact storeEvent_shows ⟨after, 0, by simp⟩ h
  | framePulseRisingEdge n => cases h; exact risingEdge_shows s n
  | framePulseFallingEdge n => cases h; exact .modInput_pm s n _ (by intro; rfl)
  | qualifyingCountReached n => cases h; exact qualify_shows s n
  | missingPulseDeadline n => cases h; exact missDeadline_shows s n
  | contactLevelChange l b => cases h; exact modLine_shows s l _
  | debounceSettled l => cases h; exact settle_shows s l
  | cycleExpiry n => cases h; exact expire_shows s n
  | transmissionEnd n => cases h; exact (ShowFrame.endTransmission s n).shows
  | overcurrentFault n after => cases h; exact ((ShowFrame.overcurrent s n).trans (.modEmit _ n _)).shows
  | coolingEnd n => cases h; exact (ShowFrame.endCooling s n).shows

/-- Settles O53: by the instruction of the step, or by the counters and the events of a measure count. -/
theorem everyStepKeepsTheShowBounds : Obligations.EveryStepKeepsTheShowBounds := by
  unfold Obligations.EveryStepKeepsTheShowBounds
  exact fun s t k h => step_keeps_of (P := State.ShowsOk) (fun _ _ k => k) (fun s k n => tick_shows s n (k n))
    (fun _ _ _ h k n => exec_shows h n (k n)) h k

end Sys2Proof.Machine

/-! ## The filter, the contacts and the gate (O28, O32) -/

namespace Sys2Proof.Machine

/-! ### Changes of an input unit one after another -/

theorem modInput_modInput (s : State) (n : Aud) (f g : InputUnit → InputUnit) : (s.modInput n f).modInput n g = s.modInput n fun u => g (f u) := by
  unfold State.modInput State.modAud
  rw [show (s.setAud n { s.aud n with input := f (s.aud n).input }).aud n = _ from State.modInput_same s n f]
  unfold State.setAud
  rw [Vector.set_set]

/-- A change of an input unit is what it makes of that unit. -/
theorem modInput_congr {s : State} {n : Aud} {f g : InputUnit → InputUnit} (h : f (s.aud n).input = g (s.aud n).input) :
    s.modInput n f = s.modInput n g := by
  unfold State.modInput State.modAud
  dsimp only
  rw [h]

/-! ### The filter (R47) -/

theorem risingEdge_of_not_low {s : State} {n : Aud} (h : (s.aud n).input.filter ≠ .low) :
    s.risingEdge n = s.modInput n fun u => { u with fp := true } := by
  simp [State.risingEdge, h]

/-- An edge on a LOW filter with a filter length begins to qualify. -/
theorem risingEdge_of_low {s : State} {n : Aud} (h : (s.aud n).input.filter = .low) (hw : (s.aud n).input.wCurrent ≠ 0) :
    s.risingEdge n = s.modInput n fun u => { u with fp := true, filter := .qualifying, qualCount := 0, qualLength := u.wCurrent } := by
  simp [State.risingEdge, h, hw, modInput_modInput]

/-- An edge on a LOW filter of length 0 is a candidate at once. -/
theorem risingEdge_of_low_zero {s : State} {n : Aud} (h : (s.aud n).input.filter = .low) (hw : (s.aud n).input.wCurrent = 0) :
    s.risingEdge n = (s.modInput n fun u => { u with fp := true, filter := .high }).candidate n := by
  simp [State.risingEdge, h, hw, modInput_modInput]

theorem qualify_of_qualifying {s : State} {n : Aud} (h : (s.aud n).input.filter = .qualifying) :
    s.qualify n = (s.modInput n fun u => { u with filter := .high, qualCount := u.qualLength }).candidate n := by
  rw [State.qualify, if_pos h]

theorem qualify_of_not_qualifying {s : State} {n : Aud} (h : (s.aud n).input.filter ≠ .qualifying) : s.qualify n = s := by
  rw [State.qualify, if_neg h]

/-- A candidate of a VACANT show is counted and discarded. -/
theorem candidate_vacant {s : State} {n : Aud} (f : InputUnit → InputUnit) (h : (s.aud n).ctx.st = .vacant) :
    (s.modInput n f).candidate n = s.modInput n fun u => { f u with candidates := wrap16 ((f u).candidates + 1) } := by
  simp [State.candidate, h, modInput_modInput]

/-! ### The gate value (R59) -/

theorem gateValue_unsettled (table : Vector Gate 8) {h b a : Taken} (hu : h = .unsettled ∨ b = .unsettled ∨ a = .unsettled) :
    gateValue table h b a = .closed := by
  rcases hu with rfl | rfl | rfl
  · rfl
  · cases h <;> rfl
  · cases h <;> cases b <;> rfl

theorem bit_of_level (i : Fin 2) : (if i = 1 then Taken.active else .inactive).bit = some i.val := by
  match i with
  | 0 => rfl
  | 1 => rfl

/-- The gate value of settled inputs is their entry. -/
theorem gateValue_settled (table : Vector Gate 8) {h b a : Taken} {hi bi ai : Fin 2} (hh : h.bit = some hi.val) (hb : b.bit = some bi.val)
    (ha : a.bit = some ai.val) : gateValue table h b a = table.get ⟨4 * hi.val + 2 * bi.val + ai.val, by omega⟩ := by
  have hlt : 4 * hi.val + 2 * bi.val + ai.val < 8 := by omega
  unfold gateValue
  rw [hh, hb, ha]
  show (table[4 * hi.val + 2 * bi.val + ai.val]?).getD .closed = table[4 * hi.val + 2 * bi.val + ai.val]
  rw [Vector.getElem?_eq_getElem hlt, Option.getD_some]

/-! ### Contacts (R57, R58) -/

/-- An auditorium whose gate value has been recomputed, with the level taken from SHOLD (R59). -/
def Auditorium.gated (h : Taken) (a : Auditorium) : Auditorium :=
  { a with input := { a.input with gate := gateValue a.input.gateTable h a.input.auxB.taken a.input.auxA.taken } }

theorem regate_aud (s : State) (n m : Aud) : (s.regate n).aud m = if m = n then (s.aud m).gated s.shold.taken else s.aud m := by
  split
  · rename_i h
    rw [h, State.regate, State.modInput_same]
    rfl
  · rw [State.regate, State.modInput_other s n m _ ‹_›]

/-- Gate values recomputed one after another. -/
theorem foldl_regate (l : List Aud) : ∀ s : State, (l.foldl (fun s n => s.regate n) s).shold = s.shold
    ∧ (l.foldl (fun s n => s.regate n) s).notices = s.notices
    ∧ ∀ m, (l.foldl (fun s n => s.regate n) s).aud m = if m ∈ l then (s.aud m).gated s.shold.taken else s.aud m := by
  induction l with
  | nil => exact fun s => ⟨rfl, rfl, fun m => by simp⟩
  | cons n l ih =>
    intro s
    obtain ⟨hshold, hnotices, haud⟩ := ih (s.regate n)
    refine ⟨hshold, hnotices, fun m => ?_⟩
    rw [List.foldl_cons, haud, regate_aud, show (s.regate n).shold = s.shold from rfl]
    by_cases hml : m ∈ l
    · rw [if_pos hml, if_pos (List.mem_cons_of_mem _ hml)]
      split <;> rfl
    · rw [if_neg hml]
      exact if_congr (by simp [hml]) rfl rfl

theorem mem_allAuds (n : Aud) : n ∈ allAuds := by
  revert n
  decide

/-- A settled SHOLD bears on the sixteen gate values. -/
theorem settle_shold (s : State) : (s.settle .shold).shold = s.shold.settle ∧ (s.settle .shold).notices = s.notices
    ∧ ∀ m, (s.settle .shold).aud m = (s.aud m).gated s.shold.settle.taken := by
  obtain ⟨hshold, hnotices, haud⟩ := foldl_regate allAuds { s with shold := s.shold.settle }
  refine ⟨hshold, hnotices, fun m => (haud m).trans ?_⟩
  rw [if_pos (mem_allAuds m)]
  rfl

theorem settle_auxA (s : State) (n : Aud) : s.settle (.auxA n) = s.modInput n fun u =>
    { u with auxA := u.auxA.settle, gate := gateValue u.gateTable s.shold.taken u.auxB.taken u.auxA.settle.taken } := by
  unfold State.settle State.modLine State.regateLine State.regate
  exact modInput_modInput ..

theorem settle_auxB (s : State) (n : Aud) : s.settle (.auxB n) = s.modInput n fun u =>
    { u with auxB := u.auxB.settle, gate := gateValue u.gateTable s.shold.taken u.auxB.settle.taken u.auxA.taken } := by
  unfold State.settle State.modLine State.regateLine State.regate
  exact modInput_modInput ..

/-- Settles O28: the filter edge by edge, the gate value by its inputs, and each line's debouncer. -/
theorem inputsAreFiltered : Obligations.InputsAreFiltered := by
  unfold Obligations.InputsAreFiltered
  refine ⟨fun n s => ⟨fun h hw => ?_, fun h => ?_, rfl, fun h => ?_, fun hst h hw => ?_, fun hst h => ?_⟩,
    fun table h b a => ⟨gateValue_unsettled table, ?_⟩, fun n level s => ⟨rfl, rfl, rfl, ?_, ?_, ?_⟩⟩
  · exact congrArg Host.Outcome.next (risingEdge_of_low h hw)
  · exact congrArg Host.Outcome.next (risingEdge_of_not_low h)
  · exact congrArg Host.Outcome.next (qualify_of_not_qualifying h)
  · exact congrArg Host.Outcome.next ((risingEdge_of_low_zero h hw).trans (candidate_vacant _ hst))
  · exact congrArg Host.Outcome.next ((qualify_of_qualifying h).trans (candidate_vacant _ hst))
  · rintro hi bi ai rfl rfl rfl
    exact gateValue_settled table (bit_of_level hi) (bit_of_level bi) (bit_of_level ai)
  · rintro d rfl
    exact congrArg Host.Outcome.next ((settle_auxA s n).trans (modInput_congr rfl))
  · rintro d rfl
    exact congrArg Host.Outcome.next ((settle_auxB s n).trans (modInput_congr rfl))
  · rintro d rfl
    obtain ⟨hshold, hnotices, haud⟩ := settle_shold s
    exact ⟨_, rfl, hshold, hnotices, haud⟩

/-! ### GATE_SET (R60) -/

theorem audOf_none {b : Byte} (h : 15 < b.toNat) : audOf b = none := dif_neg (by omega)

/-- A byte that is neither OPEN nor CLOSED is no gate (R170). -/
theorem gateOfByte_isSome {b : Byte} (h : (Gate.ofByte b).isSome = true) : b.toNat ≤ 1 := by
  obtain ⟨g, hg⟩ := Option.isSome_iff_exists.mp h
  have := (List.getElem?_eq_some_iff.mp hg).1
  simp only [List.length_cons, List.length_nil] at this
  omega

theorem gateOfByte_code (g : Gate) : Gate.ofByte (BitVec.ofNat 8 g.code) = some g := by cases g <;> rfl

theorem mapM_gateOfByte_codes (gs : List Gate) : (gs.map fun x => BitVec.ofNat 8 x.code).mapM Gate.ofByte = some gs := by
  induction gs with
  | nil => rfl
  | cons g gs ih => rw [List.map_cons, List.mapM_cons, gateOfByte_code, ih]; rfl

theorem gateSet_range {a : Byte} {es : List Byte} (h : 15 < a.toNat ∨ ∃ e ∈ es, 1 < e.toNat) (s : State) :
    gateSetAction a es s = refused s .range := by
  unfold gateSetAction
  split
  · rename_i n _ _ _ _ _ _ _ _ ha hes
    rcases h with h | ⟨e, he, h⟩
    · rw [audOf_none h] at ha
      cases ha
    · have hsome := (mapM_isSome Gate.ofByte es).mp (by rw [hes]; rfl) e he
      exact absurd (gateOfByte_isSome hsome) (by omega)
  · rfl

theorem gateSet_accepted {a : Byte} {n : Aud} (ha : a.toNat = n.val) (table : Vector Gate 8) (s : State) :
    gateSetAction a (table.toList.map fun x => BitVec.ofNat 8 x.code) s
      = done ((s.modInput n fun u => { u with gateTable := table }).regate n) .ok
          (u8 (((s.modInput n fun u => { u with gateTable := table }).regate n).aud n).input.gate.code) := by
  unfold gateSetAction
  rw [audOf_eq ha, mapM_gateOfByte_codes]
  match table with
  | ⟨⟨[_, _, _, _, _, _, _, _]⟩, _⟩ => rfl

/-- Settles O32: the values of the command, and the table and the gate value in one change of the input unit. -/
theorem gateSetReplacesTheTable : Obligations.GateSetReplacesTheTable := by
  unfold Obligations.GateSetReplacesTheTable
  intro tag a e0 e1 e2 e3 e4 e5 e6 e7 s hs
  have hexec : exec (.gateSet tag [a, e0, e1, e2, e3, e4, e5, e6, e7]) s
      = .next (State.answer 0x30 tag (gateSetAction a [e0, e1, e2, e3, e4, e5, e6, e7] s.taken)) :=
    congrArg Host.Outcome.next (take_runs s 0x30 tag false _ hs)
  refine ⟨fun h => ?_, fun n table g ha hes hg => ?_⟩
  · rw [hexec, gateSet_range h, answer_refused]
  · have hgated : ((s.taken.modInput n fun u => { u with gateTable := table }).regate n)
        = s.taken.modInput n fun u => { u with gateTable := table, gate := g } :=
      (modInput_modInput ..).trans (modInput_congr (by rw [hg]; rfl))
    rw [hexec, hes, gateSet_accepted ha, hgated, answer_done, State.modInput_same]

end Sys2Proof.Machine

/-! ## A measure count passes (O2) -/

namespace Sys2Proof.Machine

/-! ### Events one after another -/

theorem runEvents_append {l l' : List ((State → Bool) × Instr)} {s t : State} (h : runEvents l s = .next t) :
    runEvents (l ++ l') s = runEvents l' t := by
  induction l generalizing s with
  | nil =>
    cases h
    rfl
  | cons e l ih =>
    simp only [List.cons_append, runEvents] at h ⊢
    split
    · rename_i hdue
      rw [if_pos hdue] at h
      split at h
      · exact ih h
      · rename_i hn
        exact absurd h (hn t)
    · rename_i hdue
      rw [if_neg hdue] at h
      exact ih h

/-- Where no event is due the state is as it was. -/
theorem runEvents_none {l : List ((State → Bool) × Instr)} {s : State} (h : ∀ e ∈ l, e.1 s = false) : runEvents l s = .next s := by
  induction l with
  | nil => rfl
  | cons e l ih =>
    obtain ⟨he, hl⟩ := List.forall_mem_cons.mp h
    rw [runEvents, he]
    exact ih hl

/-- An event that is due acts as its row. -/
theorem runEvents_due {l : List ((State → Bool) × Instr)} {due : State → Bool} {i : Instr} {s t : State} (h : due s = true)
    (hexec : exec i s = .next t) : runEvents ((due, i) :: l) s = runEvents l t := by rw [runEvents, h, hexec]; rfl

/-- The model's test of an event and its action, as a row that runs where its condition stands. -/
theorem runEvents_when {l : List ((State → Bool) × Instr)} {due : State → Bool} {i : Instr} (s : State) (c : State → Bool) (f : State → State)
    (hc : due s = c s) (hexec : c s = true → exec i s = .next (f s)) : runEvents ((due, i) :: l) s = runEvents l (s.when_ (c s) f) := by
  cases h : c s
  · rw [runEvents, hc, h]
    rfl
  · exact runEvents_due (hc.trans h) (hexec h)

/-! ### The events of a measure count -/

theorem debouncer_due (d : Debouncer) : d.due = decide (d.steady = 12000 ∧ d.taken ≠ if d.level then .active else .inactive) :=
  (Bool.decide_and ..).symm

theorem missed_eq (u : InputUnit) : decide (u.ref ≠ .absent ∧ u.e = 3 * u.pm / 2) = u.missed := rfl

/-- The events of an auditorium are run as the model answers them. -/
theorem runEvents_eventsOf (s : State) (n : Aud) : runEvents (eventsOf n) s = .next (s.dueOf n) := by
  unfold State.dueOf
  extract_lets s1 s2 s3 s4 s5 s6
  refine Eq.trans (runEvents_when s (fun s => (s.aud n).emit.sentAll) (fun s => s.endTransmission n) rfl fun _ => rfl) ?_
  refine Eq.trans (runEvents_when s1 (fun s => (s.aud n).input.qualified) (fun s => s.qualify n) rfl fun _ => rfl) ?_
  refine Eq.trans (runEvents_when s2 (fun s => (s.aud n).input.auxA.due) (fun s => s.settle (.auxA n)) (debouncer_due _).symm fun _ => rfl) ?_
  refine Eq.trans (runEvents_when s3 (fun s => (s.aud n).input.auxB.due) (fun s => s.settle (.auxB n)) (debouncer_due _).symm fun _ => rfl) ?_
  refine Eq.trans (runEvents_when s4 (fun s => (s.aud n).input.missed) (fun s => s.missDeadline n) (missed_eq _) fun _ => rfl) ?_
  refine Eq.trans (runEvents_when s5 (fun s => decide ((s.aud n).emit.state = .cooling ∧ (s.aud n).emit.cooling = 0)) (fun s => s.endCooling n)
    rfl fun _ => rfl) ?_
  exact runEvents_when s6 (fun s => decide ((s.aud n).air.timer = 0)) (fun s => s.expire n) rfl fun _ => rfl

theorem runEvents_flatMap (l : List Aud) : ∀ s : State, runEvents (l.flatMap eventsOf) s = .next (l.foldl (fun s n => s.dueOf n) s) := by
  induction l with
  | nil => exact fun _ => rfl
  | cons n l ih =>
    intro s
    rw [List.flatMap_cons, runEvents_append (runEvents_eventsOf s n), ih, List.foldl_cons]

theorem timedOut_eq (s : State) : (match s.framer with
    | .receiving _ gap => decide (s.linkSel = .uart ∧ 2400 ≤ gap)
    | .hunting => false) = s.timedOut := by
  unfold State.timedOut
  cases s.linkSel with
  | uart =>
    cases s.framer with
    | hunting => rfl
    | receiving bytes gap => exact (Bool.decide_and ..).trans (Bool.true_and _)
  | spi =>
    cases s.framer with
    | hunting => rfl
    | receiving bytes gap => exact decide_eq_false fun h => by cases h.1

theorem receiving_of_timedOut {s : State} (h : s.timedOut = true) : s.linkSel = .uart ∧ ∃ bytes gap, s.framer = .receiving bytes gap := by
  unfold State.timedOut at h
  split at h
  · exact ⟨‹_›, _, _, ‹_›⟩
  · cases h

theorem exec_uartFrameTimeout {s : State} (h : s.timedOut = true) : exec .uartFrameTimeout s = .next s.frameError := by
  obtain ⟨hl, bytes, gap, hf⟩ := receiving_of_timedOut h
  show execUartFrameTimeout s = _
  unfold execUartFrameTimeout
  rw [hl, hf]

/-- A measure count is the events of the part after the counters have moved. -/
theorem runEvents_partEvents (s : State) : runEvents partEvents s.count = .next s.tick := by
  unfold State.tick
  extract_lets s0 s1 s2
  refine Eq.trans (runEvents_when s0 State.timedOut State.frameError (timedOut_eq s0) exec_uartFrameTimeout) ?_
  refine Eq.trans (runEvents_when s1 (fun s => s.shold.due) (fun s => s.settle .shold) (debouncer_due _).symm fun _ => rfl) ?_
  exact runEvents_flatMap allAuds s2

theorem step_of_idle {s : State} (h : s.pending = []) : step s = .next s.tick := by rw [step, h]

theorem framerCount_eq (f : Framer) : f.count = match f with
    | .hunting => .hunting
    | .receiving bytes gap => .receiving bytes (gap + 1) := by cases f <;> rfl

/-- Settles O2: the counters are the model's, and the events run in the order of their list. -/
theorem idleStepCountsOneMeasure : Obligations.IdleStepCountsOneMeasure := by
  unfold Obligations.IdleStepCountsOneMeasure
  intro s counted hpending hcounted
  obtain rfl : counted = s.count := by
    rw [hcounted]
    show _ = { s with auds := s.auds.map Auditorium.count, shold := s.shold.count, framer := s.framer.count }
    rw [framerCount_eq]
    rfl
  have hstep : step s = runEvents partEvents s.count := (step_of_idle hpending).trans (runEvents_partEvents s).symm
  refine ⟨hstep, fun hnone => hstep.trans (runEvents_none hnone), fun before after due i t hsplit hbefore hdue hexec hafter => ?_⟩
  rw [hstep, hsplit, runEvents_append (runEvents_none hbefore), runEvents_due hdue hexec]
  exact runEvents_none hafter

end Sys2Proof.Machine

/-! ## The signals of a show's course: finish and hold (R82, R92, R123) -/

namespace Sys2Proof.Machine

/-! ### The engines that a signal clears (R92 b, e, f) -/

/-- A waiting read of an engine is withdrawn: nothing but its read outstanding and the queue of requests changes (R102). -/
theorem dropWaiting_eq (s : State) (n : Aud) (t : TextTrack) : (∃ o, (s.dropWaiting n t).eng n t = { s.eng n t with out := o })
    ∧ (s.dropWaiting n t).notices = s.notices ∧ ((s.dropWaiting n t).aud n).air = (s.aud n).air := by
  unfold State.dropWaiting
  split
  · exact ⟨⟨none, State.modEng_eng ..⟩, rfl, State.modEng_aud_air ..⟩
  · exact ⟨⟨_, rfl⟩, rfl, rfl⟩

theorem submit_eng (s : State) (n : Aud) (ev : Event) (t : TextTrack) : (s.submit n ev).eng n t = s.eng n t := by
  unfold State.submit State.overflow
  split <;> simp [State.eng]

theorem submit_notices (s : State) (n : Aud) (ev : Event) : (s.submit n ev).notices = s.notices := by
  unfold State.submit State.overflow
  split <;> rfl

/-- A signal meets the engine of a track: a change `g` of the engine, and a CLEAR. -/
structure ClearStep (n : Aud) (t : TextTrack) (g : TrackEngine → TrackEngine) (s s' : State) : Prop where
  step : EngineStep n t s s'
  eng : ∃ o, s'.eng n t = { g (s.eng n t) with out := o }
  notices : s'.notices = s.notices
  pend : (s.aud n).air.pend.length < 32 → (s'.aud n).air.pend = (s.aud n).air.pend ++ [.clear t]

theorem ClearStep.of_submit {n : Aud} {t : TextTrack} {g : TrackEngine → TrackEngine} {s : State}
    (hg : ∀ e o, g { e with out := o } = { g e with out := o })
    (step : EngineStep n t s (((s.dropWaiting n t).modEng n t g).submit n (.clear t))) :
    ClearStep n t g s (((s.dropWaiting n t).modEng n t g).submit n (.clear t)) := by
  obtain ⟨⟨o, heng⟩, hnotices, hair⟩ := dropWaiting_eq s n t
  refine ⟨step, ⟨o, ?_⟩, (submit_notices _ n _).trans hnotices, fun hroom => ?_⟩
  · rw [submit_eng, State.modEng_eng, heng, hg]
  · rw [submit_air_fits _ (by rwa [State.modEng_aud_air, hair]), State.modEng_aud_air, hair]

/-- The engine that waits (R92 b, e). -/
def TrackEngine.waited (e : TrackEngine) : TrackEngine := { e with active := [], seek := none, state := .waiting }

/-- The engine whose show has finished (R92 f). -/
def TrackEngine.finished (e : TrackEngine) : TrackEngine := { e with look := [], active := [], seek := none, state := .ended }

theorem textWait_clears (s : State) (n : Aud) (t : TextTrack) : ClearStep n t TrackEngine.waited s (s.textWait n t) :=
  .of_submit (fun _ _ => rfl) (textWait_engineStep s n t)

theorem textFinish_clears (s : State) (n : Aud) (t : TextTrack) : ClearStep n t TrackEngine.finished s (s.textFinish n t) :=
  .of_submit (fun _ _ => rfl) (textFinish_engineStep s n t)

/-- What a signal leaves that has met the enabled tracks of a list. -/
structure Cleared (n : Aud) (l : List TextTrack) (g : TrackEngine → TrackEngine) (s s' : State) : Prop where
  kept : ∀ t, s.textOn n t = false ∨ t ∉ l → s'.eng n t = s.eng n t
  told : ∀ t ∈ l, s.textOn n t = true → ∃ o, s'.eng n t = { g (s.eng n t) with out := o }
  notices : s'.notices = s.notices
  play : ∀ t, s'.play n t = s.play n t
  pend : (s.aud n).air.pend.length + l.length ≤ 32 →
    (s'.aud n).air.pend = (s.aud n).air.pend ++ (l.filter fun t => s.textOn n t).map .clear

theorem foldl_cleared {n : Aud} {f : State → Aud → TextTrack → State} {g : TrackEngine → TrackEngine}
    (hf : ∀ s t, ClearStep n t g s (f s n t)) (l : List TextTrack) : ∀ s : State, l.Nodup →
    Cleared n l g s (l.foldl (fun s t => if s.textOn n t then f s n t else s) s) := by
  induction l with
  | nil => exact fun s _ => ⟨fun _ _ => rfl, fun _ h => absurd h List.not_mem_nil, rfl, fun _ => rfl, fun _ => (List.append_nil _).symm⟩
  | cons u us ih =>
    intro s hl
    obtain ⟨hu, hus⟩ := List.nodup_cons.mp hl
    rw [List.foldl_cons]
    by_cases hon : s.textOn n u = true
    · rw [if_pos hon]
      have h := hf s u
      have hon' (t : TextTrack) : (f s n u).textOn n t = s.textOn n t := h.step.textOn n t
      have k := ih (f s n u) hus
      obtain ⟨o, ho⟩ := h.eng
      refine ⟨fun t ht => ?_, fun t ht hton => ?_, k.notices.trans h.notices,
        fun t => (k.play t).trans (h.step.play n t), fun hroom => ?_⟩
      · have htu : t ≠ u := by
          rintro rfl
          simp [hon] at ht
        rw [k.kept t (ht.imp (hon' t).trans fun h h' => h (List.mem_cons_of_mem _ h')), h.step.others t htu]
      · rcases List.mem_cons.mp ht with rfl | ht
        · exact ⟨o, (k.kept t (.inr hu)).trans ho⟩
        · obtain ⟨o', ho'⟩ := k.told t ht ((hon' t).trans hton)
          exact ⟨o', by rw [ho', h.step.others t fun e => hu (e ▸ ht)]⟩
      · simp only [List.length_cons] at hroom
        have hp := h.pend (by omega)
        rw [k.pend (by rw [hp, List.length_append, List.length_singleton]; omega), hp, List.filter_cons_of_pos hon]
        simp [hon']
    · rw [if_neg hon]
      have k := ih s hus
      refine ⟨fun t ht => k.kept t (ht.imp_right fun h h' => h (List.mem_cons_of_mem _ h')), fun t ht hton => ?_, k.notices,
        k.play, fun hroom => ?_⟩
      · exact k.told t ((List.mem_cons.mp ht).resolve_left fun e => hon (e ▸ hton)) hton
      · simp only [List.length_cons] at hroom
        rw [k.pend (by omega), List.filter_cons_of_neg hon]

theorem textSignal_cleared {n : Aud} {f : State → Aud → TextTrack → State} {g : TrackEngine → TrackEngine}
    (hf : ∀ s t, ClearStep n t g s (f s n t)) (s : State) : Cleared n allText g s (s.textSignal n f) := foldl_cleared hf allText s (by decide)

/-! ### The signal to the playout engines (R86) -/

theorem soundSignal_play (s : State) (n : Aud) (f : Playout → Playout) (k : SoundTrack) : (s.soundSignal n f).play n k = f (s.play n k) := by
  show ((s.modPlay n 0 f).modPlay n 1 f).play n k = _
  match k with
  | 0 => rw [State.modPlay_play_other _ _ _ _ _ (by decide), State.modPlay_play]
  | 1 => rw [State.modPlay_play, State.modPlay_play_other _ _ _ _ _ (by decide)]

theorem soundSignal_rest (s : State) (n : Aud) (f : Playout → Playout) : (s.soundSignal n f).notices = s.notices
    ∧ ((s.soundSignal n f).aud n).text = (s.aud n).text ∧ ((s.soundSignal n f).aud n).air = (s.aud n).air := by
  refine ⟨rfl, ?_, ?_⟩
  · show (((s.modPlay n 0 f).modPlay n 1 f).aud n).text = _
    rw [State.modPlay_aud_text, State.modPlay_aud_text]
  · show (((s.modPlay n 0 f).modPlay n 1 f).aud n).air = _
    rw [State.modPlay_aud_air, State.modPlay_aud_air]

/-! ### A signal to all the tracks -/

/-- The engines, the air and the enables of an auditorium are as they were. -/
structure TrackFrame (n : Aud) (s t : State) : Prop where
  text : (t.aud n).text = (s.aud n).text
  sound : (t.aud n).sound = (s.aud n).sound
  air : (t.aud n).air = (s.aud n).air
  enables : (t.aud n).ctx.text = (s.aud n).ctx.text

namespace TrackFrame

variable {n : Aud} {s s' s'' : State}

theorem refl (n : Aud) (s : State) : TrackFrame n s s := ⟨rfl, rfl, rfl, rfl⟩

theorem trans (h : TrackFrame n s s') (k : TrackFrame n s' s'') : TrackFrame n s s'' :=
  ⟨k.text.trans h.text, k.sound.trans h.sound, k.air.trans h.air, k.enables.trans h.enables⟩

theorem eng (h : TrackFrame n s s') (k : TextTrack) : s'.eng n k = s.eng n k := by simp only [State.eng, h.text]

theorem play (h : TrackFrame n s s') (k : SoundTrack) : s'.play n k = s.play n k := by simp only [State.play, h.sound]

theorem textOn (h : TrackFrame n s s') (k : TextTrack) : s'.textOn n k = s.textOn n k := by simp only [State.textOn, h.enables]

theorem modInput (s : State) (n : Aud) (f : InputUnit → InputUnit) : TrackFrame n s (s.modInput n f) := by constructor <;> simp

theorem modCtx (s : State) (n : Aud) (f : ShowCtx → ShowCtx) (h : (f (s.aud n).ctx).text = (s.aud n).ctx.text) : TrackFrame n s (s.modCtx n f) := by
  constructor <;> simp [h]

theorem raise (s : State) (n : Aud) (src : Source) (k : NoticeKind) (x : List Byte) : TrackFrame n s (s.raise src k x) := ⟨rfl, rfl, rfl, rfl⟩

theorem adopt (s : State) (n : Aud) : TrackFrame n s (s.adopt n) := by constructor <;> simp [State.adopt]

theorem replied (s : State) (n : Aud) (kind tag : Byte) (code : Code) (vals : List Byte) : TrackFrame n s (s.replied kind tag code vals) := by
  constructor <;> simp

end TrackFrame

/-- What a clear signal and a signal to the playout engines leave. -/
structure Signalled (n : Aud) (g : TrackEngine → TrackEngine) (h : Playout → Playout) (s t : State) : Prop where
  kept : s.OthersKept t n
  told : ∀ k, s.textOn n k = true → ∃ o, t.eng n k = { g (s.eng n k) with out := o }
  clears : s.ClearsFrom t n
  play : ∀ k, t.play n k = h (s.play n k)

theorem Signalled.of_frames {n : Aud} {g : TrackEngine → TrackEngine} {h : Playout → Playout} {s v u t : State} (hv : TrackFrame n s v)
    (k : Signalled n g h v u) (ht : TrackFrame n u t) : Signalled n g h s t where
  kept j hj := by rw [ht.eng, k.kept j ((hv.textOn j).trans hj), hv.eng]
  told j hj := by
    rw [ht.eng, ← hv.eng]
    exact k.told j ((hv.textOn j).trans hj)
  clears := by
    have hc := k.clears
    simp only [State.ClearsFrom, hv.air, hv.enables] at hc
    rw [State.ClearsFrom, ht.air]
    exact hc
  play j := by rw [ht.play, k.play, hv.play]

section signal

variable {n : Aud} {f : State → Aud → TextTrack → State} {g : TrackEngine → TrackEngine} (h : Playout → Playout)
  (hf : ∀ s t, ClearStep n t g s (f s n t)) (s : State)
include hf

theorem signal_signalled : Signalled n g h s ((s.textSignal n f).soundSignal n h) := by
  have hc := textSignal_cleared hf s
  obtain ⟨-, htext, hair⟩ := soundSignal_rest (s.textSignal n f) n h
  have heng (k : TextTrack) : ((s.textSignal n f).soundSignal n h).eng n k = (s.textSignal n f).eng n k := by simp only [State.eng, htext]
  refine ⟨fun k hk => (heng k).trans (hc.kept k (.inl hk)), fun k hk => ?_, fun hroom => ?_, fun k => ?_⟩
  · rw [heng]
    exact hc.told k (mem_allText k) hk
  · rw [hair, hc.pend (show _ + 4 ≤ 32 by omega)]
    rfl
  · rw [soundSignal_play, hc.play]

theorem signal_notices : ((s.textSignal n f).soundSignal n h).notices = s.notices :=
  (soundSignal_rest _ n h).1.trans (textSignal_cleared hf s).notices

end signal

/-! ### Finish (R82, R92 f, R123 b) -/

/-- A finish before its signal: the context and SHOW_FINISHED. -/
def State.finishing (s : State) (n : Aud) : State :=
  (s.modCtx n ShowCtx.finished).raise (.aud n) .showFinished (u32 (s.aud n).ctx.duration)

theorem finish_eq (s : State) (n : Aud) :
    s.finish n = ((s.finishing n).textSignal n State.textFinish).soundSignal n Playout.onFinish := by
  unfold State.finish State.finishing
  dsimp only
  rw [State.modCtx_same]
  rfl

theorem finish_ctx (s : State) (n : Aud) : ((s.finish n).aud n).ctx = (s.aud n).ctx.finished := by rw [(finish_frame s n).ctx, State.modCtx_same]

theorem finish_input (s : State) (n : Aud) : ((s.finish n).aud n).input = (s.aud n).input := by rw [(finish_frame s n).input, State.modCtx_same]

theorem finish_notices (s : State) (n : Aud) :
    (s.finish n).notices = addNotice (.aud n) .showFinished (u32 (s.aud n).ctx.duration) s.notices := by
  rw [finish_eq, signal_notices _ fun s t => textFinish_clears s n t, State.finishing, State.raise_notices]
  rfl

theorem finish_signalled (s : State) (n : Aud) : Signalled n TrackEngine.finished Playout.onFinish s (s.finish n) := by
  rw [finish_eq]
  refine .of_frames ?_ (signal_signalled _ (fun s t => textFinish_clears s n t) _) (.refl n _)
  exact (TrackFrame.modCtx s n ShowCtx.finished rfl).trans (.raise _ n _ _ _)

/-- A show that finishes, seen from a state before with the same tracks, and after a step that leaves the tracks and the timeline. -/
theorem finishesTo_of_finish {n : Aud} {s v t : State} (hv : TrackFrame n s v) (hd : (v.aud n).ctx.duration = (s.aud n).ctx.duration)
    (hr : (v.aud n).ctx.rate = (s.aud n).ctx.rate) (ht : TrackFrame n (v.finish n) t)
    (hctx : ∃ a b, (t.aud n).ctx = { (v.aud n).ctx.finished with coastLimit := a, slewWindow := b })
    (hnotices : t.notices = (v.finish n).notices) : s.FinishesTo t n := by
  obtain ⟨a, b, hctx⟩ := hctx
  obtain ⟨kept, told, clears, play⟩ := (finish_signalled v n).of_frames hv ht
  refine ⟨by rw [hctx]; rfl, by rw [hctx, ← hd]; rfl, by rw [hctx]; rfl, by rw [hctx]; rfl, fun r hrate => ?_, ?_, fun k hk => ?_, kept, clears,
    play⟩
  · rw [hctx]
    exact ShowCtx.ticks_of_rate (hr.trans hrate)
  · rw [hnotices, finish_notices, hd]
    exact addNotice_pending _ _ _ _
  · obtain ⟨o, ho⟩ := told k hk
    rw [ho]
    exact ⟨rfl, rfl, rfl, rfl⟩

/-! ### Hold (R75, R92 e, R123 a) -/

/-- The context of a show that holds at `p` (R75). -/
def ShowCtx.heldAt (x : ShowCtx) (p : Nat) : ShowCtx := { x with c := p, st := .held, adv := x.ticks, k := 0, coast := 0, acquire := 0 }

/-- A hold before its signal: the context, the reference and SHOW_HELD. -/
def State.holding (s : State) (n : Aud) : State :=
  ((s.modCtx n fun x => x.heldAt (s.position n)).modInput n InputUnit.clearRef).raise (.aud n) .showHeld
    (u32 (s.position n) ++ u8 (s.aud n).ctx.coastLimit)

/-- At D a deadline at the coast limit finishes the show. -/
theorem hold_at_end {s : State} {n : Aud} (h : s.position n = (s.aud n).ctx.duration) : s.hold n = (s.finish n).modInput n InputUnit.clearRef := by
  rw [State.hold]
  exact if_pos h

theorem hold_eq {s : State} {n : Aud} (h : s.position n ≠ (s.aud n).ctx.duration) :
    s.hold n = ((s.holding n).textSignal n State.textWait).soundSignal n Playout.onHold := by
  rw [State.hold]
  dsimp only
  rw [if_neg h, State.modInput_aud_ctx, State.modCtx_same]
  rfl

theorem holding_frame (s : State) (n : Aud) : TrackFrame n s (s.holding n) :=
  ((TrackFrame.modCtx s n (fun x => x.heldAt (s.position n)) rfl).trans (.modInput _ n _)).trans (.raise _ n _ _ _)

section hold

variable {s : State} {n : Aud} (h : s.position n ≠ (s.aud n).ctx.duration)
include h

theorem hold_showFrame : ShowFrame (s.holding n) (s.hold n) := by
  rw [hold_eq h]
  exact (ShowFrame.textSignal _ n _ fun s t => .textWait s n t).trans (.soundSignal _ n _)

theorem hold_ctx : ((s.hold n).aud n).ctx = (s.aud n).ctx.heldAt (s.position n) := by
  rw [(hold_showFrame h).ctx, State.holding, raise_aud, State.modInput_aud_ctx, State.modCtx_same]

theorem hold_input : ((s.hold n).aud n).input = (s.aud n).input.clearRef := by
  rw [(hold_showFrame h).input, State.holding, raise_aud, State.modInput_same, State.modCtx_same]

theorem hold_notices : (s.hold n).notices
    = addNotice (.aud n) .showHeld (u32 (s.position n) ++ u8 (s.aud n).ctx.coastLimit) s.notices := by
  rw [hold_eq h, signal_notices _ fun s t => textWait_clears s n t, State.holding, State.raise_notices]
  rfl

theorem hold_signalled : Signalled n TrackEngine.waited Playout.onHold s (s.hold n) := by
  rw [hold_eq h]
  exact .of_frames (holding_frame s n) (signal_signalled _ (fun s t => textWait_clears s n t) _) (.refl n _)

end hold

theorem Signalled.holdsTo {n : Aud} {s t : State} (h : Signalled n TrackEngine.waited Playout.onHold s t) : s.HoldsTo t n := by
  refine ⟨⟨fun k hk => ?_, h.kept, h.clears⟩, h.play⟩
  obtain ⟨o, ho⟩ := h.told k hk
  rw [ho]
  exact ⟨rfl, rfl, rfl, rfl, rfl, rfl⟩

end Sys2Proof.Machine

/-! ## The missing-pulse deadline (O31) -/

namespace Sys2Proof.Machine

/-! ### Frames (R68, R69) -/

theorem newFrame_eq (x : ShowCtx) : x.newFrame = { x with adv := x.newFrame.adv, k := x.newFrame.k } := by
  unfold ShowCtx.newFrame
  split
  · rfl
  · split <;> rfl

/-- A new frame takes its advance and the remainder that is left from K and the rate class (R68). -/
theorem newFrameTo_of_newFrame {x z y : ShowCtx} {r : RateClass} (hrate : z.rate = some r) (hk : z.k = x.k) (hadv : y.adv = z.newFrame.adv)
    (hk' : y.k = z.newFrame.k) : x.NewFrameTo y r := by
  have ht := ShowCtx.ticks_of_rate hrate
  have hs : z.slewStep = r.ticks / 8 := (ShowCtx.slewStep_of_rate hrate).trans (by cases r <;> rfl)
  rw [ShowCtx.NewFrameTo, hadv, hk', ← hk, ← hs, ← ht]
  unfold ShowCtx.newFrame
  refine ⟨fun h => ?_, fun h => ?_, fun h => ?_⟩
  · rw [if_pos h]
    exact ⟨rfl, h⟩
  · rw [if_neg (by omega), if_pos h]
    exact ⟨_, rfl, rfl, rfl⟩
  · rw [if_neg (by omega), if_neg (by omega)]
    exact ⟨_, rfl, rfl, rfl⟩

/-- The advance of a new frame is determined. -/
theorem newFrameTo_adv {x y z : ShowCtx} {r : RateClass} (hy : x.NewFrameTo y r) (hz : x.NewFrameTo z r) : y.adv = z.adv := by
  obtain ⟨hy0, hy1, hy2⟩ := hy
  obtain ⟨hz0, hz1, hz2⟩ := hz
  rcases lt_trichotomy x.k 0 with h | h | h
  · obtain ⟨d, rfl, hy, -⟩ := hy2 h
    obtain ⟨d, rfl, hz, -⟩ := hz2 h
    exact hy.trans hz.symm
  · exact (hy0 h).1.trans (hz0 h).1.symm
  · obtain ⟨d, rfl, hy, -⟩ := hy1 h
    obtain ⟨d, rfl, hz, -⟩ := hz1 h
    exact hy.trans hz.symm

/-- The position of a show that runs (R69). -/
theorem position_running {x : ShowCtx} (h : x.st = .locked ∨ x.st = .coasting) (e pm : Nat) :
    x.position e pm = min (x.c + min (x.adv - 1) (e * x.adv / pm)) x.duration := by
  rcases h with h | h <;> simp only [ShowCtx.position, h]

/-! ### The staged settings (R48, R84) -/

/-- The settings as their adoption leaves them. -/
def ShowCtx.adopted (x : ShowCtx) : ShowCtx := { x with coastLimit := x.coastLimitStaged, slewWindow := x.slewWindowStaged }

theorem adopt_ctx (s : State) (n : Aud) : ((s.adopt n).aud n).ctx = (s.aud n).ctx.adopted := by
  rw [State.adopt, State.modAud_same]
  rfl

theorem adopt_input (s : State) (n : Aud) : ((s.adopt n).aud n).input = { (s.aud n).input with wCurrent := (s.aud n).input.wStaged } := by
  rw [State.adopt, State.modAud_same]

theorem adopt_notices (s : State) (n : Aud) : (s.adopt n).notices = s.notices := rfl

/-- The staged settings of an auditorium and its period estimate are as they were. -/
structure StagedFrame (n : Aud) (s t : State) : Prop where
  w : (t.aud n).input.wStaged = (s.aud n).input.wStaged
  pm : (t.aud n).input.pm = (s.aud n).input.pm
  coastLimit : (t.aud n).ctx.coastLimitStaged = (s.aud n).ctx.coastLimitStaged
  slewWindow : (t.aud n).ctx.slewWindowStaged = (s.aud n).ctx.slewWindowStaged

/-- What an adoption leaves of the settings that were staged. -/
theorem StagedFrame.adopt {n : Aud} {s t : State} (h : StagedFrame n s t) :
    ((t.adopt n).aud n).input.wCurrent = (s.aud n).input.wStaged
      ∧ ((t.adopt n).aud n).ctx.coastLimit = (s.aud n).ctx.coastLimitStaged
      ∧ ((t.adopt n).aud n).ctx.slewWindow = (s.aud n).ctx.slewWindowStaged ∧ ((t.adopt n).aud n).input.pm = (s.aud n).input.pm := by
  rw [adopt_input, adopt_ctx]
  exact ⟨h.w, h.coastLimit, h.slewWindow, h.pm⟩

/-! ### The answers (R74 to R76) -/

/-- A show that finishes after its tracks were left as they were, and adopts its settings. -/
theorem finishesTo_adopt {n : Aud} {s v : State} (hv : TrackFrame n s v) (hd : (v.aud n).ctx.duration = (s.aud n).ctx.duration)
    (hr : (v.aud n).ctx.rate = (s.aud n).ctx.rate) : s.FinishesTo ((v.finish n).adopt n) n :=
  finishesTo_of_finish hv hd hr (.adopt _ n)
    ⟨(v.aud n).ctx.coastLimitStaged, (v.aud n).ctx.slewWindowStaged, by rw [adopt_ctx, finish_ctx]; rfl⟩ (adopt_notices _ n)

/-- A notice stays where another kind is raised. -/
theorem mem_addNotice_of_kind {src : Source} {k : NoticeKind} {d : List Byte} {ns : List Notice} {x : Notice} (h : x ∈ ns) (hk : x.kind ≠ k) :
    x ∈ addNotice src k d ns := mem_addNotice_of_mem h fun e => hk (noticeRank_inj e).2.symm

/-- The state at a deadline: e stands there (R54). -/
def State.atDeadline (s : State) (n : Aud) : State := s.modInput n fun u => { u with e := u.deadline }

theorem missDeadline_eq {s : State} {n : Aud} (h : (s.aud n).input.ref ≠ .absent) :
    s.missDeadline n = ((s.atDeadline n).answerDeadline n).adopt n := by rw [State.missDeadline, if_neg h]; rfl

theorem atDeadline_ctx (s : State) (n : Aud) : ((s.atDeadline n).aud n).ctx = (s.aud n).ctx := State.modInput_aud_ctx ..

theorem atDeadline_input (s : State) (n : Aud) : ((s.atDeadline n).aud n).input = { (s.aud n).input with e := 3 * (s.aud n).input.pm / 2 } := by
  rw [State.atDeadline, State.modInput_same]
  rfl

theorem atDeadline_position (s : State) (n : Aud) :
    (s.atDeadline n).position n = (s.aud n).ctx.position (3 * (s.aud n).input.pm / 2) (s.aud n).input.pm := by
  rw [State.position, atDeadline_ctx, atDeadline_input]

theorem atDeadline_tracks (s : State) (n : Aud) : TrackFrame n s (s.atDeadline n) := .modInput s n _

/-- In BINDING, STANDBY and FINISHED the reference is cleared. -/
theorem answerDeadline_idle {s : State} {n : Aud}
    (h : (s.aud n).ctx.st = .binding ∨ (s.aud n).ctx.st = .standby ∨ (s.aud n).ctx.st = .finished) :
    s.answerDeadline n = s.modInput n InputUnit.clearRef := by
  rcases h with h | h | h <;> simp only [State.answerDeadline, h]

theorem answerDeadline_acquiring {s : State} {n : Aud} (h : (s.aud n).ctx.st = .acquiring) :
    s.answerDeadline n = (s.modCtx n fun x => { x with c := s.position n, acquire := 0 }).modInput n InputUnit.restart := by
  simp only [State.answerDeadline, h]

theorem answerDeadline_running {s : State} {n : Aud} (h : (s.aud n).ctx.st = .locked ∨ (s.aud n).ctx.st = .coasting) :
    s.answerDeadline n = if (s.aud n).ctx.coast < (s.aud n).ctx.coastLimit then s.syntheticPulse n else s.hold n := by
  rcases h with h | h <;> simp only [State.answerDeadline, h]

/-- The context of a synthetic pulse (R74 a). -/
def ShowCtx.coasted (x : ShowCtx) : ShowCtx := { x.countFrame.newFrame with coast := x.coast + 1, st := .coasting }

/-- A synthetic pulse before its finish test: the context, the reference, and PULSE_LOST where the show was LOCKED (R74). -/
def State.coasting (s : State) (n : Aud) : State :=
  let v := (s.modCtx n ShowCtx.coasted).modInput n fun u => { u with ref := .set, e := u.e - u.pm }
  if (s.aud n).ctx.st = .locked then v.raise (.aud n) .pulseLost (u32 (s.aud n).ctx.coasted.c) else v

theorem syntheticPulse_eq (s : State) (n : Aud) : s.syntheticPulse n = (s.coasting n).finishTest n := by
  unfold State.syntheticPulse State.coasting
  by_cases h : (s.aud n).ctx.st = .locked
  · dsimp only
    rw [decide_eq_true h, if_pos rfl, if_pos h, State.modInput_aud_ctx, State.modCtx_same]
    rfl
  · dsimp only
    rw [decide_eq_false h, if_neg (by decide), if_neg h]
    rfl

theorem coasting_ctx (s : State) (n : Aud) : ((s.coasting n).aud n).ctx = (s.aud n).ctx.coasted := by
  unfold State.coasting
  split <;> simp

theorem coasting_input (s : State) (n : Aud) :
    ((s.coasting n).aud n).input = { (s.aud n).input with ref := .set, e := (s.aud n).input.e - (s.aud n).input.pm } := by
  unfold State.coasting
  split <;> simp

theorem coasted_text (x : ShowCtx) : x.coasted.text = x.text := newFrame_text _

theorem coasting_tracks (s : State) (n : Aud) : TrackFrame n s (s.coasting n) := by
  have h := (TrackFrame.modCtx s n ShowCtx.coasted (coasted_text _)).trans (.modInput _ n fun u => { u with ref := .set, e := u.e - u.pm })
  unfold State.coasting
  split
  · exact h.trans (.raise _ n _ _ _)
  · exact h

theorem coasting_notices (s : State) (n : Aud) : (s.coasting n).notices =
    if (s.aud n).ctx.st = .locked then addNotice (.aud n) .pulseLost (u32 (s.aud n).ctx.coasted.c) s.notices else s.notices := by
  unfold State.coasting
  split
  · exact State.raise_notices ..
  · rfl

theorem coasted_eq (x : ShowCtx) : x.coasted = { x with
    c := min (x.c + x.adv) x.duration, adv := x.countFrame.newFrame.adv, k := x.countFrame.newFrame.k, coast := x.coast + 1, st := .coasting } := by
  unfold ShowCtx.coasted
  rw [newFrame_eq]
  rfl

/-! ### The staged settings through an answer -/

namespace StagedFrame

variable {n : Aud} {s s' s'' : State}

theorem refl (n : Aud) (s : State) : StagedFrame n s s := ⟨rfl, rfl, rfl, rfl⟩

theorem trans (h : StagedFrame n s s') (k : StagedFrame n s' s'') : StagedFrame n s s'' :=
  ⟨k.w.trans h.w, k.pm.trans h.pm, k.coastLimit.trans h.coastLimit, k.slewWindow.trans h.slewWindow⟩

theorem finish (s : State) (n : Aud) : StagedFrame n s (s.finish n) := by constructor <;> simp [finish_ctx, finish_input, ShowCtx.finished]

theorem finishTest (s : State) (n : Aud) : StagedFrame n s (s.finishTest n) := by
  unfold State.finishTest
  split
  · exact finish s n
  · exact refl n s

theorem clearRef (s : State) (n : Aud) : StagedFrame n s (s.modInput n InputUnit.clearRef) := by constructor <;> simp [InputUnit.clearRef]

theorem hold (s : State) (n : Aud) : StagedFrame n s (s.hold n) := by
  by_cases h : s.position n = (s.aud n).ctx.duration
  · rw [hold_at_end h]
    exact (finish s n).trans (clearRef _ n)
  · constructor <;> simp [hold_ctx h, hold_input h, ShowCtx.heldAt, InputUnit.clearRef]

theorem coasting (s : State) (n : Aud) : StagedFrame n s (s.coasting n) := by
  constructor <;> simp [coasting_ctx, coasting_input, coasted_eq]

theorem answerDeadline (s : State) (n : Aud) : StagedFrame n s (s.answerDeadline n) := by
  have hrun (h : (s.aud n).ctx.st = .locked ∨ (s.aud n).ctx.st = .coasting) : StagedFrame n s (s.answerDeadline n) := by
    rw [answerDeadline_running h, syntheticPulse_eq]
    split
    · exact (coasting s n).trans (finishTest _ n)
    · exact hold s n
  cases h : (s.aud n).ctx.st with
  | acquiring =>
    rw [answerDeadline_acquiring h]
    constructor <;> simp [InputUnit.restart] <;> split <;> rfl
  | locked => exact hrun (.inl h)
  | coasting => exact hrun (.inr h)
  | _ => simp only [State.answerDeadline, h]; exact clearRef s n

end StagedFrame

/-! ### What a missed deadline leaves -/

section missed

variable {s : State} {n : Aud} {last : Nat}

theorem restart_of_ref {u : InputUnit} (h : u.ref ≠ .absent) : u.restart = { u with ref := .restarted, e := 0 } := by
  unfold InputUnit.restart
  cases hr : u.ref with
  | absent => exact absurd hr h
  | _ => rfl

theorem missed_idle (h : (s.aud n).ctx.st = .binding ∨ (s.aud n).ctx.st = .standby ∨ (s.aud n).ctx.st = .finished) :
    ∀ t, t = ((s.atDeadline n).answerDeadline n).adopt n →
      (t.aud n).input.ref = .absent ∧ (t.aud n).input.e = 0 ∧ (t.aud n).ctx.st = (s.aud n).ctx.st ∧ t.notices = s.notices := by
  rintro t rfl
  rw [answerDeadline_idle (by rwa [atDeadline_ctx]), adopt_input, adopt_ctx, State.modInput_same, atDeadline_ctx]
  exact ⟨rfl, rfl, rfl, rfl⟩

theorem missed_acquiring (href : (s.aud n).input.ref ≠ .absent)
    (hlast : last = (s.aud n).ctx.position (3 * (s.aud n).input.pm / 2) (s.aud n).input.pm) (h : (s.aud n).ctx.st = .acquiring) :
    ∀ t, t = ((s.atDeadline n).answerDeadline n).adopt n →
      (t.aud n).input.ref = .restarted ∧ (t.aud n).input.e = 0 ∧ (t.aud n).ctx.c = last ∧ (t.aud n).ctx.acquire = 0
        ∧ (t.aud n).ctx.adv = (s.aud n).ctx.adv ∧ (t.aud n).ctx.st = .acquiring ∧ t.notices = s.notices := by
  rintro t rfl
  rw [answerDeadline_acquiring (by rwa [atDeadline_ctx]), adopt_input, adopt_ctx, State.modInput_same, State.modCtx_same, atDeadline_ctx,
    atDeadline_position, ← hlast, restart_of_ref (by rw [atDeadline_input]; exact href)]
  exact ⟨rfl, rfl, rfl, rfl, rfl, h, rfl⟩

theorem missed_coasts (h : (s.aud n).ctx.st = .locked ∨ (s.aud n).ctx.st = .coasting) (hcoast : (s.aud n).ctx.coast < (s.aud n).ctx.coastLimit)
    {r : RateClass} {e c p : Nat} {y : ShowCtx} (hrate : (s.aud n).ctx.rate = some r)
    (he : e = 3 * (s.aud n).input.pm / 2 - (s.aud n).input.pm) (hc : c = min ((s.aud n).ctx.c + (s.aud n).ctx.adv) (s.aud n).ctx.duration)
    (hy : (s.aud n).ctx.NewFrameTo y r) (hp : p = min (c + min (y.adv - 1) (e * y.adv / (s.aud n).input.pm)) (s.aud n).ctx.duration) :
    ∀ t, t = ((s.atDeadline n).answerDeadline n).adopt n →
      (t.aud n).input.ref = .set ∧ (t.aud n).input.e = e
      ∧ (p = (s.aud n).ctx.duration → s.FinishesTo t n)
      ∧ (p ≠ (s.aud n).ctx.duration → (t.aud n).ctx.st = .coasting ∧ (t.aud n).ctx.coast = (s.aud n).ctx.coast + 1
          ∧ (t.aud n).ctx.c = c ∧ (s.aud n).ctx.NewFrameTo (t.aud n).ctx r
          ∧ (t.aud n).text = (s.aud n).text ∧ (t.aud n).sound = (s.aud n).sound ∧ (t.aud n).air = (s.aud n).air
          ∧ ((s.aud n).ctx.st = .coasting → t.notices = s.notices))
      ∧ ((s.aud n).ctx.st = .locked → ∃ x ∈ t.notices, x.source = .aud n ∧ x.kind = .pulseLost ∧ x.detail = u32 c) := by
  -- the synthetic pulse, before its finish test
  generalize hw : (s.atDeadline n).coasting n = w
  have hctx : (w.aud n).ctx = (s.aud n).ctx.coasted := by rw [← hw, coasting_ctx, atDeadline_ctx]
  have hinput : (w.aud n).input = { (s.aud n).input with ref := .set, e := e } := by rw [← hw, coasting_input, atDeadline_input, he]
  have htracks : TrackFrame n s w := hw ▸ (atDeadline_tracks s n).trans (coasting_tracks _ n)
  have hnotices : w.notices = if (s.aud n).ctx.st = .locked then addNotice (.aud n) .pulseLost (u32 c) s.notices else s.notices := by
    rw [← hw, coasting_notices, atDeadline_ctx, coasted_eq, hc]
    rfl
  have hframe : (s.aud n).ctx.NewFrameTo (s.aud n).ctx.coasted r :=
    newFrameTo_of_newFrame (z := (s.aud n).ctx.countFrame) hrate rfl rfl rfl
  have hpos : w.position n = p := by
    rw [State.position, hctx, hinput, position_running (.inr rfl), newFrameTo_adv hframe hy, hp, hc, coasted_eq]
  have hdur : (w.aud n).ctx.duration = (s.aud n).ctx.duration := by rw [hctx, coasted_eq]
  have hans : (s.atDeadline n).answerDeadline n = w.finishTest n := by
    rw [answerDeadline_running (by rwa [atDeadline_ctx]), atDeadline_ctx, if_pos hcoast, syntheticPulse_eq, hw]
  have hrun : (w.aud n).ctx.st.running = true := by rw [hctx]; rfl
  rintro t rfl
  rw [hans, State.finishTest]
  by_cases hend : p = (s.aud n).ctx.duration
  · rw [if_pos ⟨hrun, by rw [hpos, hdur, hend]⟩, adopt_input, finish_input, hinput]
    refine ⟨rfl, rfl, fun _ => finishesTo_adopt htracks hdur (by rw [hctx, coasted_eq]), fun h => absurd hend h, fun hl => ?_⟩
    rw [if_pos hl] at hnotices
    obtain ⟨x, hx, hsrc, hkind, hdetail⟩ := addNotice_pending (.aud n) .pulseLost (u32 c) s.notices
    refine ⟨x, ?_, hsrc, hkind, hdetail⟩
    rw [adopt_notices, finish_notices, hnotices]
    exact mem_addNotice_of_kind hx (by rw [hkind]; decide)
  · rw [if_neg (by rw [hpos, hdur]; exact fun h => hend h.2), adopt_input, adopt_ctx, adopt_notices, hinput, hctx, hnotices]
    refine ⟨rfl, rfl, fun h => absurd h hend, fun _ => ⟨rfl, rfl, ?_, ?_, ?_, ?_, ?_, fun hst => ?_⟩, fun hl => ?_⟩
    · rw [ShowCtx.adopted, coasted_eq, hc]
    · exact hframe
    · exact ((TrackFrame.adopt w n).text).trans htracks.text
    · exact ((TrackFrame.adopt w n).sound).trans htracks.sound
    · exact ((TrackFrame.adopt w n).air).trans htracks.air
    · rw [if_neg (by rw [hst]; decide)]
    · rw [if_pos hl]
      exact addNotice_pending _ _ _ _

theorem missed_holds (hlast : last = (s.aud n).ctx.position (3 * (s.aud n).input.pm / 2) (s.aud n).input.pm)
    (h : (s.aud n).ctx.st = .locked ∨ (s.aud n).ctx.st = .coasting) (hcoast : (s.aud n).ctx.coastLimit ≤ (s.aud n).ctx.coast) :
    ∀ t, t = ((s.atDeadline n).answerDeadline n).adopt n →
      (t.aud n).input.ref = .absent ∧ (t.aud n).input.e = 0 ∧ (t.aud n).ctx.c = last ∧ (t.aud n).ctx.k = 0
      ∧ (last = (s.aud n).ctx.duration → s.FinishesTo t n)
      ∧ (last ≠ (s.aud n).ctx.duration → (t.aud n).ctx.st = .held ∧ (t.aud n).ctx.coast = 0 ∧ (t.aud n).ctx.acquire = 0
          ∧ (∀ r, (s.aud n).ctx.rate = some r → (t.aud n).ctx.adv = r.ticks)
          ∧ (∃ x ∈ t.notices, x.source = .aud n ∧ x.kind = .showHeld
              ∧ x.detail = u32 last ++ u8 (s.aud n).ctx.coastLimit)
          ∧ s.HoldsTo t n) := by
  generalize hv : s.atDeadline n = v
  have hctx : (v.aud n).ctx = (s.aud n).ctx := hv ▸ atDeadline_ctx s n
  have hpos : v.position n = last := by rw [← hv, atDeadline_position, hlast]
  have htracks : TrackFrame n s v := hv ▸ atDeadline_tracks s n
  rintro t rfl
  rw [answerDeadline_running (by rwa [hctx]), hctx, if_neg (by omega)]
  by_cases hend : last = (s.aud n).ctx.duration
  · rw [hold_at_end (by rw [hpos, hctx, hend]), adopt_input, adopt_ctx, State.modInput_same, finish_ctx]
    refine ⟨rfl, rfl, by rw [hend, ← hctx]; rfl, rfl, fun _ => ?_, fun h => absurd hend h⟩
    refine finishesTo_of_finish htracks (by rw [hctx]) (by rw [hctx]) ((TrackFrame.modInput _ n _).trans (.adopt _ n)) ?_
      (by rw [adopt_notices, State.modInput_notices])
    exact ⟨(v.aud n).ctx.coastLimitStaged, (v.aud n).ctx.slewWindowStaged, by
      rw [adopt_ctx, State.modInput_aud_ctx, finish_ctx]; rfl⟩
  · have hne : v.position n ≠ (v.aud n).ctx.duration := by rwa [hpos, hctx]
    rw [adopt_input, adopt_ctx, adopt_notices, hold_input hne, hold_ctx hne, hold_notices hne, hpos, hctx]
    refine ⟨rfl, rfl, rfl, rfl, fun h => absurd h hend, fun _ => ⟨rfl, rfl, rfl, fun r hr => ShowCtx.ticks_of_rate hr, ?_, ?_⟩⟩
    · exact addNotice_pending _ _ _ _
    · exact ((hold_signalled hne).of_frames htracks (.adopt _ n)).holdsTo

end missed

/-- Settles O31: by the state of the show, and by the place of the coast count and of the position at the deadline. -/
theorem missedDeadlineIsAnswered : Obligations.MissedDeadlineIsAnswered := by
  unfold Obligations.MissedDeadlineIsAnswered
  intro n s
  refine ⟨fun h => ?_, fun href last hlast => ⟨_, congrArg Host.Outcome.next (missDeadline_eq href), ?_⟩⟩
  · show Host.Outcome.next (s.missDeadline n) = _
    rw [State.missDeadline, if_pos h]
  · have hat : StagedFrame n s (s.atDeadline n) := by constructor <;> simp [atDeadline_ctx, atDeadline_input]
    obtain ⟨hw, hl, hs, hpm⟩ := (hat.trans (.answerDeadline _ n)).adopt
    refine ⟨hw, hl, hs, hpm, fun h => missed_idle h _ rfl, fun h => missed_acquiring href hlast h _ rfl,
      fun h => ⟨fun hcoast => ?_, fun hcoast => ?_⟩⟩
    · exact fun r e c y p hrate he hc hy hp => missed_coasts h hcoast hrate he hc hy hp _ rfl
    · exact missed_holds hlast h hcoast _ rfl

end Sys2Proof.Machine

/-! ## Pulses of a bound show (O29) -/

namespace Sys2Proof.Machine

/-! ### A lock raises no other notice (R71, R92 c) -/

theorem request_notices (s : State) (r : Request) : (s.request r).notices = s.notices := by
  obtain ⟨fl, q, au, h⟩ := request_eq s r
  rw [h]

theorem engineRead_notices (s : State) (n : Aud) (t : TextTrack) (k : ReadKind) (l need : Nat) : (s.engineRead n t k l need).notices = s.notices :=
  request_notices _ _

theorem submitRestore_notices (n : Aud) (evs : List Event) : ∀ s : State, (s.submitRestore n evs).notices = s.notices := by
  induction evs with
  | nil => exact fun _ => rfl
  | cons ev evs ih =>
    intro s
    unfold State.submitRestore
    split
    · exact ih _
    · rfl

theorem fetchTest_notices (s : State) (n : Aud) (t : TextTrack) : (s.fetchTest n t).notices = s.notices := by
  unfold State.fetchTest
  dsimp only
  split
  · split
    · exact engineRead_notices ..
    · rfl
  · rfl

theorem seekRead_notices (s : State) (n : Aud) (t : TextTrack) : (s.seekRead n t).notices = s.notices := by
  unfold State.seekRead
  dsimp only
  split
  · exact engineRead_notices ..
  · rfl

theorem completeSeek_notices (s : State) (n : Aud) (t : TextTrack) : (s.completeSeek n t).notices = s.notices := by
  rw [completeSeek_eq, fetchTest_notices]
  unfold State.restoreTrack
  split
  · rfl
  · exact submitRestore_notices n _ _

theorem textSeek_notices (p : Nat) (s : State) (n : Aud) (t : TextTrack) : (State.textSeek p s n t).notices = s.notices := by
  unfold State.textSeek
  rw [startSeek_eq]
  split
  · exact (completeSeek_notices _ n t).trans (dropWaiting_eq (s.modEng n t (TrackEngine.seeking _)) n t).2.1
  · split
    · rfl
    · exact seekRead_notices _ n t

theorem textSignal_notices {n : Aud} {f : State → Aud → TextTrack → State} (hf : ∀ s t, (f s n t).notices = s.notices) (s : State) :
    (s.textSignal n f).notices = s.notices := by
  suffices h : ∀ (l : List TextTrack) (s : State), (l.foldl (fun s t => if s.textOn n t then f s n t else s) s).notices = s.notices from h _ s
  intro l
  induction l with
  | nil => exact fun _ => rfl
  | cons t l ih =>
    intro s
    rw [List.foldl_cons, ih]
    split
    · exact hf s t
    · rfl

/-! ### What the timeline makes of a pulse (R70 to R77) -/

/-- A change of a context is what it makes of that context. -/
theorem modCtx_congr {s : State} {n : Aud} {f g : ShowCtx → ShowCtx} (h : f (s.aud n).ctx = g (s.aud n).ctx) : s.modCtx n f = s.modCtx n g := by
  unfold State.modCtx State.modAud
  dsimp only
  rw [h]

/-- A pulse of a running show is the change of its context and a finish test (R72, R73). -/
theorem runningPulse_eq (s : State) (n : Aud) (m : Bool) (p : Nat) : s.runningPulse n m p = (s.modCtx n fun x =>
    { (if m then x.countFrame else { x with c := p }).newFrame with st := .locked, coast := 0 }).finishTest n := rfl

/-- What a pulse leaves as it is when the timeline takes it: the input unit, the staged settings, and a pending RATE_MISMATCH. -/
structure HandFrame (n : Aud) (s t : State) : Prop where
  input : (t.aud n).input = (s.aud n).input
  coastLimit : (t.aud n).ctx.coastLimitStaged = (s.aud n).ctx.coastLimitStaged
  slewWindow : (t.aud n).ctx.slewWindowStaged = (s.aud n).ctx.slewWindowStaged
  pending : ∀ x ∈ s.notices, x.kind = .rateMismatch → x ∈ t.notices

namespace HandFrame

variable {n : Aud} {s s' s'' : State}

theorem refl (n : Aud) (s : State) : HandFrame n s s := ⟨rfl, rfl, rfl, fun _ h _ => h⟩

theorem trans (h : HandFrame n s s') (k : HandFrame n s' s'') : HandFrame n s s'' :=
  ⟨k.input.trans h.input, k.coastLimit.trans h.coastLimit, k.slewWindow.trans h.slewWindow, fun x hx hk => k.pending x (h.pending x hx hk) hk⟩

theorem modCtx (s : State) (n : Aud) (f : ShowCtx → ShowCtx) (hl : (f (s.aud n).ctx).coastLimitStaged = (s.aud n).ctx.coastLimitStaged)
    (hs : (f (s.aud n).ctx).slewWindowStaged = (s.aud n).ctx.slewWindowStaged) : HandFrame n s (s.modCtx n f) := by
  refine ⟨?_, ?_, ?_, fun _ h _ => h⟩ <;> simp [hl, hs]

theorem finish (s : State) (n : Aud) : HandFrame n s (s.finish n) :=
  ⟨finish_input s n, (StagedFrame.finish s n).coastLimit, (StagedFrame.finish s n).slewWindow, fun x hx hk => by
    rw [finish_notices]
    exact mem_addNotice_of_kind hx (by rw [hk]; decide)⟩

theorem finishTest (s : State) (n : Aud) : HandFrame n s (s.finishTest n) := by
  unfold State.finishTest
  split
  · exact finish s n
  · exact refl n s

theorem raise (s : State) (n : Aud) (src : Source) {k : NoticeKind} (x : List Byte) (hk : k ≠ .rateMismatch) : HandFrame n s (s.raise src k x) :=
  ⟨rfl, rfl, rfl, fun y hy hy' => by
    rw [State.raise_notices]
    exact mem_addNotice_of_kind hy (by rw [hy']; exact hk.symm)⟩

/-- The signal of a lock (R92 c, R122 a). -/
theorem lockSignal (s : State) (n : Aud) (p : Nat) (f : Playout → Playout) :
    HandFrame n s ((s.textSignal n (State.textSeek p)).soundSignal n f) := by
  have h : ShowFrame s ((s.textSignal n (State.textSeek p)).soundSignal n f) :=
    (ShowFrame.textSignal s n _ fun s t => .textSeek _ s n t).trans (.soundSignal _ n _)
  refine ⟨h.input n, by rw [h.ctx], by rw [h.ctx], fun x hx _ => ?_⟩
  rw [(soundSignal_rest _ n _).1, textSignal_notices fun s t => textSeek_notices _ s n t]
  exact hx

theorem gainLock (s : State) (n : Aud) : HandFrame n s (s.gainLock n) := by
  unfold State.gainLock
  dsimp only
  split
  · exact finish s n
  · refine .trans (modCtx s n (fun x => { x with st := .locked, coast := 0, acquire := 0 }) rfl rfl) ?_
    exact (raise _ n _ _ (by decide)).trans (lockSignal _ n _ _)

theorem acquirePulse (s : State) (n : Aud) (m w : Bool) (p : Nat) : HandFrame n s (s.acquirePulse n m w p) := by
  unfold State.acquirePulse
  split
  · exact modCtx s n _ (by rw [newFrame_eq]) (by rw [newFrame_eq])
  · split
    · exact modCtx s n _ (by rw [newFrame_eq]; rfl) (by rw [newFrame_eq]; rfl)
    · have hcount : HandFrame n s (s.modCtx n fun x => { x.countFrame with acquire := x.acquire + 1 }.newFrame) :=
        modCtx s n _ (by rw [newFrame_eq]; rfl) (by rw [newFrame_eq]; rfl)
      dsimp only
      split
      · exact hcount.trans (gainLock _ n)
      · exact hcount

theorem runningPulse (s : State) (n : Aud) (m : Bool) (p : Nat) : HandFrame n s (s.runningPulse n m p) := by
  rw [runningPulse_eq]
  refine .trans (modCtx s n _ ?_ ?_) (finishTest _ n)
  · rw [newFrame_eq]
    cases m <;> rfl
  · rw [newFrame_eq]
    cases m <;> rfl

theorem handPulse (s : State) (n : Aud) (m w : Bool) (p : Nat) : HandFrame n s (s.handPulse n m w p) := by
  unfold State.handPulse
  split
  · exact acquirePulse s n m w p
  · exact runningPulse s n m p
  · exact runningPulse s n m p
  · exact modCtx s n _ rfl rfl
  · exact refl n s

end HandFrame

/-! ### The measurement (R51 to R53) -/

/-- The rate supervision after an interval `m` (R53). -/
def InputUnit.supervised (r : RateClass) (m : Nat) (u : InputUnit) : InputUnit :=
  if inWindow r m then { u with mismatchRun := 0, armed := true }
  else if u.mismatchRun < 8 ∧ satAdd 8 u.mismatchRun 1 = 8 ∧ u.armed then { u with mismatchRun := satAdd 8 u.mismatchRun 1, armed := false }
  else { u with mismatchRun := satAdd 8 u.mismatchRun 1 }

/-- The input unit after a pulse that is measured (R51 to R53). -/
def InputUnit.measured (r : RateClass) (u : InputUnit) : InputUnit :=
  { u with pm := newEstimate r u.pm u.e, lastInterval := u.e }.supervised r u.e

/-- A measured pulse takes the elapsed count for its interval. -/
def State.measured (s : State) (n : Aud) (r : RateClass) : State := s.measure n r (s.aud n).input.e

theorem measured_input (s : State) (n : Aud) (r : RateClass) : ((s.measured n r).aud n).input = (s.aud n).input.measured r := by
  unfold State.measured State.measure InputUnit.measured InputUnit.supervised
  simp only [State.modInput_same]
  split
  · simp
  · split <;> simp

theorem measured_tracks (s : State) (n : Aud) (r : RateClass) : TrackFrame n s (s.measured n r) := by
  unfold State.measured State.measure
  dsimp only
  refine (TrackFrame.modInput s n fun u => { u with pm := newEstimate r u.pm (s.aud n).input.e, lastInterval := (s.aud n).input.e }).trans ?_
  split
  · exact .modInput _ n _
  · split
    · exact (TrackFrame.modInput _ n _).trans (.raise _ n _ _ _)
    · exact .modInput _ n _

section measured

variable {u : InputUnit} {r : RateClass}

/-- What a measurement leaves as it is. -/
theorem measured_eq (r : RateClass) (u : InputUnit) : u.measured r =
    { u with pm := newEstimate r u.pm u.e, lastInterval := u.e, mismatchRun := (u.measured r).mismatchRun, armed := (u.measured r).armed } := by
  unfold InputUnit.measured InputUnit.supervised
  split
  · rfl
  · split <;> rfl

theorem measured_in (h : r.lo ≤ u.e ∧ u.e ≤ r.hi) : (u.measured r).mismatchRun = 0 ∧ (u.measured r).armed = true := by
  unfold InputUnit.measured InputUnit.supervised
  rw [inWindow, if_pos (decide_eq_true h)]
  exact ⟨rfl, rfl⟩

theorem measured_out (h : u.e < r.lo ∨ r.hi < u.e) : (u.measured r).mismatchRun = min 8 (u.mismatchRun + 1)
    ∧ (u.measured r).armed = if u.mismatchRun = 7 then false else u.armed := by
  have hout : ¬ (inWindow r u.e = true) := by simp only [inWindow, decide_eq_true_eq]; omega
  unfold InputUnit.measured InputUnit.supervised satAdd
  rw [if_neg hout]
  dsimp only
  split
  · rename_i hc
    obtain ⟨h8, hmin, -⟩ := hc
    rw [if_pos (by omega)]
    exact ⟨rfl, rfl⟩
  · rename_i hc
    refine ⟨rfl, ?_⟩
    split
    · exact Bool.eq_false_iff.mpr fun ha => hc ⟨by omega, by omega, ha⟩
    · rfl

end measured

/-- The eighth interval out of the window in a row raises RATE_MISMATCH (R53). -/
theorem measured_mismatch {s : State} {n : Aud} {r : RateClass} (hout : (s.aud n).input.e < r.lo ∨ r.hi < (s.aud n).input.e)
    (hrun : (s.aud n).input.mismatchRun = 7) (harmed : (s.aud n).input.armed = true) :
    (s.measured n r).notices = addNotice (.aud n) .rateMismatch
      (u32 (s.aud n).input.e ++ u16 (newEstimate r (s.aud n).input.pm (s.aud n).input.e) ++ u8 r.code) s.notices := by
  have hout : ¬ (inWindow r (s.aud n).input.e = true) := by simp only [inWindow, decide_eq_true_eq]; omega
  unfold State.measured State.measure
  simp only [State.modInput_same]
  rw [if_neg hout, if_pos ⟨by omega, by rw [hrun]; rfl, harmed⟩]
  exact State.raise_notices ..

/-! ### An accepted pulse (R50, R51) -/

/-- An accepted pulse as the input unit measures it: where the reference is SET (R51). -/
def State.gauged (s : State) (n : Aud) : State :=
  if (s.aud n).input.ref = .set then
    match (s.aud n).ctx.rate with
    | some r => s.measured n r
    | none => s
  else s

/-- The reference of an accepted pulse is SET at its date. -/
def State.referred (s : State) (n : Aud) : State := (s.gauged n).modInput n fun u => { u with ref := .set, e := 0 }

theorem acceptPulse_eq (s : State) (n : Aud) : ∃ w, s.acceptPulse n
    = ((s.referred n).handPulse n (decide ((s.aud n).input.ref = .set)) w (s.position n)).adopt n := by
  unfold State.acceptPulse State.referred State.gauged
  by_cases h : (s.aud n).input.ref = .set
  · cases hr : (s.aud n).ctx.rate with
    | some r => exact ⟨_, by simp only [h, decide_true, if_true]; rfl⟩
    | none => exact ⟨_, by simp only [h, decide_true, if_true]; rfl⟩
  · exact ⟨_, by simp only [h, decide_false, if_false]; rfl⟩

theorem gauged_tracks (s : State) (n : Aud) : TrackFrame n s (s.gauged n) := by
  unfold State.gauged
  split
  · split
    · exact measured_tracks s n _
    · exact .refl n s
  · exact .refl n s

theorem gauged_ctx (s : State) (n : Aud) : ((s.gauged n).aud n).ctx = (s.aud n).ctx := by
  unfold State.gauged
  split
  · split
    · exact measure_ctx s n _ _
    · rfl
  · rfl

theorem gauged_set {s : State} {n : Aud} {r : RateClass} (h : (s.aud n).input.ref = .set) (hr : (s.aud n).ctx.rate = some r) :
    s.gauged n = s.measured n r := by
  rw [State.gauged, if_pos h, hr]

theorem gauged_unset {s : State} {n : Aud} (h : (s.aud n).input.ref ≠ .set) : s.gauged n = s := if_neg h

/-- What the measurement leaves of the input unit. -/
theorem gauged_input (s : State) (n : Aud) : ((s.gauged n).aud n).input.wStaged = (s.aud n).input.wStaged
    ∧ ((s.gauged n).aud n).input.candidates = (s.aud n).input.candidates := by
  unfold State.gauged
  split
  · split
    · rw [measured_input, measured_eq]
      exact ⟨rfl, rfl⟩
    · exact ⟨rfl, rfl⟩
  · exact ⟨rfl, rfl⟩

theorem referred_ctx (s : State) (n : Aud) : ((s.referred n).aud n).ctx = (s.aud n).ctx := (State.modInput_aud_ctx ..).trans (gauged_ctx s n)

theorem referred_input (s : State) (n : Aud) : ((s.referred n).aud n).input = { ((s.gauged n).aud n).input with ref := .set, e := 0 } := by
  rw [State.referred, State.modInput_same]

theorem referred_tracks (s : State) (n : Aud) : TrackFrame n s (s.referred n) := (gauged_tracks s n).trans (.modInput _ n _)

/-- The state that an accepted pulse leaves. -/
def State.accepted (s : State) (n : Aud) (w : Bool) : State :=
  ((s.referred n).handPulse n (decide ((s.aud n).input.ref = .set)) w (s.position n)).adopt n

section accepted

variable {s : State} {n : Aud} {w : Bool}

theorem accepted_input (s : State) (n : Aud) (w : Bool) : ((s.accepted n w).aud n).input = { ((s.gauged n).aud n).input with
    ref := .set, e := 0, wCurrent := (s.aud n).input.wStaged } := by
  rw [State.accepted, adopt_input, (HandFrame.handPulse _ n _ _ _).input, referred_input]
  dsimp only
  rw [(gauged_input s n).1]

theorem accepted_settings (s : State) (n : Aud) (w : Bool) : ((s.accepted n w).aud n).ctx.coastLimit = (s.aud n).ctx.coastLimitStaged
    ∧ ((s.accepted n w).aud n).ctx.slewWindow = (s.aud n).ctx.slewWindowStaged := by
  have h := HandFrame.handPulse (s.referred n) n (decide ((s.aud n).input.ref = .set)) w (s.position n)
  rw [State.accepted, adopt_ctx]
  exact ⟨h.coastLimit.trans (by rw [referred_ctx]), h.slewWindow.trans (by rw [referred_ctx])⟩

/-- A measured pulse updates the estimate, the last interval and the supervision (R51 to R53). -/
theorem accepted_measured {r : RateClass} {m : Nat} (hr : (s.aud n).ctx.rate = some r) (hset : (s.aud n).input.ref = .set)
    (hm : m = (s.aud n).input.e) : ∀ t, t = s.accepted n w →
    (t.aud n).input.lastInterval = m
      ∧ (t.aud n).input.pm = (7 * (s.aud n).input.pm + max r.lo (min r.hi m) + 4) / 8
      ∧ (r.lo ≤ m → m ≤ r.hi → (t.aud n).input.mismatchRun = 0 ∧ (t.aud n).input.armed = true)
      ∧ (m < r.lo ∨ r.hi < m →
        (t.aud n).input.mismatchRun = min 8 ((s.aud n).input.mismatchRun + 1)
          ∧ ((s.aud n).input.mismatchRun = 7 → (s.aud n).input.armed = true → (t.aud n).input.armed = false
              ∧ ∃ x ∈ t.notices, x.source = .aud n ∧ x.kind = .rateMismatch
                  ∧ x.detail = u32 m ++ u16 (t.aud n).input.pm ++ u8 r.code)
          ∧ ((s.aud n).input.mismatchRun ≠ 7 ∨ (s.aud n).input.armed = false →
              (t.aud n).input.armed = (s.aud n).input.armed)) := by
  rintro t rfl
  subst hm
  have hg : ((s.gauged n).aud n).input = (s.aud n).input.measured r := by rw [gauged_set hset hr, measured_input]
  have hpm : newEstimate r (s.aud n).input.pm (s.aud n).input.e
      = (7 * (s.aud n).input.pm + max r.lo (min r.hi (s.aud n).input.e) + 4) / 8 := by rw [newEstimate, clampInterval_eq]
  rw [accepted_input, hg, measured_eq]
  refine ⟨rfl, hpm, fun hlo hhi => measured_in ⟨hlo, hhi⟩, fun hout => ?_⟩
  obtain ⟨hrun, harmed⟩ := measured_out hout
  refine ⟨hrun, fun h7 ha => ⟨harmed.trans (if_pos h7), ?_⟩, fun h => harmed.trans ?_⟩
  · obtain ⟨x, hx, hsrc, hkind, hdetail⟩ := addNotice_pending (.aud n) .rateMismatch
      (u32 (s.aud n).input.e ++ u16 (newEstimate r (s.aud n).input.pm (s.aud n).input.e) ++ u8 r.code) s.notices
    refine ⟨x, ?_, hsrc, hkind, hdetail⟩
    rw [State.accepted, adopt_notices]
    refine (HandFrame.handPulse _ n _ _ _).pending x ?_ hkind
    rw [State.referred, State.modInput_notices, gauged_set hset hr, measured_mismatch hout h7 ha]
    exact hx
  · split
    · rename_i h7
      rcases h with h | h
      · exact absurd h7 h
      · exact h.symm
    · rfl

/-- In BINDING, STANDBY and FINISHED a pulse moves no position (R56). -/
theorem accepted_idle (h : (s.aud n).ctx.st = .binding ∨ (s.aud n).ctx.st = .standby ∨ (s.aud n).ctx.st = .finished) :
    ((s.accepted n w).aud n).ctx = (s.aud n).ctx.adopted := by
  have hhand (m w p) : (s.referred n).handPulse n m w p = s.referred n := by
    unfold State.handPulse
    rw [referred_ctx]
    rcases h with h | h | h <;> simp only [h]
  rw [State.accepted, adopt_ctx, hhand, referred_ctx]

/-- In HELD a pulse begins acquisition (R77). -/
theorem accepted_held {r : RateClass} (hr : (s.aud n).ctx.rate = some r) (h : (s.aud n).ctx.st = .held) : ∀ t, t = s.accepted n w →
    (t.aud n).ctx.st = .acquiring ∧ (t.aud n).ctx.acquire = 0 ∧ (t.aud n).ctx.adv = r.ticks ∧ (t.aud n).ctx.c = (s.aud n).ctx.c
      ∧ (t.aud n).text = (s.aud n).text ∧ (t.aud n).sound = (s.aud n).sound ∧ (t.aud n).air = (s.aud n).air := by
  have hhand (m w p) : (s.referred n).handPulse n m w p = (s.referred n).heldPulse n := by
    unfold State.handPulse
    rw [referred_ctx, h]
  have htracks : TrackFrame n s (((s.referred n).heldPulse n).adopt n) :=
    ((referred_tracks s n).trans (.modCtx _ n _ rfl)).trans (.adopt _ n)
  rintro t rfl
  rw [State.accepted, hhand]
  refine ⟨?_, ?_, ?_, ?_, htracks.text, htracks.sound, htracks.air⟩ <;> rw [adopt_ctx, State.heldPulse, State.modCtx_same, referred_ctx]
  · rfl
  · rfl
  · exact ShowCtx.ticks_of_rate hr
  · rfl

/-- In LOCKED and COASTING a pulse counts a frame or takes C from P; the show goes on in LOCKED, or finishes at D (R72, R73, R82). -/
theorem accepted_running {r : RateClass} {c : Nat} (hr : (s.aud n).ctx.rate = some r)
    (h : (s.aud n).ctx.st = .locked ∨ (s.aud n).ctx.st = .coasting)
    (hc : c = if (s.aud n).input.ref = .set then min ((s.aud n).ctx.c + (s.aud n).ctx.adv) (s.aud n).ctx.duration else s.position n) :
    ∀ t, t = s.accepted n w →
    (c = (s.aud n).ctx.duration → s.FinishesTo t n)
    ∧ (c ≠ (s.aud n).ctx.duration → (t.aud n).ctx.st = .locked ∧ (t.aud n).ctx.c = c ∧ (t.aud n).ctx.coast = 0
        ∧ (s.aud n).ctx.NewFrameTo (t.aud n).ctx r
        ∧ (t.aud n).text = (s.aud n).text ∧ (t.aud n).sound = (s.aud n).sound ∧ (t.aud n).air = (s.aud n).air) := by
  have hcD : c ≤ (s.aud n).ctx.duration := by
    rw [hc, State.position, position_running h]
    split <;> exact min_le_right _ _
  -- the context before the finish test
  generalize hz : { (s.aud n).ctx with c := c } = z
  generalize hv : ((s.referred n).modCtx n fun _ => { z.newFrame with st := .locked, coast := 0 }) = v
  have hcount : (if decide ((s.aud n).input.ref = .set) then (s.aud n).ctx.countFrame else { (s.aud n).ctx with c := s.position n }) = z := by
    rw [← hz, hc]
    by_cases href : (s.aud n).input.ref = .set
    · rw [decide_eq_true href, if_pos rfl, if_pos href]
      rfl
    · rw [decide_eq_false href, if_neg (by decide), if_neg href]
  have hhand : (s.referred n).handPulse n (decide ((s.aud n).input.ref = .set)) w (s.position n) = v.finishTest n := by
    have hrun : (s.referred n).handPulse n (decide ((s.aud n).input.ref = .set)) w (s.position n)
        = (s.referred n).runningPulse n (decide ((s.aud n).input.ref = .set)) (s.position n) := by
      unfold State.handPulse
      rw [referred_ctx]
      rcases h with h | h <;> simp only [h]
    rw [hrun, runningPulse_eq, ← hv, modCtx_congr (f := fun x => _) (g := fun _ => { z.newFrame with st := .locked, coast := 0 })]
    dsimp only
    rw [referred_ctx, hcount]
  have hctx : (v.aud n).ctx = { z.newFrame with st := .locked, coast := 0 } := by rw [← hv, State.modCtx_same]
  have hdur : (v.aud n).ctx.duration = (s.aud n).ctx.duration := by rw [hctx, newFrame_eq, ← hz]
  have hcv : (v.aud n).ctx.c = c := by rw [hctx, newFrame_eq, ← hz]
  have htracks : TrackFrame n s v := hv ▸ (referred_tracks s n).trans (.modCtx _ n _ (by rw [newFrame_eq, referred_ctx, ← hz]))
  have hframe : (s.aud n).ctx.NewFrameTo { z.newFrame with st := .locked, coast := 0 } r :=
    newFrameTo_of_newFrame (z := z) (by rw [← hz]; exact hr) (by rw [← hz]) rfl rfl
  have he : (v.aud n).input.e = 0 := by rw [← hv, State.modCtx_same, referred_input]
  have hlocked : (v.aud n).ctx.st = .locked := by rw [hctx]
  have hpos : v.position n = c := by
    rw [State.position, position_running (.inl hlocked), he, hcv, hdur, Nat.zero_mul, Nat.zero_div, Nat.min_zero, Nat.add_zero]
    exact min_eq_left hcD
  rintro t rfl
  rw [State.accepted, hhand, State.finishTest]
  by_cases hend : c = (s.aud n).ctx.duration
  · rw [if_pos ⟨by rw [hlocked]; rfl, by rw [hpos, hdur, hend]⟩]
    refine ⟨fun _ => finishesTo_adopt htracks hdur ?_, fun hne => absurd hend hne⟩
    rw [hctx, newFrame_eq, ← hz]
  · rw [if_neg (by rw [hpos, hdur]; exact fun h => hend h.2)]
    have hadopt := htracks.trans (.adopt v n)
    refine ⟨fun h => absurd h hend, fun _ => ⟨?_, ?_, ?_, ?_, hadopt.text, hadopt.sound, hadopt.air⟩⟩
    · rw [adopt_ctx]
      exact hlocked
    · rw [adopt_ctx]
      exact hcv
    · rw [adopt_ctx, hctx]
      rfl
    · rw [adopt_ctx, hctx]
      exact hframe

end accepted

/-! ### Candidates (R47, R50) -/

/-- A state in which a candidate has passed the filter and is counted. -/
structure Counted (n : Aud) (s v : State) : Prop where
  input : ∃ fp q, (v.aud n).input = { (s.aud n).input with
    fp := fp, filter := .high, qualCount := q, candidates := ((s.aud n).input.candidates + 1) % 65536 }
  ctx : (v.aud n).ctx = (s.aud n).ctx
  tracks : TrackFrame n s v
  notices : v.notices = s.notices

theorem Counted.modInput {n : Aud} {s : State} {f : InputUnit → InputUnit} (h : ∃ fp q, f (s.aud n).input = { (s.aud n).input with
    fp := fp, filter := .high, qualCount := q, candidates := ((s.aud n).input.candidates + 1) % 65536 }) : Counted n s (s.modInput n f) := by
  refine ⟨?_, State.modInput_aud_ctx .., .modInput s n f, rfl⟩
  rw [State.modInput_same]
  exact h

/-- A candidate of a bound show is early, or accepted. -/
theorem candidate_bound {s : State} {n : Aud} (f : InputUnit → InputUnit) (hst : (s.aud n).ctx.st ≠ .vacant) :
    ∃ v, v = (s.modInput n fun u => { f u with candidates := wrap16 ((f u).candidates + 1) }) ∧ (s.modInput n f).candidate n
      = if (v.aud n).input.ref = .set ∧ (v.aud n).input.e < (v.aud n).input.holdoff then
          v.raise (.aud n) .earlyPulse (u32 (v.aud n).input.e ++ u16 (v.aud n).input.holdoff)
        else v.acceptPulse n := by
  refine ⟨_, rfl, ?_⟩
  unfold State.candidate
  dsimp only
  rw [modInput_modInput, if_neg (by rwa [State.modInput_aud_ctx])]

/-- The two ways to a candidate: an edge without a filter, or the end of the qualifying count. -/
theorem candidate_of_trigger {n : Aud} {s : State} {i : Instr}
    (hi : (i = .framePulseRisingEdge n ∧ (s.aud n).input.filter = .low ∧ (s.aud n).input.wCurrent = 0)
      ∨ (i = .qualifyingCountReached n ∧ (s.aud n).input.filter = .qualifying)) (hst : (s.aud n).ctx.st ≠ .vacant) :
    ∃ v, Counted n s v ∧ exec i s = .next (if (v.aud n).input.ref = .set ∧ (v.aud n).input.e < (v.aud n).input.holdoff then
        v.raise (.aud n) .earlyPulse (u32 (v.aud n).input.e ++ u16 (v.aud n).input.holdoff)
      else v.acceptPulse n) := by
  rcases hi with ⟨rfl, hlow, hw⟩ | ⟨rfl, hq⟩
  · obtain ⟨v, hv, h⟩ := candidate_bound (fun u => { u with fp := true, filter := .high }) hst
    exact ⟨v, hv ▸ .modInput ⟨_, _, rfl⟩, congrArg Host.Outcome.next ((risingEdge_of_low_zero hlow hw).trans h)⟩
  · obtain ⟨v, hv, h⟩ := candidate_bound (fun u => { u with filter := .high, qualCount := u.qualLength }) hst
    exact ⟨v, hv ▸ .modInput ⟨_, _, rfl⟩, congrArg Host.Outcome.next ((qualify_of_qualifying hq).trans h)⟩

/-- A finish is one of a state before, whose tracks and context were the same. -/
theorem finishesTo_of_counted {n : Aud} {s v t : State} (h : Counted n s v) (k : v.FinishesTo t n) : s.FinishesTo t n := by
  obtain ⟨st, c, kk, coast, adv, notice, told, kept, clears, play⟩ := k
  rw [h.ctx] at c adv notice
  refine ⟨st, c, kk, coast, adv, notice, fun k hk => told k ((h.tracks.textOn k).trans hk), fun k hk => ?_, ?_, fun k => ?_⟩
  · rw [← h.tracks.eng k]
    exact kept k ((h.tracks.textOn k).trans hk)
  · unfold State.ClearsFrom at clears
    rw [h.tracks.air, h.ctx] at clears
    exact clears
  · rw [← h.tracks.play k]
    exact play k

/-- Settles O29: the holdoff, and an accepted pulse by the reference, the interval and the state of the show. -/
theorem candidatesAreJudged : Obligations.CandidatesAreJudged := by
  unfold Obligations.CandidatesAreJudged
  intro n s i hi hst
  obtain ⟨v, hv, hexec⟩ := candidate_of_trigger hi hst
  obtain ⟨fp, q, hinput⟩ := hv.input
  have hctx := hv.ctx
  have hhold : (v.aud n).input.holdoff = (s.aud n).input.pm / 2 := by rw [hinput]; rfl
  have href : (v.aud n).input.ref = (s.aud n).input.ref := by rw [hinput]
  have he : (v.aud n).input.e = (s.aud n).input.e := by rw [hinput]
  have hpos : v.position n = s.position n := by rw [State.position, State.position, hctx, hinput]
  refine ⟨fun hset hearly => ⟨_, hexec, ?_⟩, fun haccept => ?_⟩
  · rw [if_pos ⟨href.trans hset, by rw [he, hhold]; exact hearly⟩, raise_aud, State.raise_notices, hhold, he, hctx, hinput, hv.notices]
    exact ⟨rfl, hset, rfl, rfl, rfl, rfl, rfl, rfl⟩
  · obtain ⟨w, hw⟩ := acceptPulse_eq v n
    have hlate : ¬ ((v.aud n).input.ref = .set ∧ (v.aud n).input.e < (v.aud n).input.holdoff) := by
      rw [href, he, hhold]
      rintro ⟨hset, hearly⟩
      rcases haccept with h | h
      · exact h hset
      · omega
    rw [if_neg hlate, hw] at hexec
    have hacc := accepted_input v n w
    obtain ⟨hl, hs⟩ := accepted_settings (s := v) (n := n) (w := w)
    refine ⟨v.accepted n w, hexec, by rw [hacc], by rw [hacc], by rw [hacc, hinput], by rw [hl, hctx], by rw [hs, hctx], ?_, fun hunset => ?_,
      fun r m hr hset hm => ?_, fun h => ?_, fun r hr h => ?_, fun r c hr h hc => ?_⟩
    · rw [hacc]
      exact (gauged_input v n).2.trans (by rw [hinput])
    · rw [hacc, gauged_unset (by rwa [href]), hinput]
      exact ⟨rfl, rfl, rfl, rfl⟩
    · have h := accepted_measured (w := w) (by rwa [hctx]) (href.trans hset) (hm.trans he.symm) _ rfl
      rw [hinput] at h
      exact h
    · rw [accepted_idle (by rwa [hctx]), hctx]
      rfl
    · have k := accepted_held (w := w) (by rwa [hctx]) (by rwa [hctx]) _ rfl
      rw [hctx, hv.tracks.text, hv.tracks.sound, hv.tracks.air] at k
      exact k
    · have k := accepted_running (s := v) (n := n) (w := w) (c := c) (by rwa [hctx]) (by rwa [hctx]) (by rw [hc, href, hpos, hctx]) _ rfl
      rw [hctx, hv.tracks.text, hv.tracks.sound, hv.tracks.air] at k
      exact ⟨fun h => finishesTo_of_counted hv (k.1 h), k.2⟩

end Sys2Proof.Machine

/-! ## SHOW_STATUS (O39) -/

namespace Sys2Proof.Machine

/-! ### The layout of the values (R62, R87, R111, R125, R148, R158) -/

/-- The values of a show context (R87). -/
theorem ShowCtx.statusBytes_eq (x : ShowCtx) (serial : Option Nat) (p : Nat) {pkg rate : List Byte} (hpkg : pkg = optU8 x.pkg ++ optU16 serial)
    (hrate : rate = optU8 (x.rate.map RateClass.code)) : x.statusBytes serial p
      = u8 x.st.code ++ pkg ++ rate ++ (if x.pkg = none then [0, 0, 0, 0, 0] else [1] ++ u32 x.duration)
        ++ u32 x.c ++ u32 p ++ u8 x.adv ++ s32 x.k ++ u8 x.coast ++ u8 x.acquire ++ u8 x.bindGen
        ++ u8 x.coastLimit ++ u8 x.slewWindow ++ u8 x.coastLimitStaged ++ u8 x.slewWindowStaged
        ++ (x.text.toList ++ x.sound.toList).flatMap (fun t => flag t.enabled ++ u8 t.lead) := by
  have hduration : optU32 (if x.pkg.isSome then some x.duration else none) = if x.pkg = none then [0, 0, 0, 0, 0] else [1] ++ u32 x.duration := by
    cases x.pkg <;> rfl
  rw [statusBytes, hduration, hpkg, hrate, List.flatMap_append]
  simp only [List.append_assoc]
  rfl

/-- The values of a playout engine (R125). -/
theorem Playout.statusBytes_eq (e : Playout) {z stamps : List Byte} (hz : z = optS32 e.z)
    (hstamps : stamps = optU32 (e.queue.head?.map (·.stamp)) ++ optU32 (e.queue.getLast?.map (·.stamp))) : e.statusBytes
      = u8 e.state.code ++ flag e.enabled ++ u8 e.lead ++ z ++ u8 e.queue.length ++ stamps ++ u16 e.served ++ u16 e.gaps ++ u16 e.discarded
        ++ u8 e.skips := by
  rw [statusBytes, hz, hstamps]
  simp only [List.append_assoc]

/-- The values of the air scheduler (R148). -/
theorem AirSched.statusBytes_eq (a : AirSched) {pend ann gate : List Byte}
    (hpend : pend = optU8 (a.pend.head?.map Event.code) ++ optU8 (a.pend.head?.bind Event.track))
    (hann : u8 a.ann.code ++ ann = a.ann.statusBytes) (hgate : gate = u8 (lastGateCode a.lastGate)) : a.statusBytes
      = a.current.bytes ++ a.staged.bytes ++ u16 a.current.rate.budget ++ u8 a.sequence ++ u16 a.built ++ u16 a.lastSize
        ++ u8 a.pend.length ++ pend ++ u8 a.carousel.val ++ u8 a.ann.code ++ ann ++ u8 a.beacon ++ gate ++ u8 a.overflows := by
  rw [statusBytes, hpend, ← hann, hgate]
  simp only [List.append_assoc]

/-- The values of the emitter unit (R158). -/
theorem Emitter.statusBytes_eq (m : Emitter) {fault : List Byte} (hfault : fault = optU8 m.lastFault) : m.statusBytes
      = u8 m.state.code ++ (m.current.bytes ++ m.staged.bytes) ++ flag m.demand ++ flag m.tx.isSome ++ u8 m.retry ++ u16 m.clean
        ++ u32 m.cooling ++ u16 m.sent ++ u16 m.dropped ++ fault ++ flag m.oc := by
  rw [statusBytes, hfault]
  simp only [List.append_assoc]

/-- The values of SHOW_STATUS are those of the auditorium's blocks, one after another. -/
theorem showStatus_eq (s : State) (n : Aud) {ctx input air emit : List Byte} {engine : TrackEngine → List Byte} {play : Playout → List Byte}
    (hctx : ctx = (s.aud n).ctx.statusBytes (((s.aud n).ctx.pkg.bind s.package).map (·.serial)) (s.position n))
    (hinput : input = (s.aud n).input.statusBytes s.shold.taken) (hengine : ∀ e, engine e = e.statusBytes) (hplay : ∀ e, play e = e.statusBytes)
    (hair : air = (s.aud n).air.statusBytes) (hemit : emit = (s.aud n).emit.statusBytes) :
    s.showStatus n = ctx ++ input ++ (s.aud n).text.toList.flatMap engine ++ (s.aud n).sound.toList.flatMap play ++ air ++ emit := by
  rw [hctx, hinput, hair, hemit, funext hengine, funext hplay]
  rfl

/-! ### The command (R87) -/

/-- The values do not depend on what a command's reception changes. -/
theorem taken_showStatus (s : State) (n : Aud) : s.taken.showStatus n = s.showStatus n := rfl

theorem replied_showStatus (s : State) (n : Aud) (kind tag : Byte) (code : Code) (vals : List Byte) :
    (s.replied kind tag code vals).showStatus n = s.showStatus n := by
  obtain ⟨x, h⟩ := replied_eq s kind tag code vals
  rw [h]
  rfl

theorem showStatus_range {a : Byte} (h : 15 < a.toNat) (s : State) : showStatusAction a s = refused s .range := by rw [showStatusAction, audOf_none h]

theorem showStatus_ok {a : Byte} {n : Aud} (h : a.toNat = n.val) (s : State) :
    showStatusAction a s = done (s.finishTest n) .ok ((s.finishTest n).showStatus n) := by
  rw [showStatusAction, audOf_eq h]
  rfl

/-- Settles O39: the command by the finish test, and the values block by block. -/
theorem showStatusReports : Obligations.ShowStatusReports := by
  unfold Obligations.ShowStatusReports
  refine ⟨fun tag a s hs => ?_, ?_⟩
  · have hexec : exec (.showStatus tag [a]) s = .next (State.answer 0x37 tag (showStatusAction a s.taken)) :=
      congrArg Host.Outcome.next (take_runs s 0x37 tag false _ hs)
    refine ⟨fun h => ?_, fun n ha => ?_⟩
    · rw [hexec, showStatus_range h, answer_refused]
    · rw [hexec, showStatus_ok ha, answer_done]
      refine ⟨fun h => ?_, fun hrun hend => ⟨_, rfl, ?_, ?_⟩⟩
      · have hstay : s.taken.finishTest n = s.taken := if_neg h
        rw [hstay, taken_showStatus]
      · have hfinish : s.taken.finishTest n = s.taken.finish n := if_pos ⟨hrun, hend⟩
        rw [hfinish]
        refine finishesTo_of_finish (v := s.taken) ⟨rfl, rfl, rfl, rfl⟩ rfl rfl (.replied _ n _ _ _ _) ?_ (replied_notices ..)
        exact ⟨(s.aud n).ctx.coastLimit, (s.aud n).ctx.slewWindow, by rw [replied_aud, finish_ctx]; rfl⟩
      · rw [replied_replyBuf, replied_showStatus]
        rfl
  · rintro s n x u a m pkg rate ctx input air line emit engine play settings lines rfl rfl rfl rfl hpkg hpkg' hrate hrate' rfl rfl hengine hplay
      hsettings rfl hlines rfl rfl
    refine showStatus_eq s n (ShowCtx.statusBytes_eq _ _ _ ?_ ?_).symm rfl (fun e => ?_) (fun e => ?_) ?_ ?_
    · cases h : (s.aud n).ctx.pkg with
      | none => exact hpkg' h
      | some id =>
        rw [hpkg id h]
        show _ = optU8 (some id) ++ optU16 ((s.package id).map _)
        cases s.package id <;> rfl
    · cases h : (s.aud n).ctx.rate with
      | none => exact hrate' h
      | some r => exact hrate r h
    · rw [hengine, TrackEngine.statusBytes]
      cases e.cursorStart <;> rfl
    · refine (hplay e).trans (Playout.statusBytes_eq e ?_ ?_).symm
      · cases e.z <;> rfl
      · cases e.queue with
        | nil => rfl
        | cons b l =>
          rw [List.getLast?_eq_some_getLast (List.cons_ne_nil b l)]
          rfl
    · rw [hsettings, hsettings]
      refine (AirSched.statusBytes_eq _ ?_ ?_ ?_).symm
      · cases (s.aud n).air.pend with
        | nil => rfl
        | cons ev l => cases ev <;> rfl
      · cases (s.aud n).air.ann <;> rfl
      · cases (s.aud n).air.lastGate <;> rfl
    · rw [hlines, hlines]
      refine (Emitter.statusBytes_eq _ ?_).symm
      cases (s.aud n).emit.lastFault <;> rfl

end Sys2Proof.Machine

/-! ## What a command to an auditorium can change (O57, O59) -/

namespace Sys2Proof.Machine

/-- A step of one auditorium, of the requests and notices, and of bind counts. -/
structure OwnStep (n : Aud) (s t : State) : Prop where
  rest : OnlyAud n s { t with packages := s.packages }
  packages : t.packages.map Package.unbound = s.packages.map Package.unbound

namespace OwnStep

variable {n : Aud} {s s' s'' : State}

theorem of_only (h : OnlyAud n s s') : OwnStep n s s' where
  rest := by
    rw [← h.packages]
    exact h
  packages := by rw [h.packages]

theorem of_bind (h : BindFrame n s s') : OwnStep n s s' := ⟨h.rest, h.packages⟩

theorem refl (n : Aud) (s : State) : OwnStep n s s := of_only (.refl n s)

theorem trans (h : OwnStep n s s') (k : OwnStep n s' s'') : OwnStep n s s'' where
  rest := h.rest.trans { k.rest with packages := rfl }
  packages := k.packages.trans h.packages

theorem auds (h : OwnStep n s s') (m : Aud) (hm : m ≠ n) : s'.aud m = s.aud m := h.rest.auds m hm

/-- A bind count changes. -/
theorem modPackage (n : Aud) (s : State) (id : Nat) (f : Package → Package) (h : ∀ p, (f p).unbound = p.unbound) :
    OwnStep n s (s.modPackage id f) where
  rest := .refl n s
  packages := by
    show (s.packages.map fun p => if p.id = id then f p else p).map Package.unbound = _
    rw [List.map_map]
    refine List.map_congr_left fun p _ => ?_
    rw [Function.comp_apply]
    split
    · exact h p
    · rfl

theorem ite {a b : State} (c : Prop) [Decidable c] (ha : c → OwnStep n s a) (hb : ¬ c → OwnStep n s b) : OwnStep n s (if c then a else b) := by
  split
  · exact ha ‹_›
  · exact hb ‹_›

theorem ite_fst {α : Type} {a b : State × α} (c : Prop) [Decidable c] (ha : c → OwnStep n s a.1) (hb : ¬ c → OwnStep n s b.1) :
    OwnStep n s (if c then a else b).1 := by
  split
  · exact ha ‹_›
  · exact hb ‹_›

end OwnStep

theorem unbind_own (s : State) (n : Aud) : OwnStep n s (s.unbind n) := by
  unfold State.unbind
  dsimp only
  refine .trans (.trans (.trans (.of_only (modCtx_only s n _)) (.ite _ (fun _ => .of_only (withdraw_only n _ _)) fun _ => .of_only ?_))
    (.modPackage n _ _ _ (by intro; rfl))) (.of_only (modInput_only _ n _))
  exact (textSignal_only _ n _ fun s t => textUnbind_only s n t).trans (soundSignal_only _ n _)

theorem showBind_own {a : Byte} {n : Aud} (ha : audOf a = some n) {p : Byte} {xs ys : List (Option TrackSetting)} (s : State) :
    OwnStep n s (showBindAction a p xs ys s).1 := by
  unfold showBindAction
  rw [ha]
  split
  · obtain rfl := Option.some.inj ‹_›
    refine .ite_fst _ (fun _ => .refl _ s) fun _ => ?_
    split
    · exact .refl _ s
    · split
      · refine .ite_fst _ (fun _ => .refl _ s) fun _ => ?_
        refine OwnStep.trans (s' := _) ?_ (.ite _ (fun _ => .of_bind (BindStep.bound _ _).frame) fun _ => .ite _ (fun _ => .refl _ _) fun _ =>
          .of_bind (BindStep.bindRead _ _).frame)
        exact .trans (.modPackage _ s _ _ (by intro; rfl)) (.of_only ((modCtx_only _ _ _).trans (modInput_only _ _ _)))
      · exact .refl _ s
  · exact .refl _ s

end Sys2Proof.Machine

/-! ## The show position does not run back (O57) -/

namespace Sys2Proof.Machine

/-! ### The position of a context (R69) -/

/-- The position lies at or above C, which lies at or below D. -/
theorem ShowCtx.c_le_position {x : ShowCtx} (e pm : Nat) (hst : x.st ≠ .vacant) (hc : x.c ≤ x.duration) : x.c ≤ x.position e pm := by
  unfold ShowCtx.position
  split
  · exact absurd ‹_› hst
  · exact le_min (Nat.le_add_right _ _) hc
  · exact le_min (Nat.le_add_right _ _) hc
  · exact le_min (Nat.le_add_right _ _) hc
  · exact le_rfl

/-- In a show state that counts pulses the position lies at or below the end of the frame. -/
theorem ShowCtx.position_le_countFrame {x : ShowCtx} (e pm : Nat) (hc : x.c ≤ x.duration) : x.position e pm ≤ x.countFrame.c := by
  unfold ShowCtx.position ShowCtx.countFrame
  dsimp only
  split <;> omega

/-- A show in another state stands at C. -/
theorem ShowCtx.position_standing {x : ShowCtx} (e pm : Nat) (ha : x.st ≠ .acquiring) (hl : x.st ≠ .locked) (hc : x.st ≠ .coasting) :
    x.position e pm ≤ x.c := by
  unfold ShowCtx.position
  split
  · exact Nat.zero_le _
  · exact absurd ‹_› ha
  · exact absurd ‹_› hl
  · exact absurd ‹_› hc
  · exact le_rfl

/-- The position rises with the elapsed count, and is at the frame's last tick from a period on. -/
theorem ShowCtx.position_mono (x : ShowCtx) {e e' pm : Nat} (h : e ≤ e' ∨ 0 < pm ∧ pm ≤ e') : x.position e pm ≤ x.position e' pm := by
  have hquot : min (x.adv - 1) (e * x.adv / pm) ≤ min (x.adv - 1) (e' * x.adv / pm) := by
    rcases h with h | ⟨hpm, h⟩
    · have hdiv := Nat.div_le_div_right (c := pm) (Nat.mul_le_mul_right x.adv h)
      omega
    · have hdiv : x.adv ≤ e' * x.adv / pm := (Nat.le_div_iff_mul_le hpm).mpr (by rw [Nat.mul_comm]; exact Nat.mul_le_mul_right _ h)
      omega
  unfold ShowCtx.position
  split <;> omega

theorem RateClass.lo_pos (r : RateClass) : 0 < r.lo := by cases r <;> decide

theorem RateClass.hi_le (r : RateClass) : r.hi ≤ maxElapsed := by cases r <;> decide

/-- The period estimate of a bound show is positive and below the elapsed count's limit (R49, R52). -/
theorem ShowCtx.Within.period {x : ShowCtx} {pm : Nat} (h : x.Within pm) (hst : x.st ≠ .vacant) : 0 < pm ∧ pm ≤ maxElapsed := by
  obtain ⟨r, hr⟩ := Option.isSome_iff_exists.mp (h.bound hst)
  obtain ⟨-, -, hlo, hhi⟩ := h.rate r hr
  exact ⟨r.lo_pos.trans_le hlo, hhi.trans r.hi_le⟩

/-! ### A show that has counted up to a position -/

/-- The show is bound and its C has reached `p`, within D. -/
structure ShowCtx.Reached (x : ShowCtx) (p : Nat) : Prop where
  bound : x.st ≠ .vacant
  reached : p ≤ x.c
  within : x.c ≤ x.duration

namespace ShowCtx.Reached

variable {x y : ShowCtx} {p : Nat}

theorem position (h : x.Reached p) (e pm : Nat) : p ≤ x.position e pm := h.reached.trans (x.c_le_position e pm h.bound h.within)

/-- Of a context only the state, C and D bear on it. -/
theorem congr (h : x.Reached p) (hst : y.st ≠ .vacant) (hc : y.c = x.c) (hd : y.duration = x.duration) : y.Reached p :=
  ⟨hst, hc ▸ h.reached, hc ▸ hd ▸ h.within⟩

theorem finished (h : p ≤ x.duration) : x.finished.Reached p := ⟨(by decide : ShowState.finished ≠ .vacant), h, le_rfl⟩

theorem newFrame (h : x.Reached p) : x.newFrame.Reached p :=
  h.congr (by rw [newFrame_st]; exact h.bound) (by rw [newFrame_eq]) (by rw [newFrame_eq])

end ShowCtx.Reached


/-- What leaves the show contexts leaves what they have reached. -/
theorem ShowFrame.reached {s t : State} {n : Aud} {p : Nat} (h : ShowFrame s t) (hs : (s.aud n).ctx.Reached p) : (t.aud n).ctx.Reached p := by
  rw [h.ctx]
  exact hs

theorem finish_reached {s : State} {n : Aud} {p : Nat} (h : p ≤ (s.aud n).ctx.duration) : ((s.finish n).aud n).ctx.Reached p := by
  rw [finish_ctx]
  exact .finished h

theorem finishTest_reached {s : State} {n : Aud} {p : Nat} (h : (s.aud n).ctx.Reached p) : ((s.finishTest n).aud n).ctx.Reached p := by
  unfold State.finishTest
  split
  · exact finish_reached (h.reached.trans h.within)
  · exact h

theorem adopt_reached {s : State} {n : Aud} {p : Nat} (h : (s.aud n).ctx.Reached p) : ((s.adopt n).aud n).ctx.Reached p := by
  rw [adopt_ctx]
  exact h.congr h.bound rfl rfl

theorem modInput_reached {s : State} {n : Aud} {p : Nat} (f : InputUnit → InputUnit) (h : (s.aud n).ctx.Reached p) :
    ((s.modInput n f).aud n).ctx.Reached p := by
  rw [State.modInput_aud_ctx]
  exact h

theorem modCtx_reached {s : State} {n : Aud} {p : Nat} (f : ShowCtx → ShowCtx) (h : (f (s.aud n).ctx).Reached p) :
    ((s.modCtx n f).aud n).ctx.Reached p := by
  rw [State.modCtx_same]
  exact h

theorem gainLock_reached {s : State} {n : Aud} {p : Nat} (h : (s.aud n).ctx.Reached p) : ((s.gainLock n).aud n).ctx.Reached p := by
  unfold State.gainLock
  dsimp only
  split
  · exact finish_reached (h.reached.trans h.within)
  · refine ((ShowFrame.raise _ _ _ _).trans ((ShowFrame.textSignal _ n _ fun s t => .textSeek _ s n t).trans (.soundSignal _ n _))).reached ?_
    exact modCtx_reached _ (h.congr (by simp) rfl rfl)

/-! ### Pulses and deadlines (R70 to R77) -/

/-- A pulse is handed to the timeline: C reaches a position that neither D nor the frame counted by the pulse falls short of; a show that stands is
there already. -/
theorem handPulse_reached {s : State} {n : Aud} {p : Nat} (m w : Bool) (hst : (s.aud n).ctx.st ≠ .vacant)
    (hc : (s.aud n).ctx.c ≤ (s.aud n).ctx.duration) (hp : p ≤ (s.aud n).ctx.duration) (hcount : p ≤ (s.aud n).ctx.countFrame.c)
    (hstand : (s.aud n).ctx.st ≠ .acquiring → (s.aud n).ctx.st ≠ .locked → (s.aud n).ctx.st ≠ .coasting → p ≤ (s.aud n).ctx.c) :
    ((s.handPulse n m w p).aud n).ctx.Reached p := by
  have hmoved : { (s.aud n).ctx with c := p }.Reached p := ⟨hst, le_rfl, hp⟩
  have hcounted : (s.aud n).ctx.countFrame.Reached p := ⟨hst, hcount, min_le_right _ _⟩
  have hacquire : ((s.acquirePulse n m w p).aud n).ctx.Reached p := by
    unfold State.acquirePulse
    split
    · exact modCtx_reached _ (ShowCtx.Reached.newFrame (hmoved.congr hst rfl rfl))
    · split
      · exact modCtx_reached _ (ShowCtx.Reached.newFrame (hcounted.congr hst rfl rfl))
      · have hcounts : ((s.modCtx n fun x => { x.countFrame with acquire := x.acquire + 1 }.newFrame).aud n).ctx.Reached p :=
          modCtx_reached _ (ShowCtx.Reached.newFrame (hcounted.congr hst rfl rfl))
        dsimp only
        split
        · exact gainLock_reached hcounts
        · exact hcounts
  have hrunning : ((s.runningPulse n m p).aud n).ctx.Reached p := by
    refine finishTest_reached (modCtx_reached _ ?_)
    cases m with
    | true => exact hcounted.newFrame.congr (by simp) rfl rfl
    | false => exact hmoved.newFrame.congr (by simp) rfl rfl
  unfold State.handPulse
  split
  · exact hacquire
  · exact hrunning
  · exact hrunning
  · rename_i hheld
    exact modCtx_reached _ ⟨by simp, hstand (by simp [hheld]) (by simp [hheld]) (by simp [hheld]), hc⟩
  · exact ⟨hst, hstand ‹_› ‹_› ‹_›, hc⟩

/-- An accepted pulse takes C to the position that the reference before it gives (R69 to R73, R77). -/
theorem acceptPulse_reached {s : State} {n : Aud} (hst : (s.aud n).ctx.st ≠ .vacant) (hc : (s.aud n).ctx.c ≤ (s.aud n).ctx.duration) :
    ((s.acceptPulse n).aud n).ctx.Reached (s.position n) := by
  obtain ⟨w, heq⟩ := acceptPulse_eq s n
  rw [heq]
  have hctx := referred_ctx s n
  refine adopt_reached (handPulse_reached _ _ ?_ ?_ ?_ ?_ ?_) <;> rw [hctx]
  · exact hst
  · exact hc
  · exact ShowCtx.position_le _ _ hc
  · exact ShowCtx.position_le_countFrame _ _ hc
  · exact ShowCtx.position_standing _ _

/-- A synthetic pulse counts the frame (R74). -/
theorem syntheticPulse_reached {s : State} {n : Aud} (hst : (s.aud n).ctx.st ≠ .vacant) (hc : (s.aud n).ctx.c ≤ (s.aud n).ctx.duration) :
    ((s.syntheticPulse n).aud n).ctx.Reached (s.position n) := by
  rw [syntheticPulse_eq]
  refine finishTest_reached ?_
  rw [coasting_ctx]
  have hcounted : (s.aud n).ctx.countFrame.Reached (s.position n) := ⟨hst, ShowCtx.position_le_countFrame _ _ hc, min_le_right _ _⟩
  exact hcounted.newFrame.congr (by simp [ShowCtx.coasted]) rfl rfl

/-- A hold stands at the position (R69, R75). -/
theorem hold_reached {s : State} {n : Aud} (hc : (s.aud n).ctx.c ≤ (s.aud n).ctx.duration) :
    ((s.hold n).aud n).ctx.Reached (s.position n) := by
  have hp : s.position n ≤ (s.aud n).ctx.duration := ShowCtx.position_le _ _ hc
  by_cases h : s.position n = (s.aud n).ctx.duration
  · rw [hold_at_end h]
    exact modInput_reached _ (finish_reached hp)
  · rw [hold_ctx h]
    exact ⟨(by decide : ShowState.held ≠ .vacant), le_rfl, hp⟩

/-- The answer to a deadline takes C to the position, or leaves a show that stands where it is (R54, R74 to R76). -/
theorem answerDeadline_reached {s : State} {n : Aud} (hst : (s.aud n).ctx.st ≠ .vacant) (hc : (s.aud n).ctx.c ≤ (s.aud n).ctx.duration) :
    ((s.answerDeadline n).aud n).ctx.Reached (s.position n) := by
  have hrunning : ((if (s.aud n).ctx.coast < (s.aud n).ctx.coastLimit then s.syntheticPulse n else s.hold n).aud n).ctx.Reached (s.position n) := by
    split
    · exact syntheticPulse_reached hst hc
    · exact hold_reached hc
  unfold State.answerDeadline
  dsimp only
  split
  · exact modInput_reached _ (modCtx_reached _ ⟨hst, le_rfl, ShowCtx.position_le _ _ hc⟩)
  · exact hrunning
  · exact hrunning
  · exact modInput_reached _ ⟨hst, ShowCtx.position_standing _ _ ‹_› ‹_› ‹_›, hc⟩

/-! ### Steps that take no position back -/

/-- What the position of an auditorium's show depends on (R69). -/
def Auditorium.place (a : Auditorium) : ShowState × Nat × Nat × Nat × Nat × Nat :=
  (a.ctx.st, a.ctx.c, a.ctx.adv, a.ctx.duration, a.input.e, a.input.pm)

theorem st_of_place {a b : Auditorium} (h : b.place = a.place) : b.ctx.st = a.ctx.st := congrArg Prod.fst h

theorem position_of_place {n : Aud} {s t : State} (h : (t.aud n).place = (s.aud n).place) : t.position n = s.position n := by
  simp only [Auditorium.place, Prod.mk.injEq] at h
  obtain ⟨hst, hc, hadv, hd, he, hpm⟩ := h
  rw [State.position, State.position, ShowCtx.position, ShowCtx.position, hst, hc, hadv, hd, he, hpm]

theorem place_of_only {n : Aud} {s t : State} (only : OnlyAud n s t) (h : (t.aud n).place = (s.aud n).place) (m : Aud) :
    (t.aud m).place = (s.aud m).place := by
  by_cases hm : m = n
  · rw [hm, h]
  · rw [only.auds m hm]

/-- A step that keeps the bounds of each bound show, its binding, and its position or a later one. -/
def Onward (s t : State) : Prop :=
  ∀ n, (s.aud n).ShowOk → (s.aud n).ctx.st ≠ .vacant → (t.aud n).ShowOk ∧ (t.aud n).ctx.st ≠ .vacant ∧ s.position n ≤ t.position n

namespace Onward

variable {n : Aud} {s s' s'' : State}

theorem refl (s : State) : Onward s s := fun _ hok hst => ⟨hok, hst, le_rfl⟩

theorem trans (h : Onward s s') (k : Onward s' s'') : Onward s s'' := fun n hok hst => by
  obtain ⟨hok', hst', hp'⟩ := h n hok hst
  obtain ⟨hok'', hst'', hp''⟩ := k n hok' hst'
  exact ⟨hok'', hst'', hp'.trans hp''⟩

theorem of_frame (h : ShowFrame s s') : Onward s s' := fun n hok hst =>
  ⟨h.shows n hok, by rw [h.ctx]; exact hst, by rw [State.position, State.position, h.ctx, h.input]⟩

/-- A step of one auditorium, judged there. -/
theorem of_only (only : OnlyAud n s s') (shows : ShowStep s s')
    (own : (s.aud n).ctx.Within (s.aud n).input.pm → (s.aud n).ctx.st ≠ .vacant →
      (s'.aud n).ctx.st ≠ .vacant ∧ s.position n ≤ s'.position n) :
    Onward s s' := fun m hok hst => by
  refine ⟨shows m hok, ?_⟩
  by_cases h : m = n
  · subst h
    exact own ((showOk_iff _).mp hok) hst
  · rw [State.position, State.position, only.auds m h]
    exact ⟨hst, le_rfl⟩

/-- A step that takes C to the position. -/
theorem of_reached (only : OnlyAud n s s') (shows : ShowStep s s')
    (own : (s.aud n).ctx.st ≠ .vacant → (s.aud n).ctx.c ≤ (s.aud n).ctx.duration → (s'.aud n).ctx.Reached (s.position n)) : Onward s s' :=
  of_only only shows fun h hst => ⟨(own hst h.c).bound, (own hst h.c).position _ _⟩

/-- A step that leaves what the position depends on. -/
theorem of_place (shows : ShowStep s s') (h : ∀ n, (s'.aud n).place = (s.aud n).place) : Onward s s' := fun n hok hst =>
  ⟨shows n hok, by rw [st_of_place (h n)]; exact hst, (position_of_place (h n)).ge⟩

theorem modInput (s : State) (n : Aud) (f : InputUnit → InputUnit) (h : ∀ u, ((f u).e, (f u).pm) = (u.e, u.pm)) : Onward s (s.modInput n f) :=
  of_place (.modInput_pm s n f fun u => (Prod.mk.inj (h u)).2) <| place_of_only (modInput_only s n f) <| by
    obtain ⟨he, hpm⟩ := Prod.mk.inj (h (s.aud n).input)
    rw [State.modInput_same, Auditorium.place, he, hpm]
    rfl

theorem ite {a b : State} (c : Prop) [Decidable c] (ha : c → Onward s a) (hb : ¬ c → Onward s b) : Onward s (if c then a else b) := by
  split
  · exact ha ‹_›
  · exact hb ‹_›

theorem ite_fst {α : Type} {a b : State × α} (c : Prop) [Decidable c] (ha : c → Onward s a.1) (hb : ¬ c → Onward s b.1) :
    Onward s (if c then a else b).1 := by
  split
  · exact ha ‹_›
  · exact hb ‹_›

theorem foldl {α : Type} (f : State → α → State) (h : ∀ s a, Onward s (f s a)) (l : List α) : ∀ s, Onward s (l.foldl f s) := by
  induction l with
  | nil => exact refl
  | cons a as ih => exact fun s => (h s a).trans (ih _)

theorem when_ (s : State) (c : Bool) (f : State → State) (h : ∀ s, Onward s (f s)) : Onward s (s.when_ c f) :=
  ite _ (fun _ => h s) fun _ => refl s

end Onward

theorem adopt_onward (s : State) (n : Aud) : Onward s (s.adopt n) :=
  .of_place (adopt_shows s n) (place_of_only (adopt_only s n) (by rw [Auditorium.place, adopt_ctx, adopt_input]; rfl))

theorem finishTest_onward (s : State) (n : Aud) : Onward s (s.finishTest n) := by
  unfold State.finishTest
  refine .ite _ (fun h => ?_) fun _ => .refl s
  exact .of_reached (finish_only s n) (finish_shows s n (ShowState.running_ne_vacant h.1)) fun _ hc =>
    finish_reached (ShowCtx.position_le _ _ hc)

theorem acceptPulse_onward (s : State) (n : Aud) (hst : (s.aud n).ctx.st ≠ .vacant) : Onward s (s.acceptPulse n) :=
  .of_reached (acceptPulse_only s n) (acceptPulse_shows s n hst) fun _ hc => acceptPulse_reached hst hc

theorem candidate_onward (s : State) (n : Aud) : Onward s (s.candidate n) := by
  unfold State.candidate
  refine .trans (.modInput s n (fun u => { u with candidates := wrap16 (u.candidates + 1) }) (by intro; rfl)) ?_
  exact .ite _ (fun _ => .refl _) fun hst => .ite _ (fun _ => .of_frame (.raise _ _ _ _)) fun _ => acceptPulse_onward _ n hst

theorem risingEdge_onward (s : State) (n : Aud) : Onward s (s.risingEdge n) := by
  unfold State.risingEdge
  refine .trans (.modInput s n (fun u => { u with fp := true }) (by intro; rfl)) ?_
  refine .ite _ (fun _ => .ite _ (fun _ => ?_) fun _ => .modInput _ n _ (by intro; rfl)) fun _ => .refl _
  exact .trans (.modInput _ n _ (by intro; rfl)) (candidate_onward _ n)

theorem qualify_onward (s : State) (n : Aud) : Onward s (s.qualify n) :=
  .ite _ (fun _ => .trans (.modInput s n _ (by intro; rfl)) (candidate_onward _ n)) fun _ => .refl s

/-- At the deadline the elapsed count is a period or more, and the position the last of the frame. -/
theorem atDeadline_onward (s : State) (n : Aud) : Onward s (s.atDeadline n) := by
  refine .of_only (modInput_only s n _) (.modInput_pm s n _ (by intro; rfl)) fun h hst => ⟨by rw [atDeadline_ctx]; exact hst, ?_⟩
  rw [atDeadline_position]
  exact ShowCtx.position_mono _ (.inr ⟨(h.period hst).1, by omega⟩)

theorem missDeadline_onward (s : State) (n : Aud) : Onward s (s.missDeadline n) := by
  by_cases href : (s.aud n).input.ref = .absent
  · rw [State.missDeadline, if_pos href]
    exact .refl s
  · rw [missDeadline_eq href]
    refine (atDeadline_onward s n).trans (.trans ?_ (adopt_onward _ n))
    exact .of_reached (answerDeadline_only _ n) (answerDeadline_shows _ n) answerDeadline_reached

/-! ### Contacts, the cycle expiry and a measure count -/

theorem modLine_onward (s : State) (l : ContactLine) (f : Debouncer → Debouncer) : Onward s (s.modLine l f) := by
  unfold State.modLine
  split
  · exact .modInput s _ _ (by intro; rfl)
  · exact .modInput s _ _ (by intro; rfl)
  · exact .of_frame (.of_auds rfl)

theorem regate_onward (s : State) (n : Aud) : Onward s (s.regate n) := .modInput s n _ (by intro; rfl)

theorem settle_onward (s : State) (l : ContactLine) : Onward s (s.settle l) := by
  unfold State.settle
  refine (modLine_onward s l .settle).trans ?_
  unfold State.regateLine
  split
  · exact regate_onward _ _
  · exact regate_onward _ _
  · exact .foldl _ regate_onward _ _

theorem expire_onward (s : State) (n : Aud) : Onward s (s.expire n) := by
  have hpre : ShowFrame s (((s.modAir n fun a => { a with timer := cycleCounts }).adoptAir n).ageAnnouncement n) :=
    .trans (.trans (.modAir s n _) (.adoptAir _ n)) (.ageAnnouncement _ n)
  unfold State.expire
  refine (Onward.of_frame hpre).trans ?_
  dsimp only
  split
  · exact (finishTest_onward _ n).trans (.of_frame (((ShowFrame.buildFrame _ n _).trans (.modAir _ n _)).trans (.handOver _ n _ _)))
  · exact .of_frame ((ShowFrame.modAir _ n _).trans (.handOver _ n _ _))

/-- A measure count raises the elapsed count, or leaves it at its limit, which is above the period (R49). -/
theorem count_onward (s : State) : Onward s s.count := fun n hok hst => by
  refine ⟨count_shows s n hok, by rw [count_aud]; exact hst, ?_⟩
  rw [State.position, State.position, count_aud]
  refine ShowCtx.position_mono _ ?_
  obtain ⟨hpos, hmax⟩ := ((showOk_iff _).mp hok).period hst
  simp only [Auditorium.count, InputUnit.count, satAdd]
  split <;> omega

theorem dueOf_onward (s : State) (n : Aud) : Onward s (s.dueOf n) := by
  unfold State.dueOf
  refine .trans ?_ (.when_ _ _ _ fun s => expire_onward s n)
  refine .trans ?_ (.when_ _ _ _ fun s => .of_frame (ShowFrame.endCooling s n))
  refine .trans ?_ (.when_ _ _ _ fun s => missDeadline_onward s n)
  refine .trans ?_ (.when_ _ _ _ fun s => settle_onward s _)
  refine .trans ?_ (.when_ _ _ _ fun s => settle_onward s _)
  refine .trans ?_ (.when_ _ _ _ fun s => qualify_onward s n)
  exact .when_ _ _ _ fun s => .of_frame (ShowFrame.endTransmission s n)

theorem tick_onward (s : State) : Onward s s.tick := by
  unfold State.tick
  refine .trans ?_ (.foldl _ (fun s n => dueOf_onward s n) _ _)
  exact .trans (.trans (count_onward s) (.when_ _ _ _ fun s => .of_frame (ShowFrame.frameError s))) (.when_ _ _ _ fun s => settle_onward s _)

/-! ### Commands and completions, which may vacate a show or bind one (R65 to R67) -/

/-- No show that is bound before the step and after it goes back. -/
def Forward (s t : State) : Prop :=
  ∀ n, (s.aud n).ShowOk → (s.aud n).ctx.st ≠ .vacant → (t.aud n).ctx.st ≠ .vacant → s.position n ≤ t.position n

theorem Onward.forward {s t : State} (h : Onward s t) : Forward s t := fun n hok hst _ => (h n hok hst).2.2

namespace Forward

variable {n : Aud} {s s' t t' : State}

theorem refl (s : State) : Forward s s := (Onward.refl s).forward

theorem of_frame (h : ShowFrame s t) : Forward s t := (Onward.of_frame h).forward

theorem of_frames (hs : ShowFrame s s') (h : Forward s' t') (ht : ShowFrame t' t) : Forward s t := fun n hok hst hst' => by
  have hmid := h n (hs.shows n hok) (by rw [hs.ctx]; exact hst) (by rw [← ht.ctx]; exact hst')
  rw [State.position, State.position, hs.ctx, hs.input] at hmid
  rw [State.position, State.position, ht.ctx, ht.input]
  exact hmid

/-- A step of one auditorium whose show is vacant before it or after it. -/
theorem of_vacant (h : OwnStep n s t) (hv : (s.aud n).ctx.st = .vacant ∨ (t.aud n).ctx.st = .vacant) : Forward s t := fun m _ hst hst' => by
  by_cases hm : m = n
  · subst hm
    exact absurd hv (not_or.mpr ⟨hst, hst'⟩)
  · rw [State.position, State.position, h.auds m hm]

theorem ite_fst {α : Type} {a b : State × α} (c : Prop) [Decidable c] (ha : c → Forward s a.1) (hb : ¬ c → Forward s b.1) :
    Forward s (if c then a else b).1 := by
  split
  · exact ha ‹_›
  · exact hb ‹_›

/-- A state whose shows are all vacant. -/
theorem of_all_vacant (h : ∀ n, (t.aud n).ctx.st = .vacant) : Forward s t := fun n _ _ hst => absurd (h n) hst

end Forward

/-- A change of a context that leaves its place. -/
theorem Onward.modCtx (s : State) (n : Aud) (f : ShowCtx → ShowCtx) (shows : ShowStep s (s.modCtx n f))
    (h : ∀ x, ((f x).st, (f x).c, (f x).adv, (f x).duration) = (x.st, x.c, x.adv, x.duration)) : Onward s (s.modCtx n f) :=
  of_place shows <| place_of_only (modCtx_only s n f) <| by
    have hx := h (s.aud n).ctx
    simp only [Prod.mk.injEq] at hx
    obtain ⟨hst, hc, hadv, hd⟩ := hx
    rw [State.modCtx_same, Auditorium.place, hst, hc, hadv, hd]
    rfl

theorem bindRead_onward (s : State) (n : Aud) : Onward s (s.bindRead n) := by
  unfold State.bindRead
  dsimp only
  split
  · exact .trans (.modCtx s n (fun x => { x with bindAsked := true }) (.modCtx s n _ fun h => { h with }) fun _ => rfl)
      (.of_frame (.request _ _))
  · exact .refl s

/-- A bind that is complete leaves the show at C (R66). -/
theorem bound_onward {s : State} {n : Aud} (hst : (s.aud n).ctx.st = .binding) : Onward s (s.bound n) := by
  unfold State.bound
  dsimp only
  have hbound : (s.aud n).ctx.st ≠ .vacant := by rw [hst]; decide
  refine .trans (.of_reached (modCtx_only s n fun x => { x with st := .standby }) (.modCtx s n _ fun h => h.enter hbound _) fun _ hc => ?_) ?_
  · refine modCtx_reached _ ⟨by simp, ?_, hc⟩
    exact ShowCtx.position_standing _ _ (by simp [hst]) (by simp [hst]) (by simp [hst])
  · exact .of_frame (.trans (.trans (.raise _ _ _ _) (.foldl _ (fun s t => .textBound s n t) _ _)) (.foldl _ (fun s t => .modPlay s n t _) _ _))

theorem bindFail_forward (s : State) (n : Aud) : Forward s (s.bindFail n) := by
  refine .of_vacant (OwnStep.of_bind (bindFail_frame s n)) (.inr ?_)
  unfold State.bindFail
  dsimp only
  rw [raise_aud, State.modInput_aud_ctx]
  change ((s.modCtx n ShowCtx.vacate).aud n).ctx.st = _
  rw [State.modCtx_same]
  rfl

theorem bindReadDone_forward (s : State) (f : Flight) (n : Aud) (errs : Nat) : Forward s (s.bindReadDone f n errs) := by
  unfold State.bindReadDone
  refine .of_frames (ShowFrame.graded s f errs) ?_ (.refl _)
  generalize s.graded f errs = s
  dsimp only
  split
  · rename_i hb
    split
    · split
      · rename_i r rest _
        have hs : Onward s (s.modCtx n fun x => { x with
            index := x.index.set r.track.val (x.index.get r.track ++ indexEntries r.entries (readBytes s.flash f.addr)) r.track.isLt
            bindTodo := rest }) := .modCtx s n _ (.modCtx s n _ fun h => { h with }) fun _ => rfl
        split
        · refine (hs.trans (bound_onward ?_)).forward
          rw [State.modCtx_same]
          exact hb.1
        · exact (hs.trans (bindRead_onward _ n)).forward
      · exact .refl s
    · exact bindFail_forward s n
  · split
    · exact (bindRead_onward s n).forward
    · exact .refl s

theorem unbind_forward (s : State) (n : Aud) : Forward s (s.unbind n) := by
  refine .of_vacant (unbind_own s n) (.inr ?_)
  have hsignal : ShowFrame (s.modCtx n ShowCtx.vacate) (if (s.aud n).ctx.st = .binding then (s.modCtx n ShowCtx.vacate).withdraw (.bind n)
      else ((s.modCtx n ShowCtx.vacate).textSignal n State.textUnbind).soundSignal n Playout.onUnbind) :=
    .ite _ (fun _ => .withdraw _ _) fun _ => (ShowFrame.textSignal _ n _ fun s t => .textUnbind s n t).trans (.soundSignal _ n _)
  unfold State.unbind
  dsimp only
  rw [State.modInput_aud_ctx, State.unbindCount, (hsignal.trans (.modPackage _ _ _)).ctx n, State.modCtx_same]
  rfl

theorem showBind_forward (a p : Byte) (xs ys : List (Option TrackSetting)) (s : State) : Forward s (showBindAction a p xs ys s).1 := by
  cases ha : audOf a with
  | none =>
    simp only [showBindAction, ha]
    exact .refl s
  | some n =>
    by_cases hv : (s.aud n).ctx.st = .vacant
    · exact .of_vacant (showBind_own ha s) (.inl hv)
    · unfold showBindAction
      rw [ha]
      split
      · obtain rfl := Option.some.inj ‹_›
        rw [if_pos hv]
        exact .refl s
      · exact .refl s

theorem showUnbind_forward (a : Byte) (s : State) : Forward s (showUnbindAction a s).1 := by
  unfold showUnbindAction
  split
  · exact .ite_fst _ (fun _ => .refl s) fun _ => unbind_forward s _
  · exact .refl s

theorem setText_onward (s : State) (n : Aud) (t : TextTrack) (set : TrackSetting) : Onward s (s.setText n t set) := by
  unfold State.setText
  dsimp only
  refine .trans (.modCtx s n (fun x => { x with text := x.text.set t.val set t.isLt }) (.modCtx s n _ fun h => { h with }) fun _ => rfl) ?_
  refine .ite _ (fun _ => .of_frame (ShowFrame.textOff _ n t)) fun _ => .ite _ (fun _ => ?_) fun _ => .refl _
  exact (finishTest_onward _ n).trans (.of_frame (ShowFrame.textOnSignal _ _ n t))

theorem setSound_onward (s : State) (n : Aud) (t : SoundTrack) (set : TrackSetting) : Onward s (s.setSound n t set) := by
  unfold State.setSound
  dsimp only
  refine .trans (.trans (.modCtx s n (fun x => { x with sound := x.sound.set t.val set t.isLt }) (.modCtx s n _ fun h => { h with })
    fun _ => rfl) ?_) (.of_frame (ShowFrame.modPlay _ n t _))
  exact .ite_fst _ (fun _ => finishTest_onward _ n) fun _ => .refl _

theorem trackSet_onward (a k t e l : Byte) (s : State) : Onward s (trackSetAction a k t e l s).1 := by
  unfold trackSetAction
  split
  · refine .ite_fst _ (fun _ => ?_) fun _ => .ite_fst _ (fun _ => ?_) fun _ => .refl s
    · split
      · exact .ite_fst _ (fun _ => .refl s) fun _ => .ite_fst _ (fun _ => .refl s) fun _ => setText_onward s _ _ _
      · exact .refl s
    · split
      · exact .ite_fst _ (fun _ => .refl s) fun _ => .ite_fst _ (fun _ => .refl s) fun _ => setSound_onward s _ _ _
      · exact .refl s
  · exact .refl s

theorem gateSet_onward (a : Byte) (es : List Byte) (s : State) : Onward s (gateSetAction a es s).1 := by
  unfold gateSetAction
  split
  · exact .trans (.modInput s _ (fun u => { u with gateTable := _ }) (by intro; rfl)) (regate_onward _ _)
  · exact .refl s

theorem timingSet_onward (a w c sl : Byte) (s : State) : Onward s (timingSetAction a w c sl s).1 := by
  refine .of_place (timingSet_shows a w c sl s) fun m => ?_
  unfold timingSetAction
  split
  · rename_i n _
    dsimp only
    split
    · rfl
    · have hstage (w c sl : Nat) : ((s.modAud n fun a => { a with
          input := { a.input with wStaged := w }, ctx := { a.ctx with coastLimitStaged := c, slewWindowStaged := sl } }).aud m).place
          = (s.aud m).place :=
        place_of_only (modAud_only s n _) (by rw [State.modAud_same]; rfl) m
      refine Eq.trans ?_ (hstage w.toNat c.toNat sl.toNat)
      dsimp only [done]
      split
      · exact place_of_only (adopt_only _ n) (by rw [Auditorium.place, adopt_ctx, adopt_input]; rfl) m
      · rfl
  · rfl

theorem showStatus_onward (a : Byte) (s : State) : Onward s (showStatusAction a s).1 := by
  unfold showStatusAction
  split
  · exact finishTest_onward s _
  · exact .refl s

/-! ### Every command but SHOW_START and POSITION_REPORT -/

theorem take_forward (s : State) (kind tag : Byte) (inStarting : Bool) (action : Option (State → Done))
    (h : ∀ act, action = some act → ∀ s, Forward s (act s).1) : Forward s (s.take kind tag inStarting action) := by
  unfold State.take
  have hframer : ShowFrame s { s with framer := .hunting } := .of_auds rfl
  have hrefused (c : Code) : ShowFrame s (State.answer kind tag (refused { s with framer := .hunting } c)) :=
    hframer.trans (ShowFrame.answer kind tag (refused _ c))
  dsimp only
  split
  · exact .of_frame (hframer.trans (ShowFrame.refuse _ _))
  · split
    · exact .of_frame (hrefused _)
    · split
      · exact .of_frames hframer (h _ rfl _) (ShowFrame.answer _ _ _)
      · exact .of_frame (hrefused _)

/-- The action of a command's owner takes no position back. -/
def ActionForward (o : Option (State → Done)) : Prop := ∀ act, o = some act → ∀ s, Forward s (act s).1

theorem actionForward_none : ActionForward none := fun _ h => by cases h

theorem actionForward_some {act : State → Done} (h : ∀ s, Forward s (act s).1) : ActionForward (some act) := fun _ e => by cases e; exact h

theorem actionForward_frame {act : State → Done} (h : ∀ s, ShowFrame s (act s).1) : ActionForward (some act) :=
  actionForward_some fun s => .of_frame (h s)

theorem actionForward_map {α : Type} (o : Option α) {act : α → State → Done} (h : ∀ a s, ShowFrame s (act a s).1) :
    ActionForward (o.map act) := by
  cases o
  · exact actionForward_none
  · exact actionForward_frame (h _)

theorem next_forward {s t : State} {kind tag : Byte} {b : Bool} {o : Option (State → Done)}
    (h : (Host.Outcome.next (s.take kind tag b o) : Host.Outcome State Fault Refusal) = .next t) (ho : ActionForward o) : Forward s t := by
  cases h
  exact take_forward s kind tag b o ho

theorem partReset_ctx (s : State) (n : Aud) :
    (s.partReset.aud n).ctx = { ShowCtx.reset with bindGen := (s.closeLoad.closeSlot.aud n).ctx.bindGen } := by
  show ((Vector.ofFn fun n : Aud => (s.closeLoad.closeSlot.aud n).partReset n.val)[n.val]).ctx = _
  rw [Vector.getElem_ofFn]
  rfl

theorem partReset_forward (s : State) : Forward s s.partReset := .of_all_vacant fun n => by rw [partReset_ctx]; rfl

theorem execKind_forward {kind tag : Byte} {body : List Byte} {s t : State} (h : execKind kind tag body s = .next t)
    (hstart : kind.toNat ≠ 0x34) (hreport : kind.toNat ≠ 0x35) : Forward s t := by
  have answered (f : State → List Byte) : ActionForward (some fun s => done s .ok (f s)) := actionForward_some fun s => .refl s
  unfold execKind at h
  split at h
  · exact next_forward h (by split; exacts [answered _, actionForward_none])
  · exact next_forward h (by split; exacts [answered _, actionForward_none])
  · exact next_forward h (by split; exacts [actionForward_frame fun s => .of_auds rfl, actionForward_none])
  · exact next_forward h (by split; exacts [actionForward_frame (ShowFrame.noticeSet _), actionForward_none])
  · exact next_forward h (by split; exacts [actionForward_some partReset_forward, actionForward_none])
  · exact next_forward h (actionForward_map _ ShowFrame.packageOpen)
  · exact next_forward h (by split; exacts [actionForward_map _ (ShowFrame.cueAppend _), actionForward_none])
  · exact next_forward h (by split; exacts [actionForward_frame (ShowFrame.packageSeal _), actionForward_none])
  · exact next_forward h (by split; exacts [actionForward_frame (ShowFrame.packageDelete _), actionForward_none])
  · exact next_forward h (by split; exacts [actionForward_frame (ShowFrame.packageProtect _ _), actionForward_none])
  · exact next_forward h (by split; exacts [actionForward_frame (ShowFrame.packageInfo _), actionForward_none])
  · exact next_forward h (by split; exacts [answered _, actionForward_none])
  · exact next_forward h (by
      split
      · split; exacts [actionForward_frame (ShowFrame.cueAmend _ _ _ _), actionForward_none]
      · exact actionForward_none)
  · exact next_forward h (by split; exacts [actionForward_frame (ShowFrame.cueRead _ _ _), actionForward_none])
  · exact next_forward h (by split; exacts [answered _, actionForward_none])
  · exact next_forward h (by split; exacts [actionForward_frame ShowFrame.storeReclaim, actionForward_none])
  · exact next_forward h (by split; exacts [actionForward_some fun s => (gateSet_onward _ _ s).forward, actionForward_none])
  · exact next_forward h (by split; exacts [actionForward_some fun s => (timingSet_onward _ _ _ _ s).forward, actionForward_none])
  · exact next_forward h (by split; exacts [actionForward_some (showBind_forward _ _ _ _), actionForward_none])
  · exact next_forward h (by split; exacts [actionForward_some (showUnbind_forward _), actionForward_none])
  · exact absurd ‹_› hstart
  · exact absurd ‹_› hreport
  · exact next_forward h (by split; exacts [actionForward_some fun s => (trackSet_onward _ _ _ _ _ s).forward, actionForward_none])
  · exact next_forward h (by split; exacts [actionForward_some fun s => (showStatus_onward _ s).forward, actionForward_none])
  · exact next_forward h (by split; exacts [actionForward_frame (ShowFrame.soundBlock _ _ _ _), actionForward_none])
  · exact next_forward h (by split; exacts [actionForward_frame (ShowFrame.soundFlush _ _), actionForward_none])
  · exact next_forward h (by split; exacts [actionForward_frame (ShowFrame.airSet _ _ _ _), actionForward_none])
  · exact next_forward h (by split; exacts [actionForward_frame (ShowFrame.announce _ _ _ _), actionForward_none])
  · exact next_forward h (by split; exacts [actionForward_frame (ShowFrame.announceCancel _), actionForward_none])
  · exact next_forward h (by split; exacts [actionForward_frame (ShowFrame.emitterSet _ _ _ _ _ _ _ _ _), actionForward_none])
  · cases h
    exact .of_frame (ShowFrame.trans (s' := { s with framer := .hunting }) (.of_auds rfl) (.refuse _ _))

/-! ### Every step -/

/-- The commands that may take the position back: SHOW_START and POSITION_REPORT. -/
def Moves (i : Instr) : Prop := ∃ tag body, i = .showStart tag body ∨ i = .positionReport tag body

/-- A frame that does not decode to one of the two is not of their kinds. -/
theorem kind_of_not_moves {kind tag : Byte} {body : List Byte} (h : ¬ Moves (Instr.ofKind kind tag body)) :
    kind.toNat ≠ 0x34 ∧ kind.toNat ≠ 0x35 :=
  ⟨fun hk => h ⟨tag, body, .inl (by simp only [Instr.ofKind, hk])⟩, fun hk => h ⟨tag, body, .inr (by simp only [Instr.ofKind, hk])⟩⟩

theorem execFrame_forward {bytes : List Byte} {s t : State} (h : execFrame bytes s = .next t) (hm : ¬ Moves (decodeFrame bytes)) :
    Forward s t := by
  unfold execFrame at h
  unfold decodeFrame at hm
  split at h
  · rw [‹openFrame bytes = _›] at hm
    obtain ⟨hstart, hreport⟩ := kind_of_not_moves hm
    exact execKind_forward h hstart hreport
  · cases h
    exact .of_frame (ShowFrame.frameError s)

theorem readLinkStatus_forward {s t : State} {code : Byte} {sent : List Byte} (h : execReadLinkStatus code s sent = .next t)
    (hm : code.toNat = 1 → s.linkSel = .spi → ¬ Moves (decodeFrame sent)) : Forward s t := by
  unfold execReadLinkStatus State.transfer at h
  split at h
  · dsimp only at h
    split at h
    · exact .of_frames (ShowFrame.clockOut s _) (execFrame_forward h (hm ‹_› ‹_›)) (.refl t)
    · cases h; exact .of_frame (ShowFrame.collect s _)
    · cases h; exact .of_frame (ShowFrame.clockOut s _)
    · cases h; exact .of_frame (ShowFrame.clockOut s _)
  · cases h; exact .refl s

theorem uartByte_forward {s t : State} {b : Byte} {ok : Bool} (h : execUartSyncByteReceived s b ok = .next t)
    (hm : ok = true → s.linkSel = .uart → ∀ bytes gap, s.framer = .receiving bytes gap → ¬ Moves (decodeFrame (bytes ++ [b]))) :
    Forward s t := by
  have hframer (x : Framer) : ShowFrame s { s with framer := x } := .of_auds rfl
  unfold execUartSyncByteReceived State.byteReceived State.frameByte at h
  split at h
  · have hm := hm rfl ‹_›
    split at h
    · cases h; exact .of_frame (.ite _ (fun _ => hframer _) fun _ => .refl s)
    · split at h
      · cases h; exact .of_frame (ShowFrame.frameError s)
      · split at h
        · exact execFrame_forward h (hm _ _ ‹_›)
        · cases h; exact .of_frame (hframer _)
  · cases h; exact .refl s
  · cases h; exact .refl s

theorem trackReadDone_frame (s : State) (k : ReadKind) (errs : Nat) : ShowFrame s (s.trackReadDone k errs) := by
  obtain ⟨-, -, -, -, -, -, -, -, haud⟩ := trackRead_frame (s := s) (k := k) (errs := errs) rfl
  exact ⟨fun n => (haud n).2.1, fun n => (haud n).1⟩

theorem bindIndexRead_forward {s t : State} {errs : Nat} (h : exec (.bindIndexReadDone errs) s = .next t) : Forward s t := by
  rcases bindRead_completes h with rfl | ⟨-, u, ⟨f, n, -, -, rfl⟩, rfl⟩
  · exact .refl _
  · exact .of_frames (.refl s) (bindReadDone_forward s f n errs) (ShowFrame.startNext _)

theorem hardReset_forward (b : Bool) (s : State) : Forward s (s.hardReset b) := .of_all_vacant fun n => by rw [hardReset_aud]; rfl

/-- The frame that a transfer delivers or a byte completes is not one of the two commands. -/
def State.DeliversNoMove (s : State) (i : Instr) : Prop :=
  (∀ sent, i = .readLinkStatus 0x01 sent → s.linkSel = .spi → ¬ Moves (decodeFrame sent))
    ∧ ∀ b bytes gap, i = .uartSyncByteReceived b true → s.linkSel = .uart → s.framer = .receiving bytes gap →
        ¬ Moves (decodeFrame (bytes ++ [b]))

theorem exec_forward {i : Instr} {s t : State} (h : exec i s = .next t) (hm : ¬ Moves i) (hd : s.DeliversNoMove i) : Forward s t := by
  have store {i : Instr} (hi : ∃ ok errs, i ∈ [Instr.loadPageProgramDone ok, .sealStepDone ok, .amendReadDone errs, .amendProgramDone ok,
      .deleteEraseDone ok, .reclaimEraseDone ok, .retireTagProgramDone ok, .retireEraseDone ok, .cueReadStepDone errs, .scanTagReadDone ok,
      .scanSealReadDone errs, .swiInactive ok]) (h : exec i s = .next t) : Forward s t := .of_frame (ShowFrame.of_store (storeEvent_frames hi h).1)
  cases i with
  | powerOnReset b => cases h; exact hardReset_forward b s
  | lineReset b => cases h; exact hardReset_forward b s
  | showStart tag body => exact absurd ⟨tag, body, .inl rfl⟩ hm
  | positionReport tag body => exact absurd ⟨tag, body, .inr rfl⟩ hm
  | partReset tag body => exact execKind_forward (kind := 0x05) h (by decide) (by decide)
  | partInfo tag body => exact execKind_forward (kind := 0x01) h (by decide) (by decide)
  | linkStatus tag body => exact execKind_forward (kind := 0x02) h (by decide) (by decide)
  | takeNotices tag body => exact execKind_forward (kind := 0x03) h (by decide) (by decide)
  | noticeSet tag body => exact execKind_forward (kind := 0x04) h (by decide) (by decide)
  | packageOpen tag body => exact execKind_forward (kind := 0x10) h (by decide) (by decide)
  | cueAppend tag body => exact execKind_forward (kind := 0x11) h (by decide) (by decide)
  | packageSeal tag body => exact execKind_forward (kind := 0x12) h (by decide) (by decide)
  | packageDelete tag body => exact execKind_forward (kind := 0x13) h (by decide) (by decide)
  | packageProtect tag body => exact execKind_forward (kind := 0x14) h (by decide) (by decide)
  | packageInfo tag body => exact execKind_forward (kind := 0x15) h (by decide) (by decide)
  | packageList tag body => exact execKind_forward (kind := 0x16) h (by decide) (by decide)
  | cueAmend tag body => exact execKind_forward (kind := 0x17) h (by decide) (by decide)
  | cueRead tag body => exact execKind_forward (kind := 0x18) h (by decide) (by decide)
  | storeInfo tag body => exact execKind_forward (kind := 0x20) h (by decide) (by decide)
  | storeReclaim tag body => exact execKind_forward (kind := 0x21) h (by decide) (by decide)
  | gateSet tag body => exact execKind_forward (kind := 0x30) h (by decide) (by decide)
  | timingSet tag body => exact execKind_forward (kind := 0x31) h (by decide) (by decide)
  | showBind tag body => exact execKind_forward (kind := 0x32) h (by decide) (by decide)
  | showUnbind tag body => exact execKind_forward (kind := 0x33) h (by decide) (by decide)
  | trackSet tag body => exact execKind_forward (kind := 0x36) h (by decide) (by decide)
  | showStatus tag body => exact execKind_forward (kind := 0x37) h (by decide) (by decide)
  | soundBlock tag body => exact execKind_forward (kind := 0x40) h (by decide) (by decide)
  | soundFlush tag body => exact execKind_forward (kind := 0x41) h (by decide) (by decide)
  | airSet tag body => exact execKind_forward (kind := 0x50) h (by decide) (by decide)
  | announce tag body => exact execKind_forward (kind := 0x51) h (by decide) (by decide)
  | announceCancel tag body => exact execKind_forward (kind := 0x52) h (by decide) (by decide)
  | emitterSet tag body => exact execKind_forward (kind := 0x60) h (by decide) (by decide)
  | frameError => cases h; exact .of_frame (ShowFrame.frameError s)
  | unknownKind k tag =>
    cases h
    exact .of_frame (ShowFrame.trans (s' := { s with framer := .hunting }) (.of_auds rfl) (.refuse _ _))
  | collectReply n =>
    cases h
    split
    · exact .of_frame (ShowFrame.collect s n)
    · exact .refl s
  | readLinkStatus code sent =>
    exact readLinkStatus_forward h fun hcode hspi => hd.1 sent (by rw [show code = 0x01 from BitVec.eq_of_toNat_eq hcode]) hspi
  | uartFrameTimeout =>
    cases h
    split
    · exact .of_frame (ShowFrame.frameError s)
    · exact .refl s
  | replySent => cases h; exact .of_frame (ShowFrame.replySent s)
  | uartSyncByteReceived b ok => exact uartByte_forward h fun hok huart bytes gap => hd.2 b bytes gap (by rw [hok]) huart
  | fetchReadDone errs => cases h; exact .of_frame (trackReadDone_frame s _ errs)
  | seekReadDone errs => cases h; exact .of_frame (trackReadDone_frame s _ errs)
  | bindIndexReadDone errs => exact bindIndexRead_forward h
  | cueReadStepDone errs => exact store ⟨true, errs, by simp⟩ h
  | amendReadDone errs => exact store ⟨true, errs, by simp⟩ h
  | loadPageProgramDone ok => exact store ⟨ok, 0, by simp⟩ h
  | sealStepDone ok => exact store ⟨ok, 0, by simp⟩ h
  | amendProgramDone ok => exact store ⟨ok, 0, by simp⟩ h
  | retireTagProgramDone ok => exact store ⟨ok, 0, by simp⟩ h
  | deleteEraseDone ok => exact store ⟨ok, 0, by simp⟩ h
  | reclaimEraseDone ok => exact store ⟨ok, 0, by simp⟩ h
  | retireEraseDone ok => exact store ⟨ok, 0, by simp⟩ h
  | scanTagReadDone d => exact store ⟨d, 0, by simp⟩ h
  | scanSealReadDone errs => exact store ⟨true, errs, by simp⟩ h
  | swiInactive after => exact store ⟨after, 0, by simp⟩ h
  | framePulseRisingEdge n => cases h; exact (risingEdge_onward s n).forward
  | framePulseFallingEdge n => cases h; exact (Onward.modInput s n _ (by intro; rfl)).forward
  | qualifyingCountReached n => cases h; exact (qualify_onward s n).forward
  | missingPulseDeadline n => cases h; exact (missDeadline_onward s n).forward
  | contactLevelChange l b => cases h; exact (modLine_onward s l _).forward
  | debounceSettled l => cases h; exact (settle_onward s l).forward
  | cycleExpiry n => cases h; exact (expire_onward s n).forward
  | transmissionEnd n => cases h; exact .of_frame (ShowFrame.endTransmission s n)
  | overcurrentFault n after => cases h; exact .of_frame ((ShowFrame.overcurrent s n).trans (.modEmit _ n _))
  | coolingEnd n => cases h; exact .of_frame (ShowFrame.endCooling s n)

/-- Settles O57: each step that counts, corrects or holds a show takes C to the position or beyond it, the others leave the position, and a show
that a step binds or unbinds was vacant before it or is after it. -/
theorem positionNeverRunsBack : Obligations.PositionNeverRunsBack := by
  unfold Obligations.PositionNeverRunsBack
  intro s t n moves hmoves hok hstep hcmd hst hst'
  have hall : ∀ i, moves i ↔ Moves i := hmoves
  obtain rfl : moves = Moves := funext fun i => propext (hall i)
  unfold step at hstep
  split at hstep
  · rename_i i rest hpending
    obtain ⟨hm, hspi, huart⟩ := hcmd i rest hpending
    exact exec_forward hstep hm ⟨hspi, huart⟩ n (hok n) hst hst'
  · exact Host.Outcome.next.inj hstep ▸ (tick_onward s n (hok n) hst).2.2

end Sys2Proof.Machine

/-! ## What a command leaves as it is (O59) -/

namespace Sys2Proof.Machine

/-! ### The frame of a command is taken and answered (R162, R163) -/

/-- A state but for its framer, replies and transmitter. -/
def State.offLink (s : State) : State := { s with framer := .hunting, replyBuf := .empty, refusal := none, uartTx := none }

theorem startTx_offLink (s : State) (x : TxSource) : (s.startTx x).offLink = s.offLink := by
  unfold State.startTx
  split <;> rfl

theorem ready_offLink (s : State) (r : Reply) : (s.ready r).offLink = s.offLink := startTx_offLink { s with replyBuf := .ready r } .buffer

theorem refuse_offLink (s : State) (r : Reply) : (s.refuse r).offLink = s.offLink := by
  unfold State.refuse
  split
  · rfl
  · exact startTx_offLink { s with refusal := some r } .slot

theorem answer_offLink (kind tag : Byte) (d : Done) : (State.answer kind tag d).offLink = d.1.offLink := by
  unfold State.answer
  split
  · exact ready_offLink _ _
  · rfl

/-- But for the link a command either does nothing or runs its owner's action. -/
theorem take_offLink (s : State) (kind tag : Byte) (inStarting : Bool) (action : Option (State → Done)) :
    (s.take kind tag inStarting action).offLink = s.offLink
      ∨ ∃ act, action = some act ∧ (s.take kind tag inStarting action).offLink = (act s.taken).1.offLink := by
  have hrefused (c : Code) : (State.answer kind tag (refused s.taken c)).offLink = s.offLink := answer_offLink kind tag (refused s.taken c)
  unfold State.take
  dsimp only
  split
  · exact .inl (refuse_offLink _ _)
  · split
    · exact .inl (hrefused _)
    · split
      · exact .inr ⟨_, rfl, answer_offLink _ _ _⟩
      · exact .inl (hrefused _)

/-- What a command does, from what its owner's action does to a state whose frame is taken. -/
theorem next_of_action {P : State → State → Prop} (hrefl : ∀ s, P s s)
    (hlink : ∀ {s s' t t'}, s.offLink = s'.offLink → t.offLink = t'.offLink → P s t → P s' t')
    {s t : State} {kind tag : Byte} {b : Bool} {o : Option (State → Done)} (ho : ∀ act, o = some act → ∀ s, P s (act s).1)
    (h : (Host.Outcome.next (s.take kind tag b o) : Host.Outcome State Fault Refusal) = .next t) : P s t := by
  cases h
  rcases take_offLink s kind tag b o with h | ⟨act, hact, h⟩
  · exact hlink rfl h.symm (hrefl s)
  · exact hlink (s := s.taken) rfl h.symm (ho act hact s.taken)

/-! ### The link, the directory and the store touch no auditorium (R6 to R24, R160 to R169) -/

/-- What a command of the link, the directory or the store leaves: the auditoriums, the contacts and announcements, the flash and the scan. -/
def State.beyondDesk (s : State) : State :=
  { State.reset with
    auds := s.auds, shold := s.shold, flash := s.flash, scan := s.scan, phase := s.phase, linkSel := s.linkSel, swi := s.swi
    announces := s.announces, pending := s.pending }

def DeskStep (s t : State) : Prop := t.beyondDesk = s.beyondDesk

namespace DeskStep

variable {s s' s'' : State}

theorem refl (s : State) : DeskStep s s := rfl

theorem trans (h : DeskStep s s') (k : DeskStep s' s'') : DeskStep s s'' := Eq.trans k h

theorem ite {a b : State} (c : Prop) [Decidable c] (ha : DeskStep s a) (hb : DeskStep s b) : DeskStep s (if c then a else b) := by
  split
  · exact ha
  · exact hb

theorem ite_fst {α : Type} {a b : State × α} (c : Prop) [Decidable c] (ha : DeskStep s a.1) (hb : DeskStep s b.1) :
    DeskStep s (if c then a else b).1 := by
  split
  · exact ha
  · exact hb

theorem foldl {α : Type} (f : State → α → State) (h : ∀ s a, DeskStep s (f s a)) (l : List α) : ∀ s, DeskStep s (l.foldl f s) := by
  induction l with
  | nil => exact refl
  | cons a as ih => exact fun s => (h s a).trans (ih _)

/-- The host's requests go to the store engine alone. -/
theorem hostRead (s : State) (op : StoreOp) : DeskStep s (s.hostRead op) := by
  unfold State.hostRead State.request
  dsimp only
  split
  · rfl
  · rfl

theorem hostWrite (s : State) (op : StoreOp) : DeskStep s (s.hostWrite op) := by
  unfold State.hostWrite
  exact ite _ rfl (hostRead s op)

theorem packageOpen (a : OpenArgs) (s : State) : DeskStep s (packageOpenAction a s).1 := by
  unfold packageOpenAction
  split
  · rfl
  · split
    · rfl
    · refine ite_fst _ rfl ?_
      split <;> rfl

theorem handover (s : State) (p : Package) (l : Load) : DeskStep s (s.handover p l) := by
  unfold State.handover
  dsimp only
  refine .trans ?_ (hostWrite _ _)
  split <;> rfl

theorem stage (s : State) (id : Nat) (l : Load) (t : TextTrack) (c : Cue) : DeskStep s (s.stage id l t c) := rfl

theorem appendRecord {s s' : State} {p : Package} {info : PkgInfo} {l : Load} {r : RawRecord} {k : Nat} {c : Bool}
    (h : Machine.appendRecord s p info l r = .taken s' k c) : DeskStep s s' := by
  have hleaves := appendRecord_leaves (P := DeskStep s) (s := s) (p := p) (l := l) info r (stage s) fun _ _ _ _ =>
    (handover s p l).trans (stage _ _ _ _ _)
  rwa [h] at hleaves

theorem appendBatch (id : Nat) (rs : List RawRecord) : ∀ (s : State) (b : Batch), DeskStep s (Machine.appendBatch id rs s b).1 := by
  induction rs with
  | nil => exact fun s _ => refl s
  | cons r rs ih =>
    intro s b
    unfold Machine.appendBatch
    split
    · split
      · split
        · exact (appendRecord ‹_›).trans (ih _ _)
        · rfl
      · rfl
    · rfl

theorem cueAppend (id : Nat) (rs : List RawRecord) (s : State) : DeskStep s (cueAppendAction id rs s).1 := by
  unfold cueAppendAction
  split
  · rfl
  · refine ite_fst _ rfl (ite_fst _ rfl ((appendBatch id rs s .none_).trans ?_))
    unfold Machine.appendReply
    dsimp only
    split <;> rfl

theorem packageSeal (id : Nat) (s : State) : DeskStep s (packageSealAction id s).1 := by
  have hstep (s : State) (id step : Nat) (l : Load) : DeskStep s (s.sealStep id step l) := by
    unfold State.sealStep
    split
    · split
      · exact .trans (s' := { s with pageReg := _, slot := _ }) rfl (hostWrite _ _)
      · rfl
    · rfl
  unfold packageSealAction
  split
  · rfl
  · split
    · refine ite_fst _ rfl (ite_fst _ rfl (ite_fst _ rfl (ite_fst _ rfl ?_)))
      refine .trans ?_ (hstep _ _ _ _)
      exact foldl (fun s b => s.claim b _ _) (fun _ _ => rfl) _ s
    · rfl

theorem packageDelete (id : Nat) (s : State) : DeskStep s (packageDeleteAction id s).1 := by
  have hnext (s : State) (id : Nat) (rest : List Nat) (k : Nat) : DeskStep s (s.deleteNext id rest k) := by
    unfold State.deleteNext
    split
    · exact .trans (s' := s.setOp _) rfl (hostWrite _ _)
    · rfl
  unfold packageDeleteAction
  split
  · rfl
  · exact ite_fst _ rfl (ite_fst _ rfl (ite_fst _ rfl (ite_fst _ rfl (ite_fst _ rfl (hnext _ _ _ _)))))

theorem packageProtect (id : Nat) (level : Byte) (s : State) : DeskStep s (packageProtectAction id level s).1 := by
  unfold packageProtectAction
  split
  · rfl
  · split
    · rfl
    · exact ite_fst _ rfl (ite_fst _ rfl rfl)

theorem packageInfo (id : Nat) (s : State) :
    DeskStep s (match s.package id with | some p => Machine.done s .ok p.infoBytes | none => refused s .noSuch).1 := by
  split <;> rfl

theorem cueAmend (id track cue : Nat) (x : Option CueText) (s : State) : DeskStep s (cueAmendAction id track cue x s).1 := by
  unfold cueAmendAction
  split
  · rfl
  · refine ite_fst _ rfl (ite_fst _ rfl ?_)
    split
    · split
      · rfl
      · refine ite_fst _ rfl (ite_fst _ rfl (ite_fst _ rfl (ite_fst _ rfl (.trans ?_ (hostRead _ _)))))
        exact ite (a := s.claim _ _ _) (b := s) _ rfl rfl
    · rfl

theorem cueRead (id track cue : Nat) (s : State) : DeskStep s (cueReadAction id track cue s).1 := by
  unfold cueReadAction
  split
  · rfl
  · refine ite_fst _ rfl ?_
    split
    · exact ite_fst _ rfl (ite_fst _ rfl (.trans (s' := s.setOp _) rfl (hostRead _ _)))
    · rfl

theorem storeReclaim (s : State) : DeskStep s (storeReclaimAction s).1 := by
  have hnext (s : State) (rest : List Nat) (j k : Nat) : DeskStep s (s.reclaimNext rest j k) := by
    unfold State.reclaimNext
    split
    · exact .trans (s' := s.setOp _) rfl (hostWrite _ _)
    · rfl
  exact ite_fst _ rfl (ite_fst _ rfl (hnext s _ _ _))

theorem noticeSet (b : Byte) (s : State) : DeskStep s (noticeSetAction b s).1 := by
  unfold noticeSetAction
  split <;> rfl

end DeskStep

/-- The action of a command's owner touches no auditorium. -/
def ActionDesk (o : Option (State → Done)) : Prop := ∀ act, o = some act → ∀ s, DeskStep s (act s).1

theorem actionDesk_none : ActionDesk none := fun _ h => by cases h

theorem actionDesk_some {act : State → Done} (h : ∀ s, DeskStep s (act s).1) : ActionDesk (some act) := fun _ e => by cases e; exact h

theorem actionDesk_map {α : Type} (o : Option α) {act : α → State → Done} (h : ∀ a s, DeskStep s (act a s).1) : ActionDesk (o.map act) := by
  cases o
  · exact actionDesk_none
  · exact actionDesk_some (h _)

theorem beyondDesk_of_offLink {s t : State} (h : s.offLink = t.offLink) : s.beyondDesk = t.beyondDesk := by
  have hbeyond : s.offLink.beyondDesk = t.offLink.beyondDesk := congrArg State.beyondDesk h
  exact hbeyond

theorem next_desk {s t : State} {kind tag : Byte} {b : Bool} {o : Option (State → Done)} (ho : ActionDesk o)
    (h : (Host.Outcome.next (s.take kind tag b o) : Host.Outcome State Fault Refusal) = .next t) : DeskStep s t :=
  next_of_action DeskStep.refl
    (fun hs ht h => (beyondDesk_of_offLink ht).symm.trans (Eq.trans h (beyondDesk_of_offLink hs))) ho h

theorem execKind_desk {kind tag : Byte} {body : List Byte} {s t : State} (h : execKind kind tag body s = .next t)
    (hk : kind.toNat ∈ [0x01, 0x02, 0x03, 0x04, 0x10, 0x11, 0x12, 0x13, 0x14, 0x15, 0x16, 0x17, 0x18, 0x20, 0x21]) : DeskStep s t := by
  have answered (f : State → List Byte) : ActionDesk (some fun s => done s .ok (f s)) := actionDesk_some fun _ => rfl
  simp only [List.mem_cons, List.not_mem_nil, or_false] at hk
  rcases hk with hk | hk | hk | hk | hk | hk | hk | hk | hk | hk | hk | hk | hk | hk | hk <;> simp only [execKind, hk] at h
  · exact next_desk (by split; exacts [answered _, actionDesk_none]) h
  · exact next_desk (by split; exacts [answered _, actionDesk_none]) h
  · exact next_desk (by split; exacts [actionDesk_some fun _ => rfl, actionDesk_none]) h
  · exact next_desk (by split; exacts [actionDesk_some (.noticeSet _), actionDesk_none]) h
  · exact next_desk (actionDesk_map _ .packageOpen) h
  · exact next_desk (by split; exacts [actionDesk_map _ (.cueAppend _), actionDesk_none]) h
  · exact next_desk (by split; exacts [actionDesk_some (.packageSeal _), actionDesk_none]) h
  · exact next_desk (by split; exacts [actionDesk_some (.packageDelete _), actionDesk_none]) h
  · exact next_desk (by split; exacts [actionDesk_some (.packageProtect _ _), actionDesk_none]) h
  · exact next_desk (by split; exacts [actionDesk_some (.packageInfo _), actionDesk_none]) h
  · exact next_desk (by split; exacts [answered _, actionDesk_none]) h
  · refine next_desk ?_ h
    split
    · split
      · exact actionDesk_some (.cueAmend _ _ _ _)
      · exact actionDesk_none
    · exact actionDesk_none
  · exact next_desk (by split; exacts [actionDesk_some (.cueRead _ _ _), actionDesk_none]) h
  · exact next_desk (by split; exacts [answered _, actionDesk_none]) h
  · exact next_desk (by split; exacts [actionDesk_some .storeReclaim, actionDesk_none]) h

/-! ### A command that names an auditorium -/

theorem OwnStep.done {n : Aud} {s s' : State} (c : Code) (v : List Byte) (h : OwnStep n s s') : OwnStep n s (done s' c v).1 := h

theorem startShow_own (s : State) (n : Aud) (p : Nat) : OwnStep n s (s.startShow n p) := by
  unfold State.startShow
  exact .of_only (((modCtx_only s n _).trans (modInput_only _ n _)).trans
    ((textSignal_only _ n _ fun s t => textWait_only s n t).trans (soundSignal_only _ n _)))

theorem jump_own (s : State) (n : Aud) (r p : Nat) : OwnStep n s (s.jump n r p) := by
  unfold State.jump
  dsimp only
  refine .trans ?_ (.ite _ (fun _ => .of_only (finish_only _ n)) fun _ => .of_only
    ((textSignal_only _ n _ fun s t => textSeek_only _ s n t).trans (soundSignal_only _ n _)))
  exact .of_only (((modCtx_only s n _).trans (modInput_only _ n _)).trans ((modCtx_only _ n _).trans (raise_only n _ _ _ _)))

theorem report_own (s : State) (n : Aud) (r p : Nat) : OwnStep n s (s.report n r p).1 := by
  unfold State.report
  exact .ite_fst _ (fun _ => .ite_fst _ (fun _ => .refl n s) fun _ => .ite_fst _ (fun _ => .of_only (modCtx_only s n fun x => { x with k := _ }))
    fun _ => jump_own s n r p)
    fun _ => .of_only ((modCtx_only s n fun x => { x with c := _, k := _ }).trans (modInput_only _ n InputUnit.restart))

theorem textOnSignal_only (p : Nat) (s : State) (n : Aud) (t : TextTrack) : OnlyAud n s (State.textOnSignal p s n t) := by
  unfold State.textOnSignal
  dsimp only
  split
  · exact (modEng_only s n t _).trans (textSeek_only p _ n t)
  · exact (modEng_only s n t _).trans (textSeek_only p _ n t)
  · exact (modEng_only s n t _).trans (modEng_only _ n t _)
  · exact (modEng_only s n t _).trans (modEng_only _ n t _)
  · exact (modEng_only s n t _).trans (modEng_only _ n t _)
  · exact (modEng_only s n t _).trans (modEng_only _ n t _)
  · exact modEng_only s n t _
  · exact modEng_only s n t _

theorem setText_own (s : State) (n : Aud) (t : TextTrack) (set : TrackSetting) : OwnStep n s (s.setText n t set) := by
  unfold State.setText
  dsimp only
  refine .trans ?_ (.ite _ (fun _ => .of_only (textOff_only _ n t)) fun _ => .ite _ (fun _ => .of_only ?_) fun _ => .refl _ _)
  · exact .of_only (modCtx_only s n _)
  · exact (finishTest_only _ n).trans (textOnSignal_only _ _ n t)

theorem setSound_own (s : State) (n : Aud) (t : SoundTrack) (set : TrackSetting) : OwnStep n s (s.setSound n t set) := by
  unfold State.setSound
  dsimp only
  refine .trans (.trans (.of_only (modCtx_only s n fun x => { x with sound := x.sound.set t.val set t.isLt })) ?_) (.of_only (modPlay_only _ n t _))
  exact .ite_fst _ (fun _ => .of_only (finishTest_only _ n)) fun _ => .refl _ _

section owner

variable {a : Byte} {n : Aud} (ha : audOf a = some n)
include ha

theorem gateSet_own (es : List Byte) (s : State) : OwnStep n s (gateSetAction a es s).1 := by
  unfold gateSetAction
  rw [ha]
  split
  · obtain rfl := Option.some.inj ‹_›
    exact .done _ _ (.of_only ((modInput_only s _ _).trans (modInput_only _ _ _)))
  · exact .refl n s

theorem timingSet_own (w c sl : Byte) (s : State) : OwnStep n s (timingSetAction a w c sl s).1 := by
  simp only [timingSetAction, ha]
  refine .ite_fst _ (fun _ => .refl n s) fun _ => .trans ?_ (.ite _ (fun _ => .of_only (adopt_only _ n)) fun _ => .refl n _)
  exact .of_only (modAud_only s n _)

theorem showUnbind_own (s : State) : OwnStep n s (showUnbindAction a s).1 := by
  simp only [showUnbindAction, ha]
  exact .ite_fst _ (fun _ => .refl n s) fun _ => unbind_own s n

theorem showStart_own (p : Nat) (s : State) : OwnStep n s (showStartAction a p s).1 := by
  simp only [showStartAction, ha]
  exact .ite_fst _ (fun _ => .refl n s) fun _ => .ite_fst _ (fun _ => .refl n s) fun _ => startShow_own s n p

theorem positionReport_own (r : Nat) (s : State) : OwnStep n s (positionReportAction a r s).1 := by
  simp only [positionReportAction, ha]
  refine .ite_fst _ (fun _ => .refl n s) fun _ => .ite_fst _ (fun _ => .refl n s) fun _ => ?_
  exact .trans (.of_only (finishTest_only s n)) (.ite_fst _ (fun _ => .refl n _) fun _ => report_own _ n _ _)

theorem trackSet_own (k t e l : Byte) (s : State) : OwnStep n s (trackSetAction a k t e l s).1 := by
  unfold trackSetAction
  rw [ha]
  split
  · obtain rfl := Option.some.inj ‹_›
    refine .ite_fst _ (fun _ => ?_) fun _ => .ite_fst _ (fun _ => ?_) fun _ => .refl _ s
    · split
      · exact .ite_fst _ (fun _ => .refl _ s) fun _ => .ite_fst _ (fun _ => .refl _ s) fun _ => setText_own s _ _ _
      · exact .refl _ s
    · split
      · exact .ite_fst _ (fun _ => .refl _ s) fun _ => .ite_fst _ (fun _ => .refl _ s) fun _ => setSound_own s _ _ _
      · exact .refl _ s
  · exact .refl n s

theorem showStatus_own (s : State) : OwnStep n s (showStatusAction a s).1 := by
  simp only [showStatusAction, ha]
  exact .of_only (finishTest_only s n)

theorem soundBlock_own (t : Byte) (stamp : Nat) (x : List Byte) (s : State) : OwnStep n s (soundBlockAction a t stamp x s).1 := by
  unfold soundBlockAction
  rw [ha]
  split
  · obtain rfl := Option.some.inj ‹_›
    dsimp only
    iterate 8 refine .ite_fst _ (fun _ => .refl _ s) fun _ => ?_
    exact .done _ _ (.of_only (modPlay_only s _ _ _))
  · exact .refl n s

theorem soundFlush_own (t : Byte) (s : State) : OwnStep n s (soundFlushAction a t s).1 := by
  unfold soundFlushAction
  rw [ha]
  split
  · obtain rfl := Option.some.inj ‹_›
    exact .ite_fst _ (fun _ => .refl _ s) fun _ => .ite_fst _ (fun _ => .refl _ s) fun _ => .done _ _ (.of_only (modPlay_only s _ _ _))
  · exact .refl n s

theorem airSet_own (r : Byte) (site : Nat) (i : Byte) (s : State) : OwnStep n s (airSetAction a r site i s).1 := by
  unfold airSetAction
  rw [ha]
  split
  · obtain rfl := Option.some.inj ‹_›
    exact .ite_fst _ (fun _ => .refl _ s) fun _ => .ite_fst _ (fun _ => .refl _ s) fun _ => .done _ _ (.of_only (modAir_only s _ _))
  · exact .refl n s

theorem emitterSet_own (en ma pa mb pb pr : Byte) (p w : Nat) (s : State) : OwnStep n s (emitterSetAction a en ma pa mb pb pr p w s).1 := by
  have henable (s : State) (b : Bool) : OnlyAud n s (s.enableEmitter n b) := by
    unfold State.enableEmitter State.recover
    refine ite_only _ (fun _ => ite_only _ (fun _ => ?_) fun _ => .refl n s) fun _ => ite_only _ (fun _ => .refl n s) fun _ => modEmit_only s n _
    dsimp only
    refine OnlyAud.trans ?_ (ite_only _ (fun _ => ite_only _ (fun _ => restoreAll_only _ n) fun _ => .refl n _) fun _ => .refl n _)
    exact modEmit_only s n _
  unfold emitterSetAction
  rw [ha]
  split
  · obtain rfl := Option.some.inj ‹_›
    exact .ite_fst _ (fun _ => .refl _ s) fun _ => .ite_fst _ (fun _ => .refl _ s) fun _ => .of_only ((modEmit_only s _ _).trans (henable _ _))
  · exact .refl n s

end owner

/-- A command to an auditorium, seen apart from the link. -/
def CommandStep (n : Aud) (s t : State) : Prop := OwnStep n s.offLink t.offLink

theorem OwnStep.command {n : Aud} {s t : State} (h : OwnStep n s t) : CommandStep n s t :=
  ⟨{ h.rest with framer := rfl, replyBuf := rfl, refusal := rfl, uartTx := rfl }, h.packages⟩

/-- The action of the command's owner is one of the auditorium's. -/
def ActionOwn (n : Aud) (o : Option (State → Done)) : Prop := ∀ act, o = some act → ∀ s, OwnStep n s (act s).1

theorem actionOwn_none {n : Aud} : ActionOwn n none := fun _ h => by cases h

theorem actionOwn_some {n : Aud} {act : State → Done} (h : ∀ s, OwnStep n s (act s).1) : ActionOwn n (some act) := fun _ e => by cases e; exact h

theorem next_own {n : Aud} {s t : State} {kind tag : Byte} {b : Bool} {o : Option (State → Done)} (ho : ActionOwn n o)
    (h : (Host.Outcome.next (s.take kind tag b o) : Host.Outcome State Fault Refusal) = .next t) : CommandStep n s t := by
  refine next_of_action (P := CommandStep n) (fun s => (OwnStep.refl n s).command) (fun hs ht h => ?_) (fun act hact s => (ho act hact s).command) h
  unfold CommandStep
  rw [← hs, ← ht]
  exact h

theorem execKind_own {kind tag a : Byte} {rest : List Byte} {n : Aud} {s t : State} (h : execKind kind tag (a :: rest) s = .next t)
    (ha : audOf a = some n) (hk : kind.toNat ∈ [0x30, 0x31, 0x32, 0x33, 0x34, 0x35, 0x36, 0x37, 0x40, 0x41, 0x50, 0x60]) : CommandStep n s t := by
  simp only [List.mem_cons, List.not_mem_nil, or_false] at hk
  rcases hk with hk | hk | hk | hk | hk | hk | hk | hk | hk | hk | hk | hk <;> simp only [execKind, hk] at h <;> refine next_own ?_ h <;> split
  · rename_i hbody; cases hbody; exact actionOwn_some (gateSet_own ha _)
  · exact actionOwn_none
  · rename_i hbody; cases hbody; exact actionOwn_some (timingSet_own ha _ _ _)
  · exact actionOwn_none
  · rename_i hbody; cases hbody; exact actionOwn_some (showBind_own ha)
  · exact actionOwn_none
  · rename_i hbody; cases hbody; exact actionOwn_some (showUnbind_own ha)
  · exact actionOwn_none
  · rename_i hbody; cases hbody; exact actionOwn_some (showStart_own ha _)
  · exact actionOwn_none
  · rename_i hbody; cases hbody; exact actionOwn_some (positionReport_own ha _)
  · exact actionOwn_none
  · rename_i hbody; cases hbody; exact actionOwn_some (trackSet_own ha _ _ _ _)
  · exact actionOwn_none
  · rename_i hbody; cases hbody; exact actionOwn_some (showStatus_own ha)
  · exact actionOwn_none
  · rename_i hbody; cases hbody; exact actionOwn_some (soundBlock_own ha _ _ _)
  · exact actionOwn_none
  · rename_i hbody; cases hbody; exact actionOwn_some (soundFlush_own ha _)
  · exact actionOwn_none
  · rename_i hbody; cases hbody; exact actionOwn_some (airSet_own ha _ _ _)
  · exact actionOwn_none
  · rename_i hbody; cases hbody; exact actionOwn_some (emitterSet_own ha _ _ _ _ _ _ _ _)
  · exact actionOwn_none

/-! ### Announcements (R140, R142) -/

/-- What an announcement command leaves outside the auditoriums. -/
def State.beyondAir (s : State) : State :=
  { State.reset with
    packages := s.packages, flash := s.flash, blocks := s.blocks, load := s.load, slot := s.slot, flight := s.flight, queue := s.queue
    notices := s.notices, shold := s.shold, pending := s.pending }

/-- A step of the air schedulers. -/
structure AirStep (s t : State) : Prop where
  rest : t.beyondAir = s.beyondAir
  auds : ∀ n, { t.aud n with air := (s.aud n).air } = s.aud n

namespace AirStep

variable {s s' s'' : State}

theorem refl (s : State) : AirStep s s := ⟨rfl, fun _ => rfl⟩

theorem trans (h : AirStep s s') (k : AirStep s' s'') : AirStep s s'' where
  rest := k.rest.trans h.rest
  auds := fun n => by
    have hk := congrArg (fun a : Auditorium => { a with air := (s.aud n).air }) (k.auds n)
    exact hk.trans (h.auds n)

theorem modAir (s : State) (n : Aud) (f : AirSched → AirSched) : AirStep s (s.modAir n f) where
  rest := rfl
  auds := fun m => by
    by_cases hm : m = n
    · subst hm
      rw [State.modAir_same]
    · rw [State.modAir_other _ _ _ _ hm]

theorem foldl {α : Type} (f : State → α → State) (h : ∀ s a, AirStep s (f s a)) (l : List α) : ∀ s, AirStep s (l.foldl f s) := by
  induction l with
  | nil => exact refl
  | cons a as ih => exact fun s => (h s a).trans (ih _)

theorem endAnnouncement (s : State) (n : Aud) : AirStep s (s.endAnnouncement n) := by
  unfold State.endAnnouncement State.submit State.overflow
  refine (modAir s n fun a => { a with ann := .ending }).trans ?_
  split
  · exact modAir _ n _
  · exact modAir _ n _

theorem cancel (mask : Nat) (l : List Aud) : ∀ s : State, AirStep s (State.cancel mask s l).1 := by
  induction l with
  | nil => exact refl
  | cons n ns ih =>
    intro s
    unfold State.cancel
    split
    · exact (endAnnouncement s n).trans (ih _)
    · exact ih s

theorem announce (mask i d : Nat) (x : List Byte) (s : State) : AirStep s (announceAction mask i d x s).1 := by
  unfold announceAction
  split
  · exact refl s
  · refine .trans (s' := { s with announces := (s.announces + 1) % 4294967296 }) ⟨rfl, fun _ => rfl⟩ (foldl _ (fun s n => ?_) _ _)
    split
    · exact modAir s n _
    · exact refl s

end AirStep

theorem AirStep.of_offLink {s s' t t' : State} (hs : s.offLink = s'.offLink) (ht : t.offLink = t'.offLink) (h : AirStep s t) : AirStep s' t' where
  rest := by
    have hbeyond (u v : State) (huv : u.offLink = v.offLink) : u.beyondAir = v.beyondAir := by
      have hoff : u.offLink.beyondAir = v.offLink.beyondAir := congrArg State.beyondAir huv
      exact hoff
    rw [← hbeyond _ _ hs, ← hbeyond _ _ ht]
    exact h.rest
  auds := fun n => by
    have haud (u v : State) (huv : u.offLink = v.offLink) : u.aud n = v.aud n := by
      have hoff : u.offLink.aud n = v.offLink.aud n := congrArg (State.aud · n) huv
      exact hoff
    rw [← haud _ _ hs, ← haud _ _ ht]
    exact h.auds n

theorem execKind_air {kind tag : Byte} {body : List Byte} {s t : State} (h : execKind kind tag body s = .next t)
    (hk : kind.toNat ∈ [0x51, 0x52]) : AirStep s t := by
  simp only [List.mem_cons, List.not_mem_nil, or_false] at hk
  rcases hk with hk | hk <;> simp only [execKind, hk] at h <;> refine next_of_action AirStep.refl AirStep.of_offLink (fun act hact s => ?_) h
  · split at hact
    · cases hact
      exact AirStep.announce _ _ _ _ s
    · cases hact
  · split at hact
    · cases hact
      exact AirStep.cancel _ _ s
    · cases hact

/-! ### The commands -/

/-- A command's step is that of its frame's kind, tag and body; a kind that the catalogue lacks is refused (R162 c, R171). -/
theorem exec_of_frameParts {i : Instr} {kind tag : Byte} {body : List Byte} {s t : State} (hp : i.frameParts = some (kind, tag, body))
    (h : exec i s = .next t) : s.offLink = t.offLink ∨ execKind kind tag body s = .next t := by
  cases i with
  | unknownKind k x =>
    cases h
    exact .inl (refuse_offLink { s with framer := .hunting } _).symm
  | _ => cases hp <;> exact .inr h

/-- Settles O59: each command takes its frame and answers on the link, and between runs its owner's action, which is one of the directory and the
store, of its auditorium, or of the air schedulers. -/
theorem commandsKeepWhatIsNotTheirs : Obligations.CommandsKeepWhatIsNotTheirs := by
  unfold Obligations.CommandsKeepWhatIsNotTheirs
  intro i kind tag body s t hp hexec
  have hcases := exec_of_frameParts hp hexec
  refine ⟨fun hk => ?_, fun n a rest hk hbody ha => ?_, fun hk => ?_⟩
  · have h : t.beyondDesk = s.beyondDesk := hcases.elim (fun h => (beyondDesk_of_offLink h).symm) fun h => execKind_desk h hk
    have field {α : Type} (f : State → α) : f t.beyondDesk = f s.beyondDesk := congrArg f h
    exact ⟨field State.auds, field State.shold, field State.flash, field State.scan, field State.phase, field State.linkSel,
      field State.swi, field State.announces, field State.pending⟩
  · have h : CommandStep n s t := by
      rcases hcases with h | h
      · unfold CommandStep
        rw [h]
        exact .refl n _
      · exact execKind_own (hbody ▸ h) (audOf_eq ha) hk
    obtain ⟨rest, packages⟩ := h
    exact ⟨rest.auds, rest.shold, rest.flash, rest.blocks, rest.load, rest.slot, rest.pageReg, rest.serialHigh, rest.scan, rest.phase,
      rest.threshold, rest.swi, rest.announces, rest.pending, packages⟩
  · have h : AirStep s t := hcases.elim (fun h => .of_offLink rfl h (.refl s)) fun h => execKind_air h hk
    obtain ⟨rest, auds⟩ := h
    have field {α : Type} (f : State → α) : f t.beyondAir = f s.beyondAir := congrArg f rest
    have own {α : Type} (n : Aud) (f : Auditorium → α) : f { t.aud n with air := (s.aud n).air } = f (s.aud n) := congrArg f (auds n)
    exact ⟨field State.packages, field State.flash, field State.blocks, field State.load, field State.slot, field State.flight,
      field State.queue, field State.notices, field State.shold, field State.pending, fun n =>
        ⟨own n Auditorium.input, own n Auditorium.ctx, own n Auditorium.text, own n Auditorium.sound, own n Auditorium.emit⟩⟩

end Sys2Proof.Machine

/-! ## The signals that start seeks: lock, jump and track-on (R92 c, d, i, R102) -/

namespace Sys2Proof.Machine

/-! ### A request that is outstanding -/

/-- A request waits or is in flight. -/
def State.Pends (s : State) (r : Request) : Prop := r ∈ s.queue ∨ ∃ f, s.flight = some f ∧ f.req = r

theorem request_pends (s : State) (r : Request) : (s.request r).Pends r := by
  obtain ⟨hidle, hbusy⟩ := request_goes s r
  by_cases hf : s.flight = none
  · exact .inr ⟨_, hidle hf, rfl⟩
  · exact .inl (hbusy hf).2

theorem withdraw_pends {s : State} {w : Requester} {r : Request} (hw : r.who ≠ w) (h : s.Pends r) : (s.withdraw w).Pends r :=
  h.imp_left fun hq => List.mem_filter.mpr ⟨hq, decide_eq_true hw⟩

theorem request_keeps_pends {s : State} {q r : Request} (hw : r.who ≠ q.who) (h : s.Pends r) : (s.request q).Pends r := by
  by_cases hf : s.flight = none
  · rcases h with h | ⟨f, hs, -⟩
    · refine .inl ?_
      unfold State.request
      simp only [State.withdraw, hf]
      rw [start_queue]
      exact List.mem_filter.mpr ⟨h, decide_eq_true hw⟩
    · rw [hf] at hs
      cases hs
  · rw [State.Pends, request_busy q hf]
    exact h.imp_left fun hq => List.mem_append_left _ (List.mem_filter.mpr ⟨hq, decide_eq_true hw⟩)

theorem request_engineInFlight {s : State} {q : Request} {n : Aud} {u : TextTrack} (hw : q.who ≠ .engine n u)
    (h : s.engineInFlight n u = false) : (s.request q).engineInFlight n u = false := by
  by_cases hf : s.flight = none
  · rw [State.engineInFlight, request_flight_idle q hf]
    exact decide_eq_false hw
  · rw [State.engineInFlight, request_busy q hf]
    exact h

/-! ### What a seek of other tracks leaves of a track's engine -/

/-- What an operation on the engines of the tracks of a list leaves: the settings that requests carry, and, of the engines of other tracks, their
content, their requests and whether a read of theirs is in flight. -/
structure Beside (n : Aud) (l : List TextTrack) (s t : State) : Prop where
  text : (t.aud n).ctx.text = (s.aud n).ctx.text
  pkg : (t.aud n).ctx.pkg = (s.aud n).ctx.pkg
  bindGen : (t.aud n).ctx.bindGen = (s.aud n).ctx.bindGen
  eng : ∀ u, u ∉ l → t.eng n u = s.eng n u
  pends : ∀ u, u ∉ l → ∀ r : Request, r.who = .engine n u → s.Pends r → t.Pends r
  idle : ∀ u, u ∉ l → s.engineInFlight n u = false → t.engineInFlight n u = false
  play : ∀ j, t.play n j = s.play n j

namespace Beside

variable {n : Aud} {l l' : List TextTrack} {s s' s'' t : State}

theorem refl (n : Aud) (l : List TextTrack) (s : State) : Beside n l s s :=
  ⟨rfl, rfl, rfl, fun _ _ => rfl, fun _ _ _ _ h => h, fun _ _ h => h, fun _ => rfl⟩

theorem trans (h : Beside n l s s') (k : Beside n l s' s'') : Beside n l s s'' where
  text := k.text.trans h.text
  pkg := k.pkg.trans h.pkg
  bindGen := k.bindGen.trans h.bindGen
  eng := fun u hu => (k.eng u hu).trans (h.eng u hu)
  pends := fun u hu r hr => k.pends u hu r hr ∘ h.pends u hu r hr
  idle := fun u hu => k.idle u hu ∘ h.idle u hu
  play := fun j => (k.play j).trans (h.play j)

theorem mono (h : Beside n l s t) (hl : ∀ u ∈ l, u ∈ l') : Beside n l' s t where
  text := h.text
  pkg := h.pkg
  bindGen := h.bindGen
  eng := fun u hu => h.eng u (hu ∘ hl u)
  pends := fun u hu => h.pends u (hu ∘ hl u)
  idle := fun u hu => h.idle u (hu ∘ hl u)
  play := h.play

/-- An operation of one engine that leaves the requests of the others. -/
theorem of_step {k : TextTrack} (step : EngineFrame n k s t) (pends : ∀ r : Request, r.who ≠ .engine n k → s.Pends r → t.Pends r)
    (idle : ∀ u, u ≠ k → s.engineInFlight n u = false → t.engineInFlight n u = false) : Beside n [k] s t where
  text := by rw [step.ctx]
  pkg := by rw [step.ctx]
  bindGen := by rw [step.ctx]
  eng := fun u hu => step.others u (by simpa using hu)
  pends := fun u hu r hr => pends r (by
    rw [hr]
    intro h
    cases h
    exact hu (List.mem_singleton_self k))
  idle := fun u hu => idle u (by simpa using hu)
  play := step.play n

/-- An operation of one engine that leaves the requests. -/
theorem of_same {k : TextTrack} (step : EngineFrame n k s t) (queue : t.queue = s.queue) (flight : t.flight = s.flight) : Beside n [k] s t :=
  of_step step (fun r _ h => by rw [State.Pends, queue, flight]; exact h) fun u _ h => by rw [State.engineInFlight, flight]; exact h

theorem modEng (s : State) (n : Aud) (k : TextTrack) (f : TrackEngine → TrackEngine) : Beside n [k] s (s.modEng n k f) :=
  of_same (modEng_engineFrame s n k f) rfl rfl

theorem dropWaiting (s : State) (n : Aud) (k : TextTrack) : Beside n [k] s (s.dropWaiting n k) := by
  refine of_step (dropWaiting_quietStep s n k).toEngineFrame (fun r hr h => ?_) fun u _ h => ?_
  · unfold State.dropWaiting
    split
    · exact withdraw_pends hr h
    · exact h
  · unfold State.dropWaiting
    split
    · exact h
    · exact h

theorem engineRead (s : State) (n : Aud) (k : TextTrack) (kind : ReadKind) (l need : Nat) : Beside n [k] s (s.engineRead n k kind l need) := by
  refine of_step (engineRead_quietStep s n k kind l need).toEngineFrame (fun r hr h => ?_) fun u hu h => ?_
  · exact request_keeps_pends hr h
  · refine request_engineInFlight (fun hw => hu ?_) h
    cases hw
    rfl

theorem fetchTest (s : State) (n : Aud) (k : TextTrack) : Beside n [k] s (s.fetchTest n k) := by
  unfold State.fetchTest
  dsimp only
  split
  · split
    · exact engineRead s n k _ _ _
    · exact refl n _ s
  · exact refl n _ s

theorem seekRead (s : State) (n : Aud) (k : TextTrack) : Beside n [k] s (s.seekRead n k) := by
  unfold State.seekRead
  dsimp only
  split
  · exact engineRead s n k _ _ _
  · exact refl n _ s

end Beside

theorem submitRestore_requests (n : Aud) (evs : List Event) :
    ∀ s : State, (s.submitRestore n evs).queue = s.queue ∧ (s.submitRestore n evs).flight = s.flight := by
  induction evs with
  | nil => exact fun _ => ⟨rfl, rfl⟩
  | cons ev evs ih =>
    intro s
    unfold State.submitRestore
    split
    · exact ih _
    · exact ⟨rfl, rfl⟩

theorem Beside.completeSeek (s : State) (n : Aud) (k : TextTrack) : Beside n [k] s (s.completeSeek n k) := by
  rw [completeSeek_eq]
  refine .trans (.trans (.modEng s n k TrackEngine.completed) ?_) (.fetchTest _ n k)
  generalize s.modEng n k TrackEngine.completed = v
  have hrequests : (v.restoreTrack n k).queue = v.queue ∧ (v.restoreTrack n k).flight = v.flight := by
    unfold State.restoreTrack
    split
    · exact ⟨rfl, rfl⟩
    · exact submitRestore_requests n _ v
  exact .of_same (restoreTrack_quietStep v n k).toEngineFrame hrequests.1 hrequests.2

theorem Beside.startSeek (s : State) (n : Aud) (k : TextTrack) (q : Nat) : Beside n [k] s (s.startSeek n k q) := by
  rw [startSeek_eq]
  have hs := Beside.modEng s n k (TrackEngine.seeking q)
  split
  · exact .trans (.trans (hs.trans (.dropWaiting _ n k)) (.modEng _ n k _)) (.completeSeek _ n k)
  · split
    · exact hs
    · exact hs.trans (.seekRead _ n k)

/-! ### The start of a seek (R102) -/

/-- An engine's own request changes its read outstanding alone: it is in flight at once on an idle store engine (R31). -/
theorem request_own {s : State} {n : Aud} {k : TextTrack} {r : Request} (h : r.who = .engine n k) :
    (s.request r).eng n k = if s.flight = none then { s.eng n k with out := some { kind := r.kind, inFlight := true } } else s.eng n k := by
  split
  · rename_i hf
    unfold State.request
    simp only [State.withdraw, hf]
    unfold State.start
    simp only [h]
    exact State.modEng_eng ..
  · rename_i hf
    rw [request_busy r hf]
    rfl

/-- A read of an engine is outstanding once it is requested. -/
theorem engineRead_asks (s : State) (n : Aud) (k : TextTrack) (kind : ReadKind) (l need : Nat) :
    (s.engineRead n k kind l need).AsksFor n k kind l need := by
  unfold State.engineRead
  dsimp only
  generalize hr : ({ who := .engine n k, op := .readLogical ((s.aud n).ctx.pkg.getD Config.packageIds) l, kind := kind, need := need
                     bindGen := (s.aud n).ctx.bindGen, seekCount := (s.eng n k).seekCount } : Request) = r
  generalize hv : s.modEng n k (fun e => { e with out := some { kind := kind, inFlight := false } }) = v
  have heng : v.eng n k = { s.eng n k with out := some { kind := kind, inFlight := false } } := by rw [← hv, State.modEng_eng]
  have hown : (v.request r).eng n k = _ := request_own (by rw [← hr])
  have hctx : ((v.request r).aud n).ctx = (s.aud n).ctx := by rw [(request_aud v r n).1, ← hv, State.modEng_aud_ctx]
  refine ⟨?_, fun id hid q hq => ?_⟩
  · rw [hown, heng]
    split <;> rfl
  · have hcount : ((v.request r).eng n k).seekCount = (s.eng n k).seekCount := by
      rw [hown, heng]
      split <;> rfl
    rw [hctx] at hid hq
    obtain rfl : q = r := by rw [hq, hcount, ← hr, hid]; rfl
    exact request_pends v q

theorem engineRead_own (s : State) (n : Aud) (k : TextTrack) (kind : ReadKind) (l need : Nat) :
    ∃ o, (s.engineRead n k kind l need).eng n k = { s.eng n k with out := o } := by
  unfold State.engineRead
  dsimp only
  rw [request_own rfl, State.modEng_eng]
  split
  · exact ⟨_, rfl⟩
  · exact ⟨_, rfl⟩

theorem submitRestore_eng (n : Aud) (k : TextTrack) (evs : List Event) : ∀ s : State, (s.submitRestore n evs).eng n k = s.eng n k := by
  induction evs with
  | nil => exact fun _ => rfl
  | cons ev evs ih =>
    intro s
    unfold State.submitRestore
    split
    · rw [ih]
      simp only [State.eng, State.modAir_aud_text]
    · simp only [State.overflow, State.eng, State.modAir_aud_text]

theorem restoreTrack_eng (s : State) (n : Aud) (k : TextTrack) : (s.restoreTrack n k).eng n k = s.eng n k := by
  unfold State.restoreTrack
  split
  · rfl
  · exact submitRestore_eng n k _ s

theorem fetchTest_of_ended {s : State} {n : Aud} {k : TextTrack} (h : (s.eng n k).state = .ended) : s.fetchTest n k = s := by
  unfold State.fetchTest
  dsimp only
  rw [if_neg]
  rw [h]
  exact fun hr => by cases hr.1

theorem lastIndexWhere_lt {α : Type} (p : α → Bool) {l : List α} : ∀ {i : Nat}, lastIndexWhere p l = some i → i < l.length := by
  induction l with
  | nil => exact fun h => by cases h
  | cons x xs ih =>
    intro i h
    unfold lastIndexWhere at h
    split at h
    · obtain rfl := Option.some.inj h
      exact Nat.succ_lt_succ (ih ‹_›)
    · split at h
      · obtain rfl := Option.some.inj h
        exact Nat.succ_pos _
      · cases h

/-- The starting entry of a seek (R102): the last whose first start tick lies 36,000 or more below, else the first. -/
theorem seekEntry_spec {e : TrackEngine} (q : Nat) (h : e.index ≠ []) : ∃ en, e.index[e.seekEntry q]? = some en
    ∧ (e.seekEntry q = 0 ∨ en.firstStart + 36000 ≤ q)
    ∧ ∀ j later, e.seekEntry q < j → e.index[j]? = some later → q < later.firstStart + 36000 := by
  unfold TrackEngine.seekEntry
  have hlater (j : Nat) (later : IndexEntry) (hj : e.index[j]? = some later) (hle : later.firstStart + 36000 ≤ q) :=
    lastIndexWhere_later (fun en : IndexEntry => decide (en.firstStart + Config.maxCueTicks ≤ q)) hj (decide_eq_true hle)
  cases hi : lastIndexWhere (fun en : IndexEntry => decide (en.firstStart + Config.maxCueTicks ≤ q)) e.index with
  | none =>
    obtain ⟨en, es, hes⟩ := List.exists_cons_of_ne_nil h
    refine ⟨en, by rw [hes]; rfl, .inl rfl, fun j later _ hj => ?_⟩
    by_contra hle
    obtain ⟨i, hi', -⟩ := hlater j later hj (by omega)
    rw [hi] at hi'
    cases hi'
  | some i =>
    have hlt : i < e.index.length := lastIndexWhere_lt _ hi
    refine ⟨e.index[i], List.getElem?_eq_getElem hlt, .inr ?_, fun j later hj hl => ?_⟩
    · exact of_decide_eq_true (lastIndexWhere_meets (fun en : IndexEntry => decide (en.firstStart + Config.maxCueTicks ≤ q)) hi
        (List.getElem?_eq_getElem hlt))
    · by_contra hle
      obtain ⟨i', hi', hji⟩ := hlater j later hl (by omega)
      rw [hi] at hi'
      cases hi'
      simp only [Option.getD_some] at hj
      omega

/-- A seek without pages ends at once, past the last cue (R102). -/
theorem startSeek_without_pages {s : State} {n : Aud} {k : TextTrack} (q : Nat) (h : (s.eng n k).index = []) :
    ∃ o, (s.startSeek n k q).eng n k = { s.eng n k with
      out := o, seekCount := wrap8 ((s.eng n k).seekCount + 1), look := [], active := [], seekPos := q, state := .ended, seek := none
      cursor := (s.eng n k).cueCount, cursorStart := none } := by
  rw [startSeek_eq, if_pos h, completeSeek_eq]
  obtain ⟨⟨o, ho⟩, -, -⟩ := dropWaiting_eq (s.modEng n k (TrackEngine.seeking q)) n k
  generalize (s.modEng n k (TrackEngine.seeking q)).dropWaiting n k = v at ho
  have hend : ((((v.modEng n k fun e => { e with cursor := e.cueCount, cursorStart := none }).modEng n k TrackEngine.completed).restoreTrack n k).eng
      n k) = { s.eng n k with
        out := none, seekCount := wrap8 ((s.eng n k).seekCount + 1), look := [], active := [], seekPos := q, state := .ended, seek := none
        cursor := (s.eng n k).cueCount, cursorStart := none } := by
    rw [restoreTrack_eng, State.modEng_eng, State.modEng_eng, ho, State.modEng_eng]
    unfold TrackEngine.completed TrackEngine.seeking TrackEngine.exhausted
    simp
  rw [fetchTest_of_ended (by rw [hend]), hend]
  exact ⟨_, rfl⟩

/-- A seek with pages is on, and its first read is requested unless one of the engine is in flight (R102). -/
theorem startSeek_with_pages {s : State} {n : Aud} {k : TextTrack} (q : Nat) (h : (s.eng n k).index ≠ []) :
    (∃ o, (s.startSeek n k q).eng n k = { (s.eng n k).seeking q with out := o })
      ∧ ∀ en, (s.eng n k).index[(s.eng n k).seekEntry q]? = some en → s.engineInFlight n k = false →
          (s.startSeek n k q).AsksFor n k .seek en.logical q := by
  have hs : (s.modEng n k (TrackEngine.seeking q)).eng n k = (s.eng n k).seeking q := State.modEng_eng ..
  obtain ⟨en, hen, -, -⟩ := seekEntry_spec q h
  have hread : (s.modEng n k (TrackEngine.seeking q)).seekRead n k = (s.modEng n k (TrackEngine.seeking q)).engineRead n k .seek en.logical q := by
    unfold State.seekRead
    rw [hs]
    have hentry : (((s.eng n k).seeking q).seek.map (·.entry)).bind (fun i => ((s.eng n k).seeking q).index[i]?) = some en := hen
    simp only [hentry]
    rfl
  have hflight : (s.modEng n k (TrackEngine.seeking q)).engineInFlight n k = s.engineInFlight n k := rfl
  rw [startSeek_eq, if_neg h, hflight, hread]
  by_cases hfl : s.engineInFlight n k = true
  · rw [if_pos hfl, hs]
    exact ⟨⟨_, rfl⟩, fun _ _ hno => absurd (hfl.symm.trans hno) (by decide)⟩
  · rw [if_neg hfl]
    refine ⟨?_, fun en' hen' _ => ?_⟩
    · obtain ⟨o, ho⟩ := engineRead_own (s.modEng n k (TrackEngine.seeking q)) n k .seek en.logical q
      exact ⟨o, by rw [ho, hs]⟩
    · obtain rfl := Option.some.inj (hen.symm.trans hen')
      exact engineRead_asks _ n k _ _ _

/-- The engine that has begun a seek at Q (R102), with its index and cue count. -/
theorem startSeek_seeks (s : State) (n : Aud) (k : TextTrack) (q : Nat) : s.SeeksTo (s.startSeek n k q) n k q
    ∧ ((s.startSeek n k q).eng n k).index = (s.eng n k).index ∧ ((s.startSeek n k q).eng n k).cueCount = (s.eng n k).cueCount := by
  by_cases h : (s.eng n k).index = []
  · obtain ⟨o, ho⟩ := startSeek_without_pages q h
    unfold State.SeeksTo
    rw [ho]
    exact ⟨⟨rfl, rfl, rfl, fun _ => ⟨rfl, rfl, rfl, rfl⟩, fun hne => absurd h hne⟩, rfl, rfl⟩
  · obtain ⟨⟨o, ho⟩, hasks⟩ := startSeek_with_pages q h
    obtain ⟨en, hen, hfirst, hlast⟩ := seekEntry_spec q h
    unfold State.SeeksTo
    rw [ho]
    exact ⟨⟨rfl, rfl, rfl, fun hno => absurd hno h, fun _ => ⟨rfl, rfl, _, en, rfl, hen, hfirst, hlast, hasks en hen⟩⟩, rfl, rfl⟩

/-! ### A seek among the steps before and after it -/

theorem asksFor_after {n : Aud} {l : List TextTrack} {t u : State} {k : TextTrack} {kind : ReadKind} {logical need : Nat} (h : Beside n l t u)
    (hk : k ∉ l) (ha : t.AsksFor n k kind logical need) : u.AsksFor n k kind logical need := by
  obtain ⟨hout, hpends⟩ := ha
  unfold State.AsksFor
  rw [h.eng k hk, h.pkg, h.bindGen]
  exact ⟨hout, fun id hid r hr => h.pends k hk r (by rw [hr]) (hpends id hid r hr)⟩

theorem seeksTo_after {n : Aud} {l : List TextTrack} {s t u : State} {k : TextTrack} {q : Nat} (h : Beside n l t u) (hk : k ∉ l)
    (hs : s.SeeksTo t n k q) : s.SeeksTo u n k q := by
  obtain ⟨hlook, hactive, hcount, hempty, hpages⟩ := hs
  unfold State.SeeksTo
  rw [h.eng k hk]
  refine ⟨hlook, hactive, hcount, hempty, fun hne => ?_⟩
  obtain ⟨hst, hpos, i, en, hseek, hen, hfirst, hlast, hasks⟩ := hpages hne
  exact ⟨hst, hpos, i, en, hseek, hen, hfirst, hlast, fun hidle => asksFor_after h hk (hasks hidle)⟩

theorem seeksTo_before {n : Aud} {l : List TextTrack} {s t u : State} {k : TextTrack} {q : Nat} (h : Beside n l s t) (hk : k ∉ l)
    (hs : t.SeeksTo u n k q) : s.SeeksTo u n k q := by
  obtain ⟨hlook, hactive, hcount, hempty, hpages⟩ := hs
  refine ⟨hlook, hactive, by rw [hcount, h.eng k hk], hempty, fun hne => ?_⟩
  obtain ⟨hst, hpos, i, en, hseek, hen, hfirst, hlast, hasks⟩ := hpages hne
  exact ⟨hst, hpos, i, en, hseek, hen, hfirst, hlast, fun hidle => hasks (h.idle k hk hidle)⟩

/-! ### The signal to every enabled track (R92 c, d) -/

/-- What a seek signal leaves that has met the enabled tracks of a list. -/
structure SoughtOn (n : Aud) (l : List TextTrack) (p : Nat) (s t : State) : Prop where
  beside : Beside n l s t
  told : ∀ k ∈ l, s.textOn n k = true → s.SeeksTo t n k (p + ((s.aud n).ctx.text.get k).lead) ∧ (t.eng n k).index = (s.eng n k).index
    ∧ (t.eng n k).cueCount = (s.eng n k).cueCount
  kept : ∀ k ∈ l, s.textOn n k = false → t.eng n k = s.eng n k

theorem foldl_seeks (n : Aud) (p : Nat) (l : List TextTrack) : ∀ s : State, l.Nodup →
    SoughtOn n l p s (l.foldl (fun s k => if s.textOn n k then State.textSeek p s n k else s) s) := by
  induction l with
  | nil => exact fun s _ => ⟨.refl n _ s, fun _ h => absurd h List.not_mem_nil, fun _ h => absurd h List.not_mem_nil⟩
  | cons u us ih =>
    intro s hl
    obtain ⟨hu, hus⟩ := List.nodup_cons.mp hl
    rw [List.foldl_cons]
    have hfirst : Beside n [u] s (if s.textOn n u then State.textSeek p s n u else s) := by
      split
      · exact .startSeek s n u _
      · exact .refl n _ s
    generalize hv : (if s.textOn n u then State.textSeek p s n u else s) = v at hfirst
    have hrest := ih v hus
    have hon (k : TextTrack) : v.textOn n k = s.textOn n k := by simp only [State.textOn, hfirst.text]
    have hnot (k : TextTrack) (hk : k ∈ us) : k ∉ [u] := by
      rw [List.mem_singleton]
      rintro rfl
      exact hu hk
    refine ⟨.trans (hfirst.mono (by simp)) (hrest.beside.mono fun _ => List.mem_cons_of_mem _), fun k hk hkon => ?_, fun k hk hkoff => ?_⟩
    · rcases List.mem_cons.mp hk with rfl | hk
      · rw [if_pos hkon] at hv
        obtain ⟨hseeks, hindex, hcount⟩ := startSeek_seeks s n k (p + ((s.aud n).ctx.text.get k).lead)
        rw [show s.startSeek n k _ = v from hv] at hseeks hindex hcount
        rw [hrest.beside.eng k hu]
        exact ⟨seeksTo_after hrest.beside hu hseeks, hindex, hcount⟩
      · obtain ⟨hseeks, hindex, hcount⟩ := hrest.told k hk ((hon k).trans hkon)
        rw [hfirst.text] at hseeks
        rw [hindex, hcount, hfirst.eng k (hnot k hk)]
        exact ⟨seeksTo_before hfirst (hnot k hk) hseeks, rfl, rfl⟩
    · rcases List.mem_cons.mp hk with rfl | hk
      · rw [if_neg (by simp [hkoff])] at hv
        rw [hrest.beside.eng k hu, ← hv]
      · rw [hrest.kept k hk ((hon k).trans hkoff), hfirst.eng k (hnot k hk)]

/-- A step that leaves the engines, the requests and what a request carries. -/
theorem Beside.of_tracks {n : Aud} {s t : State} (tracks : TrackFrame n s t) (pkg : (t.aud n).ctx.pkg = (s.aud n).ctx.pkg)
    (bindGen : (t.aud n).ctx.bindGen = (s.aud n).ctx.bindGen) (queue : t.queue = s.queue) (flight : t.flight = s.flight) : Beside n [] s t where
  text := tracks.enables
  pkg := pkg
  bindGen := bindGen
  eng := fun u _ => tracks.eng u
  pends := fun _ _ r _ h => by rw [State.Pends, queue, flight]; exact h
  idle := fun _ _ h => by rw [State.engineInFlight, flight]; exact h
  play := tracks.play

theorem soundSignal_ctx_requests (s : State) (n : Aud) (g : Playout → Playout) : ((s.soundSignal n g).aud n).ctx = (s.aud n).ctx
    ∧ (s.soundSignal n g).queue = s.queue ∧ (s.soundSignal n g).flight = s.flight :=
  ⟨(ShowFrame.soundSignal s n g).ctx n, rfl, rfl⟩

/-- The seek signal and a signal to the playout engines: every enabled text track seeks from P plus its lead. -/
theorem seekSignal_allSeek (s : State) (n : Aud) (p : Nat) (g : Playout → Playout) :
    s.AllSeekTo ((s.textSignal n (State.textSeek p)).soundSignal n g) n p
      ∧ ∀ k, ((s.textSignal n (State.textSeek p)).soundSignal n g).play n k = g (s.play n k) := by
  have hfold := foldl_seeks n p allText s (by decide)
  have hsought : SoughtOn n allText p s (s.textSignal n (State.textSeek p)) := hfold
  generalize s.textSignal n (State.textSeek p) = v at hsought
  obtain ⟨hctx, hqueue, hflight⟩ := soundSignal_ctx_requests v n g
  have heng (k : TextTrack) : (v.soundSignal n g).eng n k = v.eng n k := by simp only [State.eng, (soundSignal_rest v n g).2.1]
  refine ⟨⟨fun k hk => ?_, fun k hk => ?_⟩, fun k => ?_⟩
  · obtain ⟨hseeks, hindex, hcount⟩ := hsought.told k (mem_allText k) hk
    rw [heng]
    refine ⟨?_, hindex, hcount⟩
    unfold State.SeeksTo State.AsksFor at hseeks ⊢
    rw [heng, hctx, hqueue, hflight]
    exact hseeks
  · rw [heng]
    exact hsought.kept k (mem_allText k) hk
  · rw [soundSignal_play, hsought.beside.play]

/-- The seek signal, seen from a state before with the same tracks and requests, and after a step that leaves them. -/
theorem allSeekTo_of_beside {n : Aud} {s v u t : State} {p : Nat} (hv : Beside n [] s v) (h : v.AllSeekTo u n p) (ht : Beside n [] u t) :
    s.AllSeekTo t n p := by
  obtain ⟨told, kept⟩ := h
  have hon (k : TextTrack) : v.textOn n k = s.textOn n k := by simp only [State.textOn, hv.text]
  refine ⟨fun k hk => ?_, fun k hk => ?_⟩
  · obtain ⟨hseeks, hindex, hcount⟩ := told k ((hon k).trans hk)
    rw [hv.text] at hseeks
    rw [ht.eng k List.not_mem_nil, ← hv.eng k List.not_mem_nil]
    exact ⟨seeksTo_after ht List.not_mem_nil (seeksTo_before hv List.not_mem_nil hseeks), hindex, hcount⟩
  · rw [ht.eng k List.not_mem_nil, ← hv.eng k List.not_mem_nil]
    exact kept k ((hon k).trans hk)

/-- A discard of the blocks below a slot, and z and the state with it (R115). -/
theorem discard_repositioned (e : Playout) (target : Nat) (keep below : Nat → Bool) (st : PlayState) (h : ∀ x, keep x = !below x) :
    { e.discard keep with z := some ((target : Int) - 24), state := st } = e.repositioned target below st := by
  obtain rfl : keep = fun x => !below x := funext h
  unfold Playout.repositioned Playout.discard satAdd
  simp only [Bool.not_not]

/-- Lock, as the playout engines take it (R122 a). -/
theorem onLock_eq (e : Playout) (p target : Nat) (h : target = 24 * ((p + e.lead) / 24)) : e.onLock p =
    if e.state = .priming ∨ e.state = .frozen then e.repositioned target (fun stamp => decide ((stamp : Int) ≤ (target : Int) - 24)) .serving
    else e := by
  subst h
  unfold Playout.onLock
  split
  · have hkeep (z : Int) (x : Nat) : decide (z < (x : Int)) = !decide ((x : Int) ≤ z) := by
      rw [← decide_not]
      exact decide_eq_decide.mpr not_le.symm
    exact discard_repositioned e (24 * ((p + e.lead) / 24)) _ _ .serving (hkeep _)
  · rfl

/-- Jump, as the playout engines take it (R122 b). -/
theorem onJump_eq (e : Playout) (p target : Nat) (h : target = 24 * ((p + e.lead) / 24)) : e.onJump p =
    if e.state = .serving then e.repositioned target (fun stamp => decide (stamp < target)) .serving else e := by
  subst h
  unfold Playout.onJump
  split
  · rename_i hs
    have hkeep (target x : Nat) : decide (target ≤ x) = !decide (x < target) := by
      rw [← decide_not]
      exact decide_eq_decide.mpr not_lt.symm
    rw [← discard_repositioned e _ _ _ _ (hkeep _)]
    unfold Playout.moveTo Playout.discard
    rw [← hs]
    rfl
  · rfl

end Sys2Proof.Machine

/-! ## Acquisition (O30) -/

namespace Sys2Proof.Machine

/-! ### What a measurement leaves of the requests and the notices -/

theorem measured_requests (s : State) (n : Aud) (r : RateClass) :
    (s.measured n r).queue = s.queue ∧ (s.measured n r).flight = s.flight := by
  unfold State.measured State.measure
  dsimp only
  split
  · exact ⟨rfl, rfl⟩
  · split
    · exact ⟨rfl, rfl⟩
    · exact ⟨rfl, rfl⟩

theorem mem_of_mem_addNotice {src : Source} {k : NoticeKind} {d : List Byte} {ns : List Notice} {x : Notice} (h : x ∈ addNotice src k d ns)
    (hk : x.kind ≠ k) : x ∈ ns := (mem_addNotice h).resolve_left fun e => hk (noticeRank_inj e).2

/-- A measurement raises RATE_MISMATCH alone. -/
theorem measured_raises {s : State} {n : Aud} {r : RateClass} {x : Notice} (h : x ∈ (s.measured n r).notices) (hk : x.kind ≠ .rateMismatch) :
    x ∈ s.notices := by
  unfold State.measured State.measure at h
  dsimp only at h
  split at h
  · exact h
  · split at h
    · rw [State.raise_notices] at h
      exact mem_of_mem_addNotice h hk
    · exact h

theorem referred_requests (s : State) (n : Aud) : (s.referred n).queue = s.queue ∧ (s.referred n).flight = s.flight := by
  have hgauged : (s.gauged n).queue = s.queue ∧ (s.gauged n).flight = s.flight := by
    unfold State.gauged
    split
    · split
      · exact measured_requests s n _
      · exact ⟨rfl, rfl⟩
    · exact ⟨rfl, rfl⟩
  exact hgauged

theorem referred_raises {s : State} {n : Aud} {x : Notice} (h : x ∈ (s.referred n).notices) (hk : x.kind ≠ .rateMismatch) : x ∈ s.notices := by
  have hgauged : x ∈ (s.gauged n).notices := h
  unfold State.gauged at hgauged
  split at hgauged
  · split at hgauged
    · exact measured_raises hgauged hk
    · exact hgauged
  · exact hgauged

/-- A measured pulse is accepted with the test of its interval against the rate window (R51). -/
theorem acceptPulse_measured {s : State} {n : Aud} {r : RateClass} (hset : (s.aud n).input.ref = .set) (hr : (s.aud n).ctx.rate = some r) :
    s.acceptPulse n = s.accepted n (inWindow r (s.aud n).input.e) := by
  unfold State.acceptPulse State.accepted State.referred State.gauged
  simp only [hset, hr, decide_true, if_true]
  rfl

/-! ### The lock (R71, R92 c, R122 a) -/

/-- A lock before its signal: the context and LOCK_GAINED. -/
def State.locking (s : State) (n : Aud) : State :=
  (s.modCtx n fun x => { x with st := .locked, coast := 0, acquire := 0 }).raise (.aud n) .lockGained
    (u32 (s.aud n).ctx.c ++ u16 (s.aud n).input.pm)

theorem locking_ctx (s : State) (n : Aud) : ((s.locking n).aud n).ctx = { (s.aud n).ctx with st := .locked, coast := 0, acquire := 0 } := by
  rw [State.locking, raise_aud, State.modCtx_same]

theorem locking_frame (s : State) (n : Aud) : TrackFrame n s (s.locking n) := (TrackFrame.modCtx s n _ rfl).trans (.raise _ n _ _ _)

theorem gainLock_at_end {s : State} {n : Aud} (h : (s.aud n).ctx.c = (s.aud n).ctx.duration) : s.gainLock n = s.finish n := if_pos h

/-- Below D, at the date of a pulse, the lock is signalled at C. -/
theorem gainLock_eq {s : State} {n : Aud} (h : (s.aud n).ctx.c ≠ (s.aud n).ctx.duration) (hc : (s.aud n).ctx.c ≤ (s.aud n).ctx.duration)
    (he : (s.aud n).input.e = 0) : s.gainLock n
      = ((s.locking n).textSignal n (State.textSeek (s.aud n).ctx.c)).soundSignal n (Playout.onLock (s.aud n).ctx.c) := by
  have hpos : (s.locking n).position n = (s.aud n).ctx.c := by
    have hinput : ((s.locking n).aud n).input = (s.aud n).input := by rw [State.locking, raise_aud, State.modCtx_aud_input]
    rw [State.position, hinput, locking_ctx, he, position_running (.inl rfl), Nat.zero_mul, Nat.zero_div, Nat.min_zero]
    exact min_eq_left hc
  have hlocking : s.locking n = (s.modCtx n fun x => { x with st := .locked, coast := 0, acquire := 0 }).raise (.aud n) .lockGained
      (u32 ((s.modCtx n fun x => { x with st := .locked, coast := 0, acquire := 0 }).aud n).ctx.c
        ++ u16 ((s.modCtx n fun x => { x with st := .locked, coast := 0, acquire := 0 }).aud n).input.pm) := by
    rw [State.locking, State.modCtx_same]
  unfold State.gainLock
  dsimp only
  rw [if_neg h, ← hlocking, hpos]

section gainLock

variable {s : State} {n : Aud} (h : (s.aud n).ctx.c ≠ (s.aud n).ctx.duration) (hc : (s.aud n).ctx.c ≤ (s.aud n).ctx.duration)
  (he : (s.aud n).input.e = 0)
include h hc he

theorem gainLock_ctx : ((s.gainLock n).aud n).ctx = { (s.aud n).ctx with st := .locked, coast := 0, acquire := 0 } := by
  have hsignal (v : State) (p : Nat) : ShowFrame v ((v.textSignal n (State.textSeek p)).soundSignal n (Playout.onLock p)) :=
    (ShowFrame.textSignal v n _ fun s t => .textSeek p s n t).trans (.soundSignal _ n _)
  rw [gainLock_eq h hc he, (hsignal _ _).ctx, locking_ctx]

theorem gainLock_notices : (s.gainLock n).notices = addNotice (.aud n) .lockGained (u32 (s.aud n).ctx.c ++ u16 (s.aud n).input.pm) s.notices := by
  rw [gainLock_eq h hc he, (soundSignal_rest _ n _).1, textSignal_notices fun s t => textSeek_notices _ s n t, State.locking,
    State.raise_notices]
  rfl

theorem gainLock_locks : s.LocksTo (s.gainLock n) n (s.aud n).ctx.c := by
  obtain ⟨hseek, hplay⟩ := seekSignal_allSeek (s.locking n) n (s.aud n).ctx.c (Playout.onLock (s.aud n).ctx.c)
  rw [gainLock_eq h hc he]
  have hctx := locking_ctx s n
  have hbeside : Beside n [] s (s.locking n) := .of_tracks (locking_frame s n) (by rw [hctx]) (by rw [hctx]) rfl rfl
  refine ⟨allSeekTo_of_beside hbeside hseek (.refl n _ _), fun k target htarget => ?_⟩
  rw [hplay, (locking_frame s n).play, onLock_eq _ _ _ htarget]

end gainLock

/-- A lock, seen from a state before with the same tracks and requests, and after a step that leaves them. -/
theorem locksTo_of_beside {n : Aud} {s v u t : State} {p : Nat} (hv : Beside n [] s v) (h : v.LocksTo u n p) (ht : Beside n [] u t) :
    s.LocksTo t n p := by
  refine ⟨allSeekTo_of_beside hv h.1 ht, fun k target htarget => ?_⟩
  rw [ht.play, ← hv.play]
  exact h.2 k target (by rw [hv.play]; exact htarget)

theorem Beside.adopt (s : State) (n : Aud) : Beside n [] s (s.adopt n) :=
  .of_tracks (.adopt s n) (by rw [adopt_ctx]; rfl) (by rw [adopt_ctx]; rfl) rfl rfl

/-! ### A pulse in ACQUIRING (R70, R71) -/

/-- The context of a pulse in ACQUIRING: C, the acquire count, and a new frame (R68, R70). -/
def ShowCtx.acquired (x : ShowCtx) (c k : Nat) : ShowCtx := { x with c := c, acquire := k }.newFrame

theorem acquired_eq (x : ShowCtx) (c k : Nat) :
    x.acquired c k = { x with c := c, acquire := k, adv := (x.acquired c k).adv, k := (x.acquired c k).k } := newFrame_eq _

/-- The state of a pulse in ACQUIRING before a lock (R70). -/
def State.acquiring (s : State) (n : Aud) (c k : Nat) : State := (s.referred n).modCtx n fun x => x.acquired c k

theorem acquiring_ctx (s : State) (n : Aud) (c k : Nat) : ((s.acquiring n c k).aud n).ctx = (s.aud n).ctx.acquired c k := by
  rw [State.acquiring, State.modCtx_same, referred_ctx]

theorem acquiring_input (s : State) (n : Aud) (c k : Nat) : ((s.acquiring n c k).aud n).input = ((s.referred n).aud n).input := by
  rw [State.acquiring, State.modCtx_aud_input]

theorem acquiring_tracks (s : State) (n : Aud) (c k : Nat) : TrackFrame n s (s.acquiring n c k) :=
  (referred_tracks s n).trans (.modCtx _ n _ (by rw [acquired_eq]))

theorem acquiring_beside (s : State) (n : Aud) (c k : Nat) : Beside n [] s (s.acquiring n c k) := by
  obtain ⟨hqueue, hflight⟩ := referred_requests s n
  exact .of_tracks (acquiring_tracks s n c k) (by rw [acquiring_ctx, acquired_eq]) (by rw [acquiring_ctx, acquired_eq]) hqueue hflight

section acquiring

variable {s : State} {n : Aud} (h : (s.aud n).ctx.st = .acquiring)

/-- A pulse in ACQUIRING that gains no lock. -/
theorem acquiring_adopted {r : RateClass} (h : (s.aud n).ctx.st = .acquiring) (hr : (s.aud n).ctx.rate = some r) (c k : Nat) :
    ∀ t, t = (s.acquiring n c k).adopt n → (t.aud n).ctx.c = c ∧ (t.aud n).ctx.acquire = k ∧ (t.aud n).ctx.st = .acquiring
      ∧ (s.aud n).ctx.NewFrameTo (t.aud n).ctx r
      ∧ (t.aud n).text = (s.aud n).text ∧ (t.aud n).sound = (s.aud n).sound ∧ (t.aud n).air = (s.aud n).air := by
  rintro t rfl
  have htracks := (acquiring_tracks s n c k).trans (.adopt _ n)
  rw [adopt_ctx, acquiring_ctx]
  refine ⟨?_, ?_, ?_, newFrameTo_of_newFrame (z := { (s.aud n).ctx with c := c, acquire := k }) hr rfl rfl rfl, htracks.text, htracks.sound,
    htracks.air⟩ <;> rw [acquired_eq]
  · rfl
  · rfl
  · exact h

include h

theorem handPulse_acquiring (m w : Bool) (p : Nat) : (s.referred n).handPulse n m w p = (s.referred n).acquirePulse n m w p := by
  unfold State.handPulse
  rw [referred_ctx, h]

/-- An unmeasured pulse takes C from P. -/
theorem accepted_unset (hset : (s.aud n).input.ref ≠ .set) (w : Bool) : s.accepted n w = (s.acquiring n (s.position n) 0).adopt n := by
  rw [State.accepted, handPulse_acquiring h, decide_eq_false hset]
  rfl

theorem accepted_set_out (hset : (s.aud n).input.ref = .set) :
    s.accepted n false = (s.acquiring n (min ((s.aud n).ctx.c + (s.aud n).ctx.adv) (s.aud n).ctx.duration) 0).adopt n := by
  rw [State.accepted, handPulse_acquiring h, decide_eq_true hset]
  have hcount : ((s.referred n).modCtx n fun x => { x.countFrame with acquire := 0 }.newFrame)
      = s.acquiring n (min ((s.aud n).ctx.c + (s.aud n).ctx.adv) (s.aud n).ctx.duration) 0 := modCtx_congr (by rw [referred_ctx]; rfl)
  exact congrArg (State.adopt · n) hcount

theorem accepted_set_in (hset : (s.aud n).input.ref = .set) :
    ∀ v, v = s.acquiring n (min ((s.aud n).ctx.c + (s.aud n).ctx.adv) (s.aud n).ctx.duration) ((s.aud n).ctx.acquire + 1) →
    s.accepted n true = if 2 ≤ (s.aud n).ctx.acquire then (v.gainLock n).adopt n else v.adopt n := by
  rintro v hv
  have hcount : ((s.referred n).modCtx n fun x => { x.countFrame with acquire := x.acquire + 1 }.newFrame) = v := by
    rw [hv]
    refine modCtx_congr ?_
    rw [referred_ctx]
    rfl
  have hacquire : (v.aud n).ctx.acquire = (s.aud n).ctx.acquire + 1 := by rw [hv, acquiring_ctx, acquired_eq]
  rw [State.accepted, handPulse_acquiring h, decide_eq_true hset]
  unfold State.acquirePulse
  dsimp only
  rw [if_neg (by decide), if_neg (by decide), hcount, hacquire]
  by_cases h2 : 2 ≤ (s.aud n).ctx.acquire
  · rw [if_pos h2, if_pos (by omega)]
  · rw [if_neg h2, if_neg (by omega)]

end acquiring

/-! ### The third interval in a row (R71, R82) -/

section third

variable {s v : State} {n : Aud} {c k : Nat} (hv : v = s.acquiring n c k)
include hv

theorem third_at_end (hc : c = (s.aud n).ctx.duration) : s.FinishesTo ((v.gainLock n).adopt n) n
    ∧ ∀ x ∈ ((v.gainLock n).adopt n).notices, x.kind = .lockGained → x ∈ s.notices := by
  have hctx : (v.aud n).ctx = (s.aud n).ctx.acquired c k := by rw [hv, acquiring_ctx]
  have hdur : (v.aud n).ctx.duration = (s.aud n).ctx.duration := by rw [hctx, acquired_eq]
  rw [gainLock_at_end (by rw [hctx, acquired_eq]; exact hc)]
  refine ⟨finishesTo_adopt (hv ▸ acquiring_tracks s n c k) hdur (by rw [hctx, acquired_eq]), fun x hx hkind => ?_⟩
  rw [adopt_notices, finish_notices] at hx
  refine referred_raises (n := n) ?_ (by rw [hkind]; decide)
  rw [hv] at hx
  exact mem_of_mem_addNotice hx (by rw [hkind]; decide)

theorem third_below_end {r : RateClass} (hr : (s.aud n).ctx.rate = some r) (hc : c ≤ (s.aud n).ctx.duration)
    (hne : c ≠ (s.aud n).ctx.duration) : ∀ t, t = (v.gainLock n).adopt n →
    (t.aud n).ctx.c = c ∧ (t.aud n).ctx.st = .locked ∧ (t.aud n).ctx.acquire = 0 ∧ (t.aud n).ctx.coast = 0
      ∧ (s.aud n).ctx.NewFrameTo (t.aud n).ctx r
      ∧ (∃ x ∈ t.notices, x.source = .aud n ∧ x.kind = .lockGained ∧ x.detail = u32 c ++ u16 (t.aud n).input.pm)
      ∧ s.LocksTo t n c := by
  have hctx : (v.aud n).ctx = (s.aud n).ctx.acquired c k := by rw [hv, acquiring_ctx]
  have hcv : (v.aud n).ctx.c = c := by rw [hctx, acquired_eq]
  have hdur : (v.aud n).ctx.duration = (s.aud n).ctx.duration := by rw [hctx, acquired_eq]
  have hinput : (v.aud n).input = ((s.referred n).aud n).input := by rw [hv, acquiring_input]
  have he : (v.aud n).input.e = 0 := by rw [hinput, referred_input]
  have hne' : (v.aud n).ctx.c ≠ (v.aud n).ctx.duration := by rw [hcv, hdur]; exact hne
  have hle : (v.aud n).ctx.c ≤ (v.aud n).ctx.duration := by rw [hcv, hdur]; exact hc
  have hlock := gainLock_ctx hne' hle he
  rintro t rfl
  have ht : (((v.gainLock n).adopt n).aud n).ctx
      = ({ (s.aud n).ctx.acquired c k with st := .locked, coast := 0, acquire := 0 } : ShowCtx).adopted := by rw [adopt_ctx, hlock, hctx]
  rw [ht]
  refine ⟨by rw [acquired_eq]; rfl, rfl, rfl, rfl, ?_, ?_, ?_⟩
  · exact newFrameTo_of_newFrame (z := { (s.aud n).ctx with c := c, acquire := k }) hr rfl rfl rfl
  · rw [adopt_notices, gainLock_notices hne' hle he, hcv, adopt_input, (HandFrame.gainLock v n).input]
    exact addNotice_pending _ _ _ _
  · refine locksTo_of_beside (hv ▸ acquiring_beside s n c k) ?_ (.adopt _ n)
    rw [← hcv]
    exact gainLock_locks hne' hle he

end third

/-! ### The trigger -/

/-- The two ways to a candidate change the input unit alone. -/
theorem candidate_beside {n : Aud} {s : State} {i : Instr}
    (hi : (i = .framePulseRisingEdge n ∧ (s.aud n).input.filter = .low ∧ (s.aud n).input.wCurrent = 0)
      ∨ (i = .qualifyingCountReached n ∧ (s.aud n).input.filter = .qualifying)) (hst : (s.aud n).ctx.st ≠ .vacant) :
    ∃ v, Counted n s v ∧ Beside n [] s v ∧ exec i s = .next
      (if (v.aud n).input.ref = .set ∧ (v.aud n).input.e < (v.aud n).input.holdoff then
        v.raise (.aud n) .earlyPulse (u32 (v.aud n).input.e ++ u16 (v.aud n).input.holdoff)
      else v.acceptPulse n) := by
  have hbeside (f : InputUnit → InputUnit) : Beside n [] s (s.modInput n f) :=
    .of_tracks (.modInput s n f) (by rw [State.modInput_aud_ctx]) (by rw [State.modInput_aud_ctx]) rfl rfl
  rcases hi with ⟨rfl, hlow, hw⟩ | ⟨rfl, hq⟩
  · obtain ⟨v, hv, h⟩ := candidate_bound (fun u => { u with fp := true, filter := .high }) hst
    exact ⟨v, hv ▸ .modInput ⟨_, _, rfl⟩, hv ▸ hbeside _, congrArg Host.Outcome.next ((risingEdge_of_low_zero hlow hw).trans h)⟩
  · obtain ⟨v, hv, h⟩ := candidate_bound (fun u => { u with filter := .high, qualCount := u.qualLength }) hst
    exact ⟨v, hv ▸ .modInput ⟨_, _, rfl⟩, hv ▸ hbeside _, congrArg Host.Outcome.next ((qualify_of_qualifying hq).trans h)⟩

/-- Settles O30: an accepted pulse by the reference, the interval, and the acquire count. -/
theorem acquisitionGainsLock : Obligations.AcquisitionGainsLock := by
  unfold Obligations.AcquisitionGainsLock
  intro n s i r hi hst hr
  obtain ⟨v, hv, hbeside, hexec⟩ := candidate_beside hi (by rw [hst]; decide)
  obtain ⟨fp, q, hinput⟩ := hv.input
  have hctx := hv.ctx
  have hst' : (v.aud n).ctx.st = .acquiring := by rw [hctx, hst]
  have hr' : (v.aud n).ctx.rate = some r := by rw [hctx, hr]
  have hpos : v.position n = s.position n := by rw [State.position, State.position, hctx, hinput]
  have hheld (c k : Nat) := acquiring_adopted hst' hr' c k _ rfl
  rw [hctx, hv.tracks.text, hv.tracks.sound, hv.tracks.air] at hheld
  refine ⟨fun hset => ?_, fun hset hlate c hc => ?_⟩
  · have hset' : (v.aud n).input.ref ≠ .set := by rw [hinput]; exact hset
    obtain ⟨w, hw⟩ := acceptPulse_eq v n
    rw [if_neg fun h => hset' h.1, show v.acceptPulse n = v.accepted n w from hw, accepted_unset hst' hset', hpos] at hexec
    exact ⟨_, hexec, hheld _ 0⟩
  · have hset' : (v.aud n).input.ref = .set := by rw [hinput]; exact hset
    have he : (v.aud n).input.e = (s.aud n).input.e := by rw [hinput]
    have hhold : (v.aud n).input.holdoff = (s.aud n).input.pm / 2 := by rw [hinput]; rfl
    have hle : c ≤ (v.aud n).ctx.duration := by rw [hctx, hc]; exact min_le_right _ _
    rw [if_neg (by rw [he, hhold]; omega), acceptPulse_measured hset' hr', he] at hexec
    by_cases hin : r.lo ≤ (s.aud n).input.e ∧ (s.aud n).input.e ≤ r.hi
    · have haccept := accepted_set_in hst' hset' _ rfl
      rw [hctx, ← hc] at haccept
      rw [inWindow, decide_eq_true hin, haccept] at hexec
      have hout (p : Prop) : (s.aud n).input.e < r.lo ∨ r.hi < (s.aud n).input.e → p := by omega
      by_cases h2 : 2 ≤ (s.aud n).ctx.acquire
      · rw [if_pos h2] at hexec
        refine ⟨_, hexec, ?_⟩
        by_cases hend : c = (s.aud n).ctx.duration
        · obtain ⟨hfinish, hraised⟩ := third_at_end (s := v) (n := n) (c := c) (k := (s.aud n).ctx.acquire + 1) rfl (by rw [hctx]; exact hend)
          have hs := finishesTo_of_counted hv hfinish
          refine ⟨hs.2.1.trans hend.symm, hout _, fun _ _ => ⟨fun hlt => absurd h2 (by omega), fun _ _ => ⟨fun x hx _ hkind => ?_, hs.1, hs⟩,
            fun _ hne => absurd hend hne⟩⟩
          rw [← hv.notices]
          exact hraised x hx hkind
        · obtain ⟨hcc, hlocked, hk, hcoast, hframe, hnotice, hlock⟩ := third_below_end (s := v) (n := n) (c := c)
            (k := (s.aud n).ctx.acquire + 1) rfl hr' hle (by rw [hctx]; exact hend) _ rfl
          rw [hctx] at hframe
          refine ⟨hcc, hout _, fun _ _ => ⟨fun hlt => absurd h2 (by omega), fun _ he => absurd he hend, fun _ _ =>
            ⟨hlocked, hk, hcoast, hframe, hnotice, locksTo_of_beside hbeside hlock (.refl n _ _)⟩⟩⟩
      · rw [if_neg h2] at hexec
        obtain ⟨hcc, hk, hs, hframe, -⟩ := hheld c ((s.aud n).ctx.acquire + 1)
        exact ⟨_, hexec, hcc, hout _, fun _ _ => ⟨fun _ => ⟨hs, hk, hframe⟩, fun h => absurd h h2, fun h => absurd h h2⟩⟩
    · rw [inWindow, decide_eq_false hin, accepted_set_out hst' hset', hctx, ← hc] at hexec
      obtain ⟨hcc, hk, hs, hframe, -⟩ := hheld c 0
      exact ⟨_, hexec, hcc, fun _ => ⟨hs, hk, hframe⟩, fun hlo hhi => absurd ⟨hlo, hhi⟩ hin⟩

end Sys2Proof.Machine

/-! ## SHOW_START (O36) -/

namespace Sys2Proof.Machine

/-- A command's frame is taken: the tracks are as they were. -/
theorem TrackFrame.taken (n : Aud) (s : State) : TrackFrame n s s.taken := ⟨rfl, rfl, rfl, rfl⟩

/-- A discard of the blocks below a slot, as the playout engines move to it (R121 b). -/
theorem onStart_eq (e : Playout) (p target : Nat) (hst : e.state ≠ .off) (h : target = 24 * ((p + e.lead) / 24)) : e.onStart p =
    { e with
      state := .priming, z := some ((target : Int) - 24), queue := e.queue.filter fun b => decide (target ≤ b.stamp)
      discarded := min 65535 (e.discarded + (e.queue.filter fun b => decide (b.stamp < target)).length) } := by
  subst h
  have hbelow (a b : Nat) : (!decide (a ≤ b)) = decide (b < a) := by
    rw [← decide_not]
    exact decide_eq_decide.mpr not_le
  unfold Playout.onStart
  rw [if_neg hst]
  unfold Playout.moveTo Playout.discard satAdd
  simp only [hbelow]
  rfl

/-- A start before its signal: the context and the input unit (R81, R56 b). -/
def State.starting (s : State) (n : Aud) (at_ : Nat) : State :=
  (s.modCtx n fun x => { x with c := min at_ x.duration, k := 0, adv := x.ticks, coast := 0, acquire := 0, st := .acquiring }).modInput n
    (InputUnit.onStart (s.aud n).ctx.rate)

theorem startShow_eq (s : State) (n : Aud) (at_ : Nat) : s.startShow n at_
    = ((s.starting n at_).textSignal n State.textWait).soundSignal n (Playout.onStart (min at_ (s.aud n).ctx.duration)) := by
  unfold State.startShow State.starting
  dsimp only
  rw [State.modInput_aud_ctx, State.modCtx_same]

theorem starting_tracks (s : State) (n : Aud) (at_ : Nat) : TrackFrame n s (s.starting n at_) :=
  (TrackFrame.modCtx s n _ rfl).trans (.modInput _ n _)

theorem startShow_frame (s : State) (n : Aud) (at_ : Nat) : ShowFrame (s.starting n at_) (s.startShow n at_) := by
  rw [startShow_eq]
  exact (ShowFrame.textSignal _ n _ fun s t => .textWait s n t).trans (.soundSignal _ n _)

theorem startShow_ctx (s : State) (n : Aud) (at_ : Nat) : ((s.startShow n at_).aud n).ctx = { (s.aud n).ctx with
    c := min at_ (s.aud n).ctx.duration, k := 0, adv := (s.aud n).ctx.ticks, coast := 0, acquire := 0, st := .acquiring } := by
  rw [(startShow_frame s n at_).ctx, State.starting, State.modInput_aud_ctx, State.modCtx_same]

theorem startShow_input (s : State) (n : Aud) (at_ : Nat) :
    ((s.startShow n at_).aud n).input = (s.aud n).input.onStart (s.aud n).ctx.rate := by
  rw [(startShow_frame s n at_).input, State.starting, State.modInput_same, State.modCtx_same]

theorem startShow_notices (s : State) (n : Aud) (at_ : Nat) : (s.startShow n at_).notices = s.notices := by
  rw [startShow_eq, signal_notices _ fun s t => textWait_clears s n t]
  rfl

theorem startShow_signalled (s : State) (n : Aud) (at_ : Nat) :
    Signalled n TrackEngine.waited (Playout.onStart (min at_ (s.aud n).ctx.duration)) s (s.startShow n at_) := by
  rw [startShow_eq]
  exact .of_frames (starting_tracks s n at_) (signal_signalled _ (fun s t => textWait_clears s n t) _) (.refl n _)

/-- The CLEARs of a signal, by the enabled tracks. -/
theorem clears_of_signalled {n : Aud} {g : TrackEngine → TrackEngine} {h : Playout → Playout} {s t : State} (k : Signalled n g h s t)
    (hroom : (s.aud n).air.pend.length ≤ 28) : (t.aud n).air.pend = (s.aud n).air.pend ++ (allText.filter (s.textOn n)).map Event.clear :=
  k.clears hroom

theorem showStart_range {a : Byte} {pos : Nat} (h : 15 < a.toNat ∨ 2147483647 < pos) (s : State) : showStartAction a pos s = refused s .range := by
  unfold showStartAction
  split
  · rename_i n ha
    rcases h with h | h
    · rw [audOf_none h] at ha
      cases ha
    · exact if_pos h
  · rfl

theorem showStart_eq {a : Byte} {n : Aud} {pos : Nat} (ha : a.toNat = n.val) (hpos : pos ≤ 2147483647) (s : State) : showStartAction a pos s
    = if (s.aud n).ctx.st = .vacant ∨ (s.aud n).ctx.st = .binding then refused s .state else done (s.startShow n pos) .ok [] := by
  unfold showStartAction
  rw [audOf_eq ha]
  exact if_neg (show ¬ 2147483647 < pos by omega)

/-- Settles O36: the tests, and the start with its signal to the tracks. -/
theorem showStartBeginsAcquisition : Obligations.ShowStartBeginsAcquisition := by
  unfold Obligations.ShowStartBeginsAcquisition
  intro tag a p3 p2 p1 p0 s pos hs hpos
  have hexec : exec (.showStart tag [a, p3, p2, p1, p0]) s = .next (State.answer 0x34 tag (showStartAction a pos s.taken)) :=
    hpos ▸ congrArg Host.Outcome.next (take_runs s 0x34 tag false _ hs)
  refine ⟨fun h => by rw [hexec, showStart_range h, answer_refused], fun n ha hle => ⟨fun h => ?_, fun hv hb r hr => ?_⟩⟩
  · rw [hexec, showStart_eq ha hle, if_pos (by simpa using h), answer_refused]
  · rw [showStart_eq ha hle, if_neg (by simpa using ⟨hv, hb⟩), answer_done] at hexec
    have hsignal := (startShow_signalled s.taken n pos).of_frames (.taken n s) (.replied _ n 0x34 tag .ok [])
    refine ⟨_, hexec, replied_replyBuf .., ?_, ?_, ?_, fun k hk => ?_, fun k hk => ?_, fun k target hk ht => ?_, clears_of_signalled hsignal⟩
    · rw [replied_notices, startShow_notices]
      rfl
    · rw [replied_aud, startShow_ctx, taken_aud, ShowCtx.ticks_of_rate hr]
    · rw [replied_aud, startShow_input, taken_aud, hr]
      rfl
    · obtain ⟨o, ho⟩ := hsignal.told k hk
      rw [ho]
      exact ⟨rfl, rfl, rfl, rfl, rfl, rfl⟩
    · rw [hsignal.play, Playout.onStart, if_pos hk]
    · rw [hsignal.play]
      exact onStart_eq _ _ _ hk ht

end Sys2Proof.Machine

/-! ## SHOW_UNBIND (O35) -/

namespace Sys2Proof.Machine

/-- A further change of the engine after a signal's CLEAR. -/
theorem ClearStep.modEng {n : Aud} {t : TextTrack} {g : TrackEngine → TrackEngine} {s s' : State} (h : ClearStep n t g s s')
    (f : TrackEngine → TrackEngine) (hf : ∀ e o, f { e with out := o } = { f e with out := o })
    (hb : (s'.eng n t).Bounded → (f (s'.eng n t)).Bounded) : ClearStep n t (fun e => f (g e)) s (s'.modEng n t f) where
  step := h.step.trans (modEng_engineStep s' n t f hb)
  eng := by
    obtain ⟨o, ho⟩ := h.eng
    exact ⟨o, by rw [State.modEng_eng, ho, hf]⟩
  notices := h.notices
  pend := fun hroom => by rw [State.modEng_aud_air]; exact h.pend hroom

/-- The engine of a track that goes OFF (R92 g, h). -/
def TrackEngine.off (e : TrackEngine) : TrackEngine := { e with look := [], active := [], seek := none, state := .off }

theorem textOff_clears (s : State) (n : Aud) (t : TextTrack) : ClearStep n t TrackEngine.off s (s.textOff n t) := by
  have hclear : EngineStep n t s (((s.dropWaiting n t).modEng n t fun e => { e with look := [], active := [], seek := none }).submit n (.clear t)) :=
    ((dropWaiting_quietStep s n t).toEngineStep.trans (modEng_engineStep _ n t _ fun _ =>
      ⟨Nat.zero_le _, fun k hk => by cases hk⟩)).trans (submit_quietStep _ n t _).toEngineStep
  exact (ClearStep.of_submit (g := fun e => { e with look := [], active := [], seek := none }) (fun _ _ => rfl) hclear).modEng
    (fun e => { e with state := .off }) (fun _ _ => rfl) fun h => ⟨h.1, h.2⟩

/-- The engine of a track whose show is unbound (R92 g). -/
def TrackEngine.unbound (e : TrackEngine) : TrackEngine := { e.off with cursor := 0, cursorStart := none, cueCount := 0, index := [] }

theorem textUnbind_clears (s : State) (n : Aud) (t : TextTrack) : ClearStep n t TrackEngine.unbound s (s.textUnbind n t) :=
  (textOff_clears s n t).modEng (fun e => { e with cursor := 0, cursorStart := none, cueCount := 0, index := [] }) (fun _ _ => rfl) fun h =>
    ⟨h.1, h.2⟩

/-- The signal of an unbind, or the withdrawal of the bind's read (R67, R92 g, R123 c). -/
def State.unbindSignal (s : State) (n : Aud) (st : ShowState) : State :=
  if st = .binding then s.withdraw (.bind n) else (s.textSignal n State.textUnbind).soundSignal n Playout.onUnbind

theorem unbind_eq (s : State) (n : Aud) : s.unbind n
    = (((s.modCtx n ShowCtx.vacate).unbindSignal n (s.aud n).ctx.st).unbindCount ((s.aud n).ctx.pkg.getD Config.packageIds)).modInput n
        InputUnit.onVacant := rfl

theorem unbindSignal_frame (s : State) (n : Aud) (st : ShowState) : ShowFrame s (s.unbindSignal n st) :=
  .ite _ (fun _ => .withdraw _ _) fun _ => (ShowFrame.textSignal _ n _ fun s t => .textUnbind s n t).trans (.soundSignal _ n _)

theorem unbind_ctx (s : State) (n : Aud) : ((s.unbind n).aud n).ctx = (s.aud n).ctx.vacate := by
  rw [unbind_eq, State.modInput_aud_ctx, State.unbindCount, ((unbindSignal_frame _ n _).trans (.modPackage _ _ _)).ctx, State.modCtx_same]

theorem unbind_input (s : State) (n : Aud) : ((s.unbind n).aud n).input = (s.aud n).input.onVacant := by
  rw [unbind_eq, State.modInput_same, State.unbindCount, ((unbindSignal_frame _ n _).trans (.modPackage _ _ _)).input, State.modCtx_aud_input]

theorem unbindSignal_only (s : State) (n : Aud) (st : ShowState) : OnlyAud n s (s.unbindSignal n st) := by
  unfold State.unbindSignal
  split
  · exact withdraw_only n s _
  · exact (textSignal_only s n _ fun s t => textUnbind_only s n t).trans (soundSignal_only _ n _)

/-- The bind count falls by one. -/
theorem unbind_package {s : State} {n : Aud} {id : Nat} {p : Package} (hid : (s.aud n).ctx.pkg = some id) (hp : s.package id = some p) :
    (s.unbind n).package id = some { p with binds := p.binds - 1 } := by
  have hkept : ((s.modCtx n ShowCtx.vacate).unbindSignal n (s.aud n).ctx.st).package id = s.package id :=
    package_of_packages ((modCtx_only s n _).trans (unbindSignal_only _ n _)).packages id
  rw [unbind_eq, hid]
  show State.package (State.modPackage _ id _) id = _
  rw [package_modPackage _ _ _ (by intro; rfl), hkept, hp]
  rfl

/-- An unbind in BINDING withdraws the bind's read and leaves the air. -/
theorem unbind_binding {s : State} {n : Aud} (h : (s.aud n).ctx.st = .binding) :
    (∀ r ∈ (s.unbind n).queue, r.who ≠ .bind n) ∧ ((s.unbind n).aud n).air = (s.aud n).air := by
  rw [unbind_eq, h]
  refine ⟨fun r hr => ?_, ?_⟩
  · exact of_decide_eq_true (List.mem_filter.mp hr).2
  · rw [State.modInput_aud_air]
    exact State.modCtx_aud_air ..

theorem TrackFrame.unbindCount (s : State) (n : Aud) (id : Nat) : TrackFrame n s (s.unbindCount id) := ⟨rfl, rfl, rfl, rfl⟩

/-- An unbind from the other states signals the tracks. -/
theorem unbind_signalled {s : State} {n : Aud} (h : (s.aud n).ctx.st ≠ .binding) :
    Signalled n TrackEngine.unbound Playout.onUnbind s (s.unbind n) := by
  rw [unbind_eq, State.unbindSignal, if_neg h]
  exact .of_frames (.modCtx s n _ rfl) (signal_signalled _ (fun s t => textUnbind_clears s n t) _)
    ((TrackFrame.unbindCount _ n _).trans (.modInput _ n _))

/-- Settles O35: the vacant context, and the signal unless the show was in BINDING. -/
theorem showUnbindVacates : Obligations.ShowUnbindVacates := by
  unfold Obligations.ShowUnbindVacates
  intro tag a s hs
  have hexec : exec (.showUnbind tag [a]) s = .next (State.answer 0x33 tag (showUnbindAction a s.taken)) :=
    congrArg Host.Outcome.next (take_runs s 0x33 tag false _ hs)
  refine ⟨fun h => ?_, fun n ha => ?_⟩
  · rw [hexec, showUnbindAction, audOf_none h]
    exact congrArg Host.Outcome.next (answer_refused ..)
  have haction : showUnbindAction a s.taken
      = if (s.aud n).ctx.st = .vacant then refused s.taken .state else done (s.taken.unbind n) .ok [] := by
    unfold showUnbindAction
    rw [audOf_eq ha]
    rfl
  rw [hexec, haction]
  refine ⟨fun hv => by rw [if_pos hv, answer_refused], fun hv id p hid hp => ?_⟩
  rw [if_neg hv, answer_done]
  refine ⟨_, rfl, replied_replyBuf .., ?_⟩
  have hctx : (((s.taken.unbind n).replied 0x33 tag .ok []).aud n).ctx = (s.aud n).ctx.vacate := by rw [replied_aud, unbind_ctx, taken_aud]
  have hinput : (((s.taken.unbind n).replied 0x33 tag .ok []).aud n).input = (s.aud n).input.onVacant := by
    rw [replied_aud, unbind_input, taken_aud]
  rw [hctx, hinput, replied_package]
  refine ⟨rfl, rfl, rfl, rfl, rfl, rfl, rfl, rfl, rfl, rfl, rfl, rfl, unbind_package hid hp, rfl, rfl, rfl, rfl, fun hb => ?_, fun hb => ?_⟩
  · rw [replied_queue, replied_aud]
    exact unbind_binding (s := s.taken) hb
  · have hsignal := (unbind_signalled (s := s.taken) hb).of_frames (.taken n s) (.replied _ n 0x33 tag .ok [])
    refine ⟨fun k hk => ?_, fun k => ?_, clears_of_signalled hsignal⟩
    · obtain ⟨o, ho⟩ := hsignal.told k hk
      rw [ho]
      exact ⟨rfl, rfl, rfl⟩
    · rw [hsignal.play]
      exact ⟨rfl, rfl, rfl⟩

end Sys2Proof.Machine

/-! ## POSITION_REPORT (O37) -/

namespace Sys2Proof.Machine

/-! ### The jump (R79 c, R92 d, R122 b) -/

/-- A jump before its signal: the context, the restart of the time base, and JUMPED. -/
def State.jumping (s : State) (n : Aud) (r p : Nat) : State :=
  (((s.modCtx n fun x => { x with c := r }).modInput n InputUnit.restart).modCtx n fun x => { x with k := 0, adv := x.ticks }).raise (.aud n)
    .jumped (u32 r ++ u32 p ++ s32 ((r : Int) - p))

theorem restart_eq (u : InputUnit) : u.restart = { u with ref := if u.ref = .absent then .absent else .restarted, e := 0 } := by
  by_cases h : u.ref = .absent
  · cases u
    cases h
    rfl
  · rw [restart_of_ref h, if_neg h]

section jumping

variable (s : State) (n : Aud) (r p : Nat)

theorem jumping_ctx : ((s.jumping n r p).aud n).ctx = { (s.aud n).ctx with c := r, k := 0, adv := (s.aud n).ctx.ticks } := by
  rw [State.jumping, raise_aud, State.modCtx_same, State.modInput_aud_ctx, State.modCtx_same]
  rfl

theorem jumping_input : ((s.jumping n r p).aud n).input = (s.aud n).input.restart := by
  rw [State.jumping, raise_aud, State.modCtx_aud_input, State.modInput_same, State.modCtx_aud_input]

theorem jumping_notices : (s.jumping n r p).notices = addNotice (.aud n) .jumped (u32 r ++ u32 p ++ s32 ((r : Int) - p)) s.notices := rfl

theorem jumping_tracks : TrackFrame n s (s.jumping n r p) :=
  (((TrackFrame.modCtx s n _ rfl).trans (.modInput _ n _)).trans (.modCtx _ n _ rfl)).trans (.raise _ n _ _ _)

theorem jumping_beside : Beside n [] s (s.jumping n r p) :=
  .of_tracks (jumping_tracks s n r p) (by rw [jumping_ctx]) (by rw [jumping_ctx]) rfl rfl

variable {s n r p} (hrun : (s.aud n).ctx.st = .locked ∨ (s.aud n).ctx.st = .coasting) (hr : r ≤ (s.aud n).ctx.duration)

include hrun hr in
/-- The date of a jump is the new date: the time base has just begun. -/
theorem jumping_position : (s.jumping n r p).position n = r := by
  have he : (s.aud n).input.restart.e = 0 := by rw [restart_eq]
  rw [State.position, jumping_input, jumping_ctx, he, position_running (by exact hrun), Nat.zero_mul, Nat.zero_div, Nat.min_zero]
  exact min_eq_left hr

theorem jump_eq : s.jump n r p = if (s.jumping n r p).position n = (s.aud n).ctx.duration then (s.jumping n r p).finish n
    else ((s.jumping n r p).textSignal n (State.textSeek ((s.jumping n r p).position n))).soundSignal n
      (Playout.onJump ((s.jumping n r p).position n)) := by
  have hd : ((s.jumping n r p).aud n).ctx.duration = (s.aud n).ctx.duration := by rw [jumping_ctx]
  rw [← hd]
  rfl

include hrun hr

theorem jump_at_end (hend : r = (s.aud n).ctx.duration) : s.jump n r p = (s.jumping n r p).finish n := by
  rw [jump_eq, jumping_position hrun hr, if_pos hend]

theorem jump_below_end (hend : r ≠ (s.aud n).ctx.duration) : s.jump n r p
    = ((s.jumping n r p).textSignal n (State.textSeek r)).soundSignal n (Playout.onJump r) := by
  rw [jump_eq, jumping_position hrun hr, if_neg hend]

/-- A jump in the model's own terms: the date and the new frame, the restart, and JUMPED. -/
theorem jump_places : ∀ t, t = s.jump n r p → (t.aud n).ctx.c = r ∧ (t.aud n).ctx.k = 0 ∧ (t.aud n).ctx.adv = (s.aud n).ctx.ticks
    ∧ (t.aud n).input = (s.aud n).input.restart
    ∧ ∃ y ∈ t.notices, y.source = .aud n ∧ y.kind = .jumped ∧ y.detail = u32 r ++ u32 p ++ s32 ((r : Int) - p) := by
  rintro t rfl
  obtain ⟨y, hy, hsource, hkind, hdetail⟩ := addNotice_pending (.aud n) .jumped (u32 r ++ u32 p ++ s32 ((r : Int) - p)) s.notices
  by_cases hend : r = (s.aud n).ctx.duration
  · rw [jump_at_end hrun hr hend, finish_ctx, finish_input, finish_notices, jumping_ctx, jumping_input, jumping_notices]
    exact ⟨hend.symm, rfl, rfl, rfl, y, mem_addNotice_of_kind hy (by rw [hkind]; decide), hsource, hkind, hdetail⟩
  · have hsignal (v : State) : ShowFrame v ((v.textSignal n (State.textSeek r)).soundSignal n (Playout.onJump r)) :=
      (ShowFrame.textSignal v n _ fun s t => .textSeek r s n t).trans (.soundSignal _ n _)
    rw [jump_below_end hrun hr hend, (hsignal _).ctx, (hsignal _).input, jumping_ctx, jumping_input, (soundSignal_rest _ n _).1,
      textSignal_notices fun s t => textSeek_notices _ s n t, jumping_notices]
    exact ⟨rfl, rfl, rfl, rfl, y, hy, hsource, hkind, hdetail⟩

theorem jump_jumps (hend : r ≠ (s.aud n).ctx.duration) : ((s.jump n r p).aud n).ctx.st = (s.aud n).ctx.st ∧ s.JumpsTo (s.jump n r p) n r := by
  have hsignal (v : State) : ShowFrame v ((v.textSignal n (State.textSeek r)).soundSignal n (Playout.onJump r)) :=
    (ShowFrame.textSignal v n _ fun s t => .textSeek r s n t).trans (.soundSignal _ n _)
  obtain ⟨hseek, hplay⟩ := seekSignal_allSeek (s.jumping n r p) n r (Playout.onJump r)
  rw [jump_below_end hrun hr hend]
  refine ⟨by rw [(hsignal _).ctx, jumping_ctx], allSeekTo_of_beside (jumping_beside s n r p) hseek (.refl n _ _), fun k target htarget => ?_⟩
  rw [hplay, (jumping_tracks s n r p).play, onJump_eq _ _ _ htarget]

end jumping

/-- A jump, seen from a state before with the same tracks and requests, and after a step that leaves them. -/
theorem jumpsTo_of_beside {n : Aud} {s v u t : State} {p : Nat} (hv : Beside n [] s v) (h : v.JumpsTo u n p) (ht : Beside n [] u t) :
    s.JumpsTo t n p := by
  refine ⟨allSeekTo_of_beside hv h.1 ht, fun k target htarget => ?_⟩
  rw [ht.play, ← hv.play]
  exact h.2 k target (by rw [hv.play]; exact htarget)

/-! ### The report (R78 to R80) -/

/-- A finish in a command, seen from a state before with the same tracks. -/
theorem finishesTo_replied {n : Aud} {s v : State} (hv : TrackFrame n s v) (hd : (v.aud n).ctx.duration = (s.aud n).ctx.duration)
    (hr : (v.aud n).ctx.rate = (s.aud n).ctx.rate) (kind tag : Byte) (code : Code) (vals : List Byte) :
    s.FinishesTo ((v.finish n).replied kind tag code vals) n :=
  finishesTo_of_finish hv hd hr (.replied _ n _ _ _ _)
    ⟨(v.aud n).ctx.coastLimit, (v.aud n).ctx.slewWindow, by rw [replied_aud, finish_ctx]; rfl⟩ (replied_notices ..)

/-- A report of a date in range, in a state that takes one. -/
theorem positionReport_eq {a : Byte} {n : Aud} {pos : Nat} (ha : a.toNat = n.val) (hpos : pos ≤ 2147483647) (s : State) :
    positionReportAction a pos s
    = if (s.aud n).ctx.st = .vacant ∨ (s.aud n).ctx.st = .binding ∨ (s.aud n).ctx.st = .standby ∨ (s.aud n).ctx.st = .finished then
        refused s .state
      else if ((s.finishTest n).aud n).ctx.st = .finished then refused (s.finishTest n) .state
      else
        done ((s.finishTest n).report n (min pos (s.aud n).ctx.duration) (s.position n)).1 .ok
          (s32 ((min pos (s.aud n).ctx.duration : Nat) - (s.position n : Int))
            ++ u8 ((s.finishTest n).report n (min pos (s.aud n).ctx.duration) (s.position n)).2.code
            ++ flag (decide ((s.aud n).ctx.duration < pos))
            ++ s32 ((((s.finishTest n).report n (min pos (s.aud n).ctx.duration) (s.position n)).1.aud n).ctx.k)) := by
  unfold positionReportAction
  rw [audOf_eq ha]
  exact if_neg (show ¬ 2147483647 < pos by omega)

theorem positionReport_range {a : Byte} {pos : Nat} (h : 15 < a.toNat ∨ 2147483647 < pos) (s : State) :
    positionReportAction a pos s = refused s .range := by
  unfold positionReportAction
  split
  · rename_i n ha
    rcases h with h | h
    · rw [audOf_none h] at ha
      cases ha
    · exact if_pos h
  · rfl

/-- Without a finish, the report is answered. -/
theorem positionReport_done {a : Byte} {n : Aud} {pos r : Nat} {s : State} {delta : Int} (ha : a.toNat = n.val) (hpos : pos ≤ 2147483647)
    (hst : (s.aud n).ctx.st ≠ .vacant ∧ (s.aud n).ctx.st ≠ .binding ∧ (s.aud n).ctx.st ≠ .standby ∧ (s.aud n).ctx.st ≠ .finished)
    (hstay : s.finishTest n = s) (hr : r = min pos (s.aud n).ctx.duration) (hdelta : delta = (r : Int) - s.position n) :
    positionReportAction a pos s = done (s.report n r (s.position n)).1 .ok (s32 delta ++ u8 (s.report n r (s.position n)).2.code
      ++ flag (decide ((s.aud n).ctx.duration < pos)) ++ s32 (((s.report n r (s.position n)).1.aud n).ctx.k)) := by
  obtain ⟨hv, hb, hs, hf⟩ := hst
  rw [positionReport_eq ha hpos, hstay, if_neg (by simp [hv, hb, hs, hf]), if_neg hf, hdelta, hr]

/-- In ACQUIRING and HELD the position is set (R80). -/
theorem report_set {s : State} {n : Aud} (h : (s.aud n).ctx.st = .acquiring ∨ (s.aud n).ctx.st = .held) (r p : Nat) : s.report n r p
    = ((s.modCtx n fun y => { y with c := r, k := 0 }).modInput n fun u =>
        { u with ref := if u.ref = .absent then .absent else .restarted, e := 0 }, .set) := by
  have hrun : (s.aud n).ctx.st.running = false := by rcases h with h | h <;> rw [h] <;> rfl
  unfold State.report
  dsimp only
  rw [hrun, funext restart_eq]
  rfl

/-- In LOCKED and COASTING the difference decides (R79). -/
theorem report_running {s : State} {n : Aud} {r p : Nat} {delta : Int} (h : (s.aud n).ctx.st.running = true) (hdelta : delta = (r : Int) - p) :
    s.report n r p = if delta.natAbs ≤ (s.aud n).ctx.ticks then (s, .ignored)
      else if delta.natAbs ≤ (s.aud n).ctx.slewWindow * (s.aud n).ctx.ticks then (s.modCtx n fun y => { y with k := delta }, .slew)
      else (s.jump n r p, .jump) := by
  subst hdelta
  exact if_pos h

/-- Settles O37: the tests, the set of the states without a time base, and in the running ones the difference. -/
theorem positionReportIsApplied : Obligations.PositionReportIsApplied := by
  unfold Obligations.PositionReportIsApplied
  intro tag a p3 p2 p1 p0 s pos hs hpos
  have hexec : exec (.positionReport tag [a, p3, p2, p1, p0]) s = .next (State.answer 0x35 tag (positionReportAction a pos s.taken)) :=
    hpos ▸ congrArg Host.Outcome.next (take_runs s 0x35 tag false _ hs)
  refine ⟨fun h => by rw [hexec, positionReport_range h, answer_refused], ?_⟩
  rintro n x p r delta ha hle rfl rfl hr hdelta
  refine ⟨fun h => ?_, fun h => ?_, fun h => ⟨fun hend => ?_, fun hend => ?_⟩⟩
  · rw [hexec, positionReport_eq ha hle, taken_aud, if_pos h, answer_refused]
  · have hst : (s.aud n).ctx.st ≠ .vacant ∧ (s.aud n).ctx.st ≠ .binding ∧ (s.aud n).ctx.st ≠ .standby
        ∧ (s.aud n).ctx.st ≠ .finished := by
      rcases h with h | h <;> rw [h] <;> decide
    have hrun : ¬ (s.aud n).ctx.st.running = true := by rcases h with h | h <;> rw [h] <;> decide
    rw [hexec, positionReport_done (s := s.taken) ha hle hst (if_neg fun k => hrun k.1) hr hdelta, answer_done, report_set (s := s.taken) h]
    dsimp only
    rw [State.modInput_aud_ctx, State.modCtx_same]
    rfl
  · have hrun : (s.aud n).ctx.st.running = true := by rcases h with h | h <;> rw [h] <;> rfl
    have hfinish : s.taken.finishTest n = s.taken.finish n := if_pos ⟨hrun, hend⟩
    have hst : ¬ ((s.aud n).ctx.st = .vacant ∨ (s.aud n).ctx.st = .binding ∨ (s.aud n).ctx.st = .standby ∨ (s.aud n).ctx.st = .finished) := by
      rcases h with h | h <;> rw [h] <;> decide
    have hfinished : ((s.taken.finish n).aud n).ctx.st = .finished := by rw [finish_ctx]; rfl
    rw [hexec, positionReport_eq ha hle, taken_aud, if_neg hst, hfinish, if_pos hfinished, answer_refused]
    exact ⟨_, rfl, replied_replyBuf .., finishesTo_replied (.taken n s) rfl rfl ..⟩
  · have hrun : (s.aud n).ctx.st.running = true := by rcases h with h | h <;> rw [h] <;> rfl
    have hst : (s.aud n).ctx.st ≠ .vacant ∧ (s.aud n).ctx.st ≠ .binding ∧ (s.aud n).ctx.st ≠ .standby
        ∧ (s.aud n).ctx.st ≠ .finished := by
      rcases h with h | h <;> rw [h] <;> decide
    rw [hexec, positionReport_done (s := s.taken) ha hle hst (if_neg fun k => hend k.2) hr hdelta, answer_done,
      show s.taken.position n = s.position n from rfl, report_running (s := s.taken) hrun hdelta, taken_aud]
    refine ⟨fun hsmall => ?_, fun hbig hslew => ?_, fun hbig hwide => ?_⟩
    · rw [if_pos hsmall]
      rfl
    · rw [if_neg (Nat.not_le.mpr hbig), if_pos hslew]
      dsimp only
      rw [State.modCtx_same]
      rfl
    · have hrd : r ≤ (s.taken.aud n).ctx.duration := hr ▸ min_le_right _ _
      rw [if_neg (Nat.not_le.mpr hbig), if_neg (Nat.not_le.mpr hwide)]
      obtain ⟨hc, hk, hadv, hinput, y, hy, hsource, hkind, hdetail⟩ := jump_places (s := s.taken) (p := s.position n) h hrd _ rfl
      refine ⟨_, rfl, ?_, ?_⟩
      · rw [replied_replyBuf]
        dsimp only
        rw [hk]
        rfl
      · rw [replied_aud, hinput, restart_eq, replied_notices]
        refine ⟨hc, hk, hadv, rfl, rfl, fun hlast => ?_, fun hlast => ?_, y, hy, hsource, hkind, hdelta ▸ hdetail⟩
        · dsimp only
          rw [jump_at_end (s := s.taken) h hrd hlast]
          have hctx := jumping_ctx s.taken n r (s.position n)
          exact finishesTo_replied ((TrackFrame.taken n s).trans (jumping_tracks s.taken n r _)) (by rw [hctx]; rfl) (by rw [hctx]; rfl) ..
        · obtain ⟨hst, hjump⟩ := jump_jumps (s := s.taken) (p := s.position n) h hrd hlast
          exact ⟨hst, jumpsTo_of_beside (.of_tracks (.taken n s) rfl rfl rfl rfl) hjump (.of_tracks (.replied _ n _ _ _ _) (by rw [replied_aud])
            (by rw [replied_aud]) (replied_queue ..) (replied_flight ..))⟩

end Sys2Proof.Machine

/-! ## The index reads of a bind (O34) -/

namespace Sys2Proof.Machine

/-! ### The start of the next request, beside an auditorium -/

/-- An operation that starts leaves an auditorium whose engines wait for nothing. -/
theorem startNext_aud_same {s : State} {n : Aud} (h : ∀ r ∈ s.queue, ∀ k, r.who ≠ .engine n k) : s.startNext.aud n = s.aud n := by
  unfold State.startNext
  dsimp only
  split
  · rename_i r hr
    unfold State.start
    dsimp only
    split
    · rename_i m k hw
      have hne : n ≠ m := by
        rintro rfl
        exact h r (bestRequest_mem hr) k hw
      exact (modEng_only _ m k _).auds n hne
    · rfl
  · rfl

theorem startNext_packages_notices (s : State) : s.startNext.packages = s.packages ∧ s.startNext.notices = s.notices := by
  obtain ⟨-, hpackages, -, hnotices, -⟩ := startNext_keeps_rest s
  exact ⟨hpackages, hnotices⟩

/-! ### The read of a bind and the engine behind it (R66) -/

theorem bindRead_ctx (v : State) (n : Aud) : ∃ asked, ((v.bindRead n).aud n).ctx = { (v.aud n).ctx with bindAsked := asked } := by
  unfold State.bindRead
  dsimp only
  split
  · exact ⟨true, by rw [(request_aud _ _ n).1, State.modCtx_same]⟩
  · exact ⟨(v.aud n).ctx.bindAsked, rfl⟩

theorem bindRead_asked {v : State} {n : Aud} {r : BindRead} {rest : List BindRead} (hr : (v.aud n).ctx.bindTodo = r :: rest) :
    ((v.bindRead n).aud n).ctx = { (v.aud n).ctx with bindAsked := true } := by
  have hread : v.bindRead n = (v.modCtx n fun x => { x with bindAsked := true }).request
      (bindRequest n ((v.aud n).ctx.pkg.getD Config.packageIds) r.position (v.aud n).ctx.bindGen) := by
    unfold State.bindRead
    simp only [hr]
    rfl
  rw [hread, (request_aud _ _ n).1, State.modCtx_same]

/-- Behind the operation that ends, the read of a bind is outstanding. -/
theorem bindRead_pends {v : State} {n : Aud} {r : BindRead} {rest : List BindRead} {id : Nat} (hr : (v.aud n).ctx.bindTodo = r :: rest)
    (hid : (v.aud n).ctx.pkg = some id) (hbusy : v.flight ≠ none) :
    ((v.bindRead n).startNext).Pends (bindRequest n id r.position (v.aud n).ctx.bindGen) := by
  rw [bindRead_eq hr hid]
  have hqueue := request_busy (s := v.modCtx n fun x => { x with bindAsked := true }) (bindRequest n id r.position (v.aud n).ctx.bindGen) hbusy
  have hmem := request_mem (s := v.modCtx n fun x => { x with bindAsked := true }) (bindRequest n id r.position (v.aud n).ctx.bindGen) hbusy
  refine (startNext_keeps_request hmem fun x hx hw => ?_).elim (fun h => .inr ⟨_, h, rfl⟩) .inl
  rw [hqueue] at hx
  rcases List.mem_append.mp hx with hx | hx
  · exact absurd hw (of_decide_eq_true (List.mem_filter.mp hx).2)
  · exact List.mem_singleton.mp hx

theorem bound_queue (s : State) (n : Aud) : (s.bound n).queue = s.queue := by
  rw [bound_eq]
  obtain ⟨au, hau⟩ := textsBound_eq n allText (s.standby n)
  obtain ⟨au', hau'⟩ := soundsBound_eq n { (s.aud n).ctx with st := .standby } allSound ((s.standby n).textsBound n allText)
  rw [hau', hau]
  rfl

/-- The bound signal, before a step that leaves the auditorium and the notices. -/
theorem bindsTo_after {n : Aud} {s u t : State} (h : s.BindsTo u n) (haud : t.aud n = u.aud n) (hnotices : t.notices = u.notices) :
    s.BindsTo t n := by
  unfold State.BindsTo State.eng State.play at h ⊢
  rw [haud, hnotices]
  exact h

/-! ### The completion (R66) -/

section done

variable {s : State} {n : Aud} {f : Flight} {errs : Nat}

theorem exec_bindIndexReadDone (errs : Nat) (hf : s.flight = some f) (hw : f.req.who = .bind n) :
    exec (.bindIndexReadDone errs) s = .next (s.bindReadDone f n errs).startNext := by
  simp only [exec, execBindIndexReadDone, hf, hw]
  rfl

theorem bindReadDone_idle_show (h : (s.aud n).ctx.st ≠ .binding) : s.bindReadDone f n errs = s.graded f errs := by
  unfold State.bindReadDone
  dsimp only
  rw [graded_aud, if_neg fun k => h k.1, if_neg fun k => h k.1]

theorem bindReadDone_earlier (h : (s.aud n).ctx.st = .binding) (hg : f.req.bindGen ≠ (s.aud n).ctx.bindGen) : s.bindReadDone f n errs
    = if (s.aud n).ctx.bindAsked = false then (s.graded f errs).bindRead n else s.graded f errs := by
  unfold State.bindReadDone
  dsimp only
  rw [graded_aud, if_neg fun k => hg k.2]
  simp only [h, true_and]

/-- The state with a page's entries in the track's index. -/
def State.indexed (s : State) (n : Aud) (r : BindRead) (rest : List BindRead) (es : List IndexEntry) : State :=
  s.modCtx n fun x => { x with index := x.index.set r.track.val (x.index.get r.track ++ es) r.track.isLt, bindTodo := rest }

variable (h : (s.aud n).ctx.st = .binding) (hg : f.req.bindGen = (s.aud n).ctx.bindGen)
include h hg

theorem bindReadDone_page {r : BindRead} {rest : List BindRead} (herrs : errs ≤ 4) (hr : (s.aud n).ctx.bindTodo = r :: rest) :
    ∀ v, v = (s.graded f errs).indexed n r rest (indexEntries r.entries (readBytes s.flash f.addr)) →
      s.bindReadDone f n errs = if rest = [] then v.bound n else v.bindRead n := by
  rintro v rfl
  unfold State.bindReadDone
  dsimp only
  rw [graded_aud, if_pos ⟨h, hg⟩, if_pos (show readable errs = true from decide_eq_true herrs), hr, graded_flash]
  rfl

theorem bindReadDone_lost (herrs : 4 < errs) : s.bindReadDone f n errs = (s.graded f errs).bindFail n := by
  unfold State.bindReadDone
  dsimp only
  rw [graded_aud, if_pos ⟨h, hg⟩, if_neg (by simp only [readable, decide_eq_true_eq]; omega)]

end done

/-! ### A failed bind -/

section fail

variable (s : State) (n : Aud)

theorem bindFail_ctx : ((s.bindFail n).aud n).ctx = (s.aud n).ctx.vacate := by
  unfold State.bindFail
  dsimp only
  rw [raise_aud, State.modInput_aud_ctx]
  exact congrArg Auditorium.ctx (State.modCtx_same s n ShowCtx.vacate)

theorem bindFail_input : ((s.bindFail n).aud n).input = (s.aud n).input.onVacant := by
  unfold State.bindFail
  dsimp only
  rw [raise_aud, State.modInput_same]
  exact congrArg InputUnit.onVacant (State.modCtx_aud_input ..)

theorem bindFail_notices : (s.bindFail n).notices
    = addNotice (.aud n) .bindDone (u8 ((s.aud n).ctx.pkg.getD 0) ++ u8 (s.aud n).ctx.bindGen ++ u8 1) s.notices := rfl

theorem bindFail_package {id : Nat} {p : Package} (hid : (s.aud n).ctx.pkg = some id) (hp : s.package id = some p) :
    (s.bindFail n).package id = some { p with binds := p.binds - 1 } := by
  unfold State.bindFail
  dsimp only
  rw [hid]
  show State.package (State.modPackage (s.modCtx n ShowCtx.vacate) id _) id = _
  rw [package_modPackage _ _ _ (by intro; rfl), show (s.modCtx n ShowCtx.vacate).package id = s.package id from rfl, hp]
  rfl

end fail

/-- Settles O34: a completion by the show's state, the bind generation, and whether the page is read. -/
theorem bindReadsFillTheIndex : Obligations.BindReadsFillTheIndex := by
  unfold Obligations.BindReadsFillTheIndex
  intro n errs s f asks hf hw hqueue hasks
  have hexec := exec_bindIndexReadDone errs hf hw
  have hgpkg : (s.graded f errs).packages = s.packages := (graded_rest s f errs).1
  have hgflight : (s.graded f errs).flight ≠ none := by
    obtain ⟨-, -, -, hflight⟩ := graded_rest s f errs
    rw [hflight, hf]
    exact Option.some_ne_none f
  rw [hexec]
  refine ⟨fun h => ?_, fun h hg => ?_, fun h hg => ⟨fun r rest herrs hr => ?_, fun herrs id p hid hp => ?_⟩⟩
  · rw [bindReadDone_idle_show h]
    exact ⟨_, rfl, by rw [(startNext_aud _ n).1, graded_aud], by rw [(startNext_packages_notices _).1, hgpkg]⟩
  · rw [bindReadDone_earlier h hg]
    split
    · obtain ⟨asked, hctx⟩ := bindRead_ctx (s.graded f errs) n
      rw [graded_aud] at hctx
      refine ⟨_, rfl, ?_, by rw [(startNext_aud _ n).1, hctx], fun r rest _ hr => ?_⟩
      · rw [(startNext_packages_notices _).1, (BindStep.bindRead _ n).packages, hgpkg]
      · have hr' : ((s.graded f errs).aud n).ctx.bindTodo = r :: rest := by rw [graded_aud, hr]
        refine (hasks _ r).mpr ⟨by rw [(startNext_aud _ n).1, bindRead_asked hr'], fun id hid q hq => ?_⟩
        have hpends := bindRead_pends hr' (by rw [graded_aud, hid]) hgflight
        rw [graded_aud] at hpends
        exact hq ▸ hpends
    · rename_i hasked
      refine ⟨_, rfl, by rw [(startNext_packages_notices _).1, hgpkg], by rw [(startNext_aud _ n).1, graded_aud], fun r rest hno => ?_⟩
      exact absurd hno hasked
  · have hdone := bindReadDone_page h hg herrs hr _ rfl
    generalize hv : (s.graded f errs).indexed n r rest (indexEntries r.entries (readBytes s.flash f.addr)) = v at hdone
    have haud : v.aud n = { s.aud n with ctx := { (s.aud n).ctx with
        index := (s.aud n).ctx.index.set r.track.val
          ((s.aud n).ctx.index.get r.track ++ indexEntries r.entries (readBytes s.flash f.addr)) r.track.isLt
        bindTodo := rest } } := by
      rw [← hv, State.indexed, State.modCtx_same, graded_aud]
    have hqueue' : v.queue = s.queue := by
      obtain ⟨-, hkept, -⟩ := graded_host s f errs
      rw [← hv]
      exact hkept
    have hflight' : v.flight ≠ none := by rw [← hv]; exact hgflight
    have hindex (u : State) (hu : (u.aud n).ctx.index = (v.aud n).ctx.index) :
        (u.aud n).ctx.index.get r.track = (s.aud n).ctx.index.get r.track ++ indexEntries r.entries (readBytes s.flash f.addr)
          ∧ ∀ k, k ≠ r.track → (u.aud n).ctx.index.get k = (s.aud n).ctx.index.get k := by
      rw [hu, haud]
      exact ⟨Vector.getElem_set_self _, fun k hk => Vector.getElem_set_ne r.track.isLt k.isLt fun e => hk (Fin.ext e.symm)⟩
    rw [hdone]
    by_cases hrest : rest = []
    · rw [if_pos hrest]
      have haud' : (v.bound n).startNext.aud n = (v.bound n).aud n := startNext_aud_same (by rw [bound_queue, hqueue']; exact hqueue)
      have hbound := congrArg Auditorium.ctx (bound_boundTo v n).aud
      dsimp only at hbound
      obtain ⟨hget, hother⟩ := hindex (v.bound n).startNext (by rw [haud', hbound])
      refine ⟨_, rfl, by rw [haud', hbound, haud], hget, hother, fun _ => ?_, fun next later hne => ?_⟩
      · exact bindsTo_after (bindsTo_of_bound (by rw [haud])) haud' (startNext_packages_notices _).2
      · rw [hrest] at hne
        cases hne
    · rw [if_neg hrest]
      obtain ⟨next, later, rfl⟩ := List.exists_cons_of_ne_nil hrest
      have hnext : (v.aud n).ctx.bindTodo = next :: later := by rw [haud]
      have hctx : ((v.bindRead n).startNext.aud n).ctx = { (v.aud n).ctx with bindAsked := true } := by
        rw [(startNext_aud _ n).1, bindRead_asked hnext]
      obtain ⟨hget, hother⟩ := hindex (v.bindRead n).startNext (by rw [hctx])
      refine ⟨_, rfl, by rw [hctx, haud], hget, hother, fun hno => absurd hno hrest, fun r' later' hrest' => ?_⟩
      obtain ⟨rfl, -⟩ := List.cons.inj hrest'
      refine ⟨by rw [hctx, haud]; exact h, (hasks _ _).mpr ⟨by rw [hctx], fun id hid q hq => ?_⟩⟩
      have hpends := bindRead_pends hnext (id := id) (by rw [haud]; exact hid) hflight'
      rw [haud] at hpends
      exact hq ▸ hpends
  · rw [bindReadDone_lost h hg herrs]
    have hid' : ((s.graded f errs).aud n).ctx.pkg = some id := by rw [graded_aud, hid]
    have hp' : (s.graded f errs).package id = some p := (package_of_packages hgpkg id).trans hp
    obtain ⟨hctx, -, -, hinput, -⟩ := startNext_aud ((s.graded f errs).bindFail n) n
    rw [bindFail_ctx, graded_aud] at hctx
    rw [bindFail_input, graded_aud] at hinput
    refine ⟨_, rfl, by rw [hctx]; rfl, by rw [hctx]; rfl, ?_, by rw [hinput]; rfl, by rw [hinput]; rfl, ?_⟩
    · rw [package_of_packages (startNext_packages_notices _).1, bindFail_package _ n hid' hp']
    · rw [(startNext_packages_notices _).2, bindFail_notices, graded_aud, hid]
      exact addNotice_pending _ _ _ _

end Sys2Proof.Machine

/-! ## TRACK_SET (O38) -/

namespace Sys2Proof.Machine

/-! ### The bodies of the command (R85) -/

theorem textOf_eq {b : Byte} {k : TextTrack} (h : b.toNat = k.val) : textOf b = some k := by
  unfold textOf
  rw [dif_pos (h ▸ k.isLt)]
  exact congrArg some (Fin.ext h)

theorem soundOf_eq {b : Byte} {k : SoundTrack} (h : b.toNat = k.val) : soundOf b = some k := by
  unfold soundOf
  rw [dif_pos (h ▸ k.isLt)]
  exact congrArg some (Fin.ext h)

theorem trackSet_range {a kd tr e l : Byte} (h : 15 < a.toNat ∨ 1 < kd.toNat ∨ (kd = 0 ∧ 3 < tr.toNat) ∨ (kd = 1 ∧ 1 < tr.toNat)
    ∨ 1 < e.toNat ∨ 240 < l.toNat) (s : State) : trackSetAction a kd tr e l s = refused s .range := by
  unfold trackSetAction
  split
  · rename_i n set ha hset
    have ha' := audOf_lt ha
    have hset' := settingOf_within hset
    dsimp only
    rcases h with h | h | ⟨rfl, h⟩ | ⟨rfl, h⟩ | h
    · omega
    · rw [if_neg (by omega), if_neg (by omega)]
    · rw [textOf, dif_neg (by omega)]
      rfl
    · rw [soundOf, dif_neg (by omega)]
      rfl
    · omega
  · rfl

theorem trackSet_text {a tr e l : Byte} {n : Aud} {k : TextTrack} {set : TrackSetting} (ha : a.toNat = n.val) (hk : tr.toNat = k.val)
    (hset : settingOf e l = some set) (s : State) : trackSetAction a 0 tr e l s
    = if (s.aud n).ctx.st = .vacant then refused s .state else if (s.aud n).ctx.textCount ≤ k.val then refused s .range
      else done (s.setText n k set) .ok [] := by
  unfold trackSetAction
  rw [audOf_eq ha, hset, textOf_eq hk]
  rfl

theorem trackSet_sound {a tr e l : Byte} {n : Aud} {k : SoundTrack} {set : TrackSetting} (ha : a.toNat = n.val) (hk : tr.toNat = k.val)
    (hset : settingOf e l = some set) (s : State) : trackSetAction a 1 tr e l s
    = if (s.aud n).ctx.st = .vacant then refused s .state else if (s.aud n).ctx.soundCount ≤ k.val then refused s .range
      else done (s.setSound n k set) .ok [] := by
  unfold trackSetAction
  rw [audOf_eq ha, hset, soundOf_eq hk]
  rfl

/-! ### A text track (R85, R92 h, i) -/

/-- A text track's enable and lead are recorded. -/
def State.recordText (s : State) (n : Aud) (k : TextTrack) (set : TrackSetting) : State :=
  s.modCtx n fun x => { x with text := x.text.set k.val set k.isLt }

section text

variable (s : State) (n : Aud) (k : TextTrack) (set : TrackSetting)

theorem recordText_aud : (s.recordText n k set).aud n
    = { s.aud n with ctx := { (s.aud n).ctx with text := (s.aud n).ctx.text.set k.val set k.isLt } } := State.modCtx_same ..

theorem recordText_position : (s.recordText n k set).position n = s.position n := by
  rw [State.position, State.position, recordText_aud]
  rfl

variable {s n k set}

theorem setText_same (h : ((s.aud n).ctx.text.get k).enabled = set.enabled) : s.setText n k set = s.recordText n k set := by
  unfold State.setText
  dsimp only
  rw [h, if_neg (by cases set.enabled <;> decide), if_neg (by cases set.enabled <;> simp)]
  rfl

theorem setText_off (hold : ((s.aud n).ctx.text.get k).enabled = true) (hnew : set.enabled = false) :
    s.setText n k set = (s.recordText n k set).textOff n k := if_pos ⟨hold, hnew⟩

theorem setText_on (hold : ((s.aud n).ctx.text.get k).enabled = false) (hnew : set.enabled = true) : s.setText n k set
    = if (s.aud n).ctx.st ≠ .binding then State.textOnSignal (s.position n) ((s.recordText n k set).finishTest n) n k
      else s.recordText n k set := by
  have hst : ((s.recordText n k set).aud n).ctx.st = (s.aud n).ctx.st := by rw [recordText_aud]
  rw [← recordText_position s n k set, ← hst]
  unfold State.setText
  dsimp only
  rw [hold, hnew, if_neg (by decide)]
  simp only [true_and]
  rfl

/-- The finish test that a computation of P makes, once the setting is recorded (R69). -/
theorem recordText_finishTest : (s.recordText n k set).finishTest n = if (s.aud n).ctx.st.running ∧ s.position n = (s.aud n).ctx.duration then
    (s.recordText n k set).finish n else s.recordText n k set := by
  unfold State.finishTest
  rw [recordText_position, recordText_aud]

theorem setText_settings : ((s.setText n k set).aud n).ctx.text = (s.aud n).ctx.text.set k.val set k.isLt
    ∧ ((s.setText n k set).aud n).ctx.sound = (s.aud n).ctx.sound := by
  have hrecord : ((s.recordText n k set).aud n).ctx.text = (s.aud n).ctx.text.set k.val set k.isLt
      ∧ ((s.recordText n k set).aud n).ctx.sound = (s.aud n).ctx.sound := by
    rw [recordText_aud]
    exact ⟨rfl, rfl⟩
  have htest : (((s.recordText n k set).finishTest n).aud n).ctx.text = ((s.recordText n k set).aud n).ctx.text
      ∧ (((s.recordText n k set).finishTest n).aud n).ctx.sound = ((s.recordText n k set).aud n).ctx.sound := by
    unfold State.finishTest
    split
    · rw [finish_ctx]
      exact ⟨rfl, rfl⟩
    · exact ⟨rfl, rfl⟩
  have hon (p : Nat) := (ShowFrame.textOnSignal p ((s.recordText n k set).finishTest n) n k).ctx n
  rw [show s.setText n k set = if ((s.aud n).ctx.text.get k).enabled ∧ set.enabled = false then (s.recordText n k set).textOff n k
    else if ((s.aud n).ctx.text.get k).enabled = false ∧ set.enabled ∧ ((s.recordText n k set).aud n).ctx.st ≠ .binding then
      State.textOnSignal ((s.recordText n k set).position n) ((s.recordText n k set).finishTest n) n k
    else s.recordText n k set from rfl]
  split
  · rw [(ShowFrame.textOff _ n k).ctx]
    exact hrecord
  · split
    · rw [hon, htest.1, htest.2]
      exact hrecord
    · exact hrecord

end text

/-- An engine that takes up its cue count and index (R92 i). -/
def TrackEngine.takenUp (x : ShowCtx) (k : TextTrack) (e : TrackEngine) : TrackEngine :=
  { e with cueCount := x.cueCounts.get k, index := x.index.get k }

/-- Track-on in a state without a running time base. -/
theorem textOnSignal_waits {s : State} {n : Aud} (k : TextTrack) (p : Nat) {st : ShowState} (hst : (s.aud n).ctx.st = st)
    (h : st = .standby ∨ st = .acquiring ∨ st = .held ∨ st = .finished) : ∀ t, t = State.textOnSignal p s n k →
    t.eng n k = { (s.eng n k).takenUp (s.aud n).ctx k with
        look := [], active := [], seek := none, state := if st = .finished then .ended else .waiting }
      ∧ (∀ j, j ≠ k → t.eng n j = s.eng n j) ∧ (t.aud n).air = (s.aud n).air ∧ (t.aud n).ctx = (s.aud n).ctx := by
  rintro t rfl
  have hsignal : State.textOnSignal p s n k = (s.modEng n k (TrackEngine.takenUp (s.aud n).ctx k)).modEng n k fun e =>
      { e with look := [], active := [], seek := none, state := if st = .finished then .ended else .waiting } := by
    unfold State.textOnSignal
    dsimp only
    rw [hst]
    rcases h with rfl | rfl | rfl | rfl <;> rfl
  rw [hsignal]
  refine ⟨by rw [State.modEng_eng, State.modEng_eng], fun j hj => ?_, ?_, ?_⟩
  · rw [State.modEng_eng_other _ _ _ _ _ hj, State.modEng_eng_other _ _ _ _ _ hj]
  · rw [State.modEng_aud_air, State.modEng_aud_air]
  · rw [State.modEng_aud_ctx, State.modEng_aud_ctx]

theorem seeksTo_of_same {n : Aud} {k : TextTrack} {q : Nat} {s v t : State} (h : v.SeeksTo t n k q)
    (hcount : (v.eng n k).seekCount = (s.eng n k).seekCount) (hidle : v.engineInFlight n k = s.engineInFlight n k) : s.SeeksTo t n k q := by
  unfold State.SeeksTo at h ⊢
  rw [← hcount, ← hidle]
  exact h

/-- Track-on in a running show: a seek from P plus the track's lead. -/
theorem textOnSignal_seeks {s : State} {n : Aud} (k : TextTrack) (p : Nat) (h : (s.aud n).ctx.st = .locked ∨ (s.aud n).ctx.st = .coasting) :
    ∀ t, t = State.textOnSignal p s n k → s.SeeksTo t n k (p + ((s.aud n).ctx.text.get k).lead)
      ∧ (t.eng n k).index = (s.aud n).ctx.index.get k ∧ (t.eng n k).cueCount = (s.aud n).ctx.cueCounts.get k
      ∧ (∀ j, j ≠ k → t.eng n j = s.eng n j) ∧ (t.aud n).ctx = (s.aud n).ctx := by
  rintro t rfl
  have hsignal : State.textOnSignal p s n k
      = (s.modEng n k (TrackEngine.takenUp (s.aud n).ctx k)).startSeek n k (p + ((s.aud n).ctx.text.get k).lead) := by
    have hseek : State.textOnSignal p s n k = State.textSeek p (s.modEng n k (TrackEngine.takenUp (s.aud n).ctx k)) n k := by
      unfold State.textOnSignal
      dsimp only
      rcases h with h | h <;> rw [h] <;> rfl
    rw [hseek, State.textSeek, State.modEng_aud_ctx]
  rw [hsignal]
  obtain ⟨hseeks, hindex, hcount⟩ := startSeek_seeks (s.modEng n k (TrackEngine.takenUp (s.aud n).ctx k)) n k
    (p + ((s.aud n).ctx.text.get k).lead)
  have hbeside := (Beside.modEng s n k (TrackEngine.takenUp (s.aud n).ctx k)).trans (.startSeek _ n k (p + ((s.aud n).ctx.text.get k).lead))
  rw [hindex, hcount]
  refine ⟨seeksTo_of_same hseeks ?_ rfl, ?_, ?_, fun j hj => hbeside.eng j (by simpa using hj), ?_⟩
  · rw [State.modEng_eng]
    rfl
  · rw [State.modEng_eng]
    rfl
  · rw [State.modEng_eng]
    rfl
  · rw [(ShowFrame.startSeek _ n k _).ctx, State.modEng_aud_ctx]

section text

variable {s : State} {n : Aud} {k : TextTrack} {set : TrackSetting}

theorem recordText_eng (j : TextTrack) : (s.recordText n k set).eng n j = s.eng n j := by rw [State.eng, recordText_aud]; rfl

/-- A track that is disabled: cleared and OFF, without cues (R92 h). -/
theorem setText_disables (hold : ((s.aud n).ctx.text.get k).enabled = true) (hnew : set.enabled = false) : ∀ t, t = s.setText n k set →
    (∃ o, t.eng n k = { (s.eng n k).off with out := o }) ∧ (∀ j, j ≠ k → t.eng n j = s.eng n j) ∧ (t.aud n).sound = (s.aud n).sound
      ∧ ((s.aud n).air.pend.length < 32 → (t.aud n).air.pend = (s.aud n).air.pend ++ [.clear k]) := by
  rintro t rfl
  obtain ⟨hstep, heng, -, hpend⟩ := textOff_clears (s.recordText n k set) n k
  rw [recordText_aud] at hpend
  rw [recordText_eng] at heng
  rw [setText_off hold hnew]
  refine ⟨heng, fun j hj => (hstep.others j hj).trans (recordText_eng j), hstep.sound.trans (by rw [recordText_aud]), hpend⟩

section enable

variable (hold : ((s.aud n).ctx.text.get k).enabled = false) (hnew : set.enabled = true)
include hold hnew

theorem setText_enable_binding (h : (s.aud n).ctx.st = .binding) : (s.setText n k set).eng n k = s.eng n k := by
  rw [setText_on hold hnew, if_neg (not_not.mpr h), recordText_eng]

/-- A track that is enabled in a state without a running time base (R92 i). -/
theorem setText_enable_waits (h : (s.aud n).ctx.st = .standby ∨ (s.aud n).ctx.st = .acquiring ∨ (s.aud n).ctx.st = .held
      ∨ (s.aud n).ctx.st = .finished) : ∀ t, t = s.setText n k set →
    t.eng n k = { (s.eng n k).takenUp (s.aud n).ctx k with
        look := [], active := [], seek := none, state := if (s.aud n).ctx.st = .finished then .ended else .waiting }
      ∧ (∀ j, j ≠ k → t.eng n j = s.eng n j) ∧ (t.aud n).air = (s.aud n).air := by
  rintro t rfl
  have hbinding : (s.aud n).ctx.st ≠ .binding := by rcases h with h | h | h | h <;> rw [h] <;> decide
  have hrun : ¬ (s.aud n).ctx.st.running = true := by rcases h with h | h | h | h <;> rw [h] <;> decide
  obtain ⟨heng, hothers, hair, -⟩ := textOnSignal_waits k (s.position n) (s := s.recordText n k set) (by rw [recordText_aud]) h _ rfl
  rw [setText_on hold hnew, if_pos hbinding, recordText_finishTest, if_neg fun hr => hrun hr.1, heng, hair, recordText_eng, recordText_aud]
  exact ⟨rfl, fun j hj => (hothers j hj).trans (recordText_eng j), rfl⟩

variable (h : (s.aud n).ctx.st = .locked ∨ (s.aud n).ctx.st = .coasting)
include h

/-- A track that is enabled in a running show takes up its cues, whether the show goes on or finishes (R92 i, R69). -/
theorem setText_enable_at_end (hend : s.position n = (s.aud n).ctx.duration) : ∀ t, t = s.setText n k set →
    (t.eng n k).cueCount = (s.aud n).ctx.cueCounts.get k ∧ (t.eng n k).index = (s.aud n).ctx.index.get k
      ∧ (t.aud n).ctx.st = .finished ∧ (t.eng n k).state = .ended ∧ (t.eng n k).look = [] ∧ (t.eng n k).active = [] := by
  rintro t rfl
  have hbinding : (s.aud n).ctx.st ≠ .binding := by rcases h with h | h <;> rw [h] <;> decide
  have hrun : (s.aud n).ctx.st.running = true := by rcases h with h | h <;> rw [h] <;> rfl
  have hfinished := finish_ctx (s.recordText n k set) n
  rw [recordText_aud] at hfinished
  obtain ⟨heng, -, -, hctx⟩ := textOnSignal_waits k (s.position n) (s := (s.recordText n k set).finish n) (st := .finished)
    (by rw [hfinished]; rfl) (by decide) _ rfl
  rw [setText_on hold hnew, if_pos hbinding, recordText_finishTest, if_pos ⟨hrun, hend⟩, heng, hctx, hfinished]
  exact ⟨rfl, rfl, rfl, rfl, rfl, rfl⟩

theorem setText_enable_seeks (hend : s.position n ≠ (s.aud n).ctx.duration) : ∀ t, t = s.setText n k set →
    (t.eng n k).cueCount = (s.aud n).ctx.cueCounts.get k ∧ (t.eng n k).index = (s.aud n).ctx.index.get k
      ∧ (t.aud n).ctx.st = (s.aud n).ctx.st ∧ s.SeeksTo t n k (s.position n + set.lead) ∧ ∀ j, j ≠ k → t.eng n j = s.eng n j := by
  rintro t rfl
  have hbinding : (s.aud n).ctx.st ≠ .binding := by rcases h with h | h <;> rw [h] <;> decide
  obtain ⟨hseeks, hindex, hcount, hothers, hctx⟩ := textOnSignal_seeks k (s.position n) (s := s.recordText n k set)
    (by rw [recordText_aud]; exact h) _ rfl
  have hlead : (((s.recordText n k set).aud n).ctx.text.get k).lead = set.lead := by
    rw [recordText_aud]
    exact congrArg TrackSetting.lead (Vector.getElem_set_self k.isLt)
  rw [hlead] at hseeks
  rw [setText_on hold hnew, if_pos hbinding, recordText_finishTest, if_neg fun hr => hend hr.2, hcount, hindex, hctx, recordText_aud]
  exact ⟨rfl, rfl, rfl, seeksTo_of_same hseeks (by rw [recordText_eng]) rfl, fun j hj => (hothers j hj).trans (recordText_eng j)⟩

end enable

end text

/-! ### A sound track (R85, R124) -/

/-- A sound track's enable and lead are recorded. -/
def State.recordSound (s : State) (n : Aud) (k : SoundTrack) (set : TrackSetting) : State :=
  s.modCtx n fun x => { x with sound := x.sound.set k.val set k.isLt }

section sound

variable {s : State} {n : Aud} {k : SoundTrack} {set : TrackSetting}

theorem recordSound_aud : (s.recordSound n k set).aud n
    = { s.aud n with ctx := { (s.aud n).ctx with sound := (s.aud n).ctx.sound.set k.val set k.isLt } } := State.modCtx_same ..

theorem recordSound_position : (s.recordSound n k set).position n = s.position n := by
  rw [State.position, State.position, recordSound_aud]
  rfl

theorem recordSound_play (j : SoundTrack) : (s.recordSound n k set).play n j = s.play n j := by rw [State.play, recordSound_aud]; rfl

theorem setSound_quiet (h : ¬ (((s.aud n).ctx.sound.get k).enabled = false ∧ set.enabled = true)) :
    s.setSound n k set = (s.recordSound n k set).modPlay n k (Playout.onTrack (s.aud n).ctx.st (s.position n) set) := by
  have hst : ((s.recordSound n k set).aud n).ctx.st = (s.aud n).ctx.st := by rw [recordSound_aud]
  rw [← recordSound_position, ← hst]
  unfold State.setSound
  dsimp only
  rw [if_neg h]
  rfl

/-- An enable computes P, with the finish test that this makes (R69). -/
theorem setSound_on (hold : ((s.aud n).ctx.sound.get k).enabled = false) (hnew : set.enabled = true) : s.setSound n k set
    = ((s.recordSound n k set).finishTest n).modPlay n k
        (Playout.onTrack (((s.recordSound n k set).finishTest n).aud n).ctx.st (s.position n) set) := by
  rw [← recordSound_position (k := k) (set := set)]
  unfold State.setSound
  dsimp only
  rw [if_pos ⟨hold, hnew⟩]
  rfl

theorem recordSound_finishTest : (s.recordSound n k set).finishTest n
    = if (s.aud n).ctx.st.running ∧ s.position n = (s.aud n).ctx.duration then (s.recordSound n k set).finish n
      else s.recordSound n k set := by
  unfold State.finishTest
  rw [recordSound_position, recordSound_aud]

theorem setSound_settings : ((s.setSound n k set).aud n).ctx.sound = (s.aud n).ctx.sound.set k.val set k.isLt
    ∧ ((s.setSound n k set).aud n).ctx.text = (s.aud n).ctx.text := by
  by_cases h : ((s.aud n).ctx.sound.get k).enabled = false ∧ set.enabled = true
  · rw [setSound_on h.1 h.2, State.modPlay_aud_ctx, recordSound_finishTest]
    split
    · rw [finish_ctx, recordSound_aud]
      exact ⟨rfl, rfl⟩
    · rw [recordSound_aud]
      exact ⟨rfl, rfl⟩
  · rw [setSound_quiet h, State.modPlay_aud_ctx, recordSound_aud]
    exact ⟨rfl, rfl⟩

/-- A lead alone, where the engine and the context agree on the enable. -/
theorem setSound_lead (hplay : (s.play n k).enabled = set.enabled) (hctx : ((s.aud n).ctx.sound.get k).enabled = set.enabled) :
    ∀ t, t = s.setSound n k set → t.play n k = { s.play n k with lead := set.lead } ∧ (t.aud n).text = (s.aud n).text := by
  rintro t rfl
  rw [setSound_quiet (by rw [hctx]; cases set.enabled <;> decide), State.modPlay_play, State.modPlay_aud_text, recordSound_play, recordSound_aud,
    Playout.onTrack, hplay, if_neg (by cases set.enabled <;> decide), if_neg (by cases set.enabled <;> decide), ← hplay]
  exact ⟨rfl, rfl⟩

theorem setSound_disables (hplay : (s.play n k).enabled = true) (hnew : set.enabled = false) : (s.setSound n k set).play n k
    = { s.play n k with enabled := false, lead := set.lead, state := .off, queue := [], z := none } := by
  rw [setSound_quiet fun h => absurd (hnew.symm.trans h.2) (by decide), State.modPlay_play, recordSound_play, Playout.onTrack,
    if_pos ⟨hplay, hnew⟩]

/-- A playout engine that is enabled, by the show state (R124 b). -/
theorem onTrack_enables {e : Playout} (hplay : e.enabled = false) (hnew : set.enabled = true) (st : ShowState) (p : Nat) : e.onTrack st p set
    = { e with
        enabled := true, lead := set.lead, queue := [], state := st.playState
        z := match st with
          | .vacant => e.z
          | .binding => e.z
          | .standby => none
          | _ => some ((24 * ((p + set.lead) / 24) : Nat) - 24 : Int) } := by
  rw [Playout.onTrack, if_neg fun h => absurd (hplay.symm.trans h.1) (by decide), if_pos ⟨hplay, hnew⟩]
  cases st <;> rfl

section enable

variable (hold : ((s.aud n).ctx.sound.get k).enabled = false) (hnew : set.enabled = true)
include hold hnew

theorem setSound_enables (h : ¬ ((s.aud n).ctx.st.running = true ∧ s.position n = (s.aud n).ctx.duration)) :
    (s.setSound n k set).play n k = (s.play n k).onTrack (s.aud n).ctx.st (s.position n) set := by
  rw [setSound_on hold hnew, recordSound_finishTest, if_neg h, State.modPlay_play, recordSound_play, recordSound_aud]

theorem setSound_enable_at_end (hplay : (s.play n k).enabled = false) (hrun : (s.aud n).ctx.st.running = true)
    (hend : s.position n = (s.aud n).ctx.duration) : ∀ t, t = s.setSound n k set →
    (t.aud n).ctx.st = .finished ∧ (t.play n k).state = .stopped := by
  rintro t rfl
  have hfinished := finish_ctx (s.recordSound n k set) n
  have hplayed : (((s.recordSound n k set).finish n).play n k).enabled = false := by
    rw [(finish_signalled (s.recordSound n k set) n).play, recordSound_play, ← hplay]
    unfold Playout.onFinish
    split
    · rfl
    · rfl
  rw [setSound_on hold hnew, recordSound_finishTest, if_pos ⟨hrun, hend⟩, State.modPlay_play, State.modPlay_aud_ctx, hfinished,
    onTrack_enables hplayed hnew]
  exact ⟨rfl, rfl⟩

end enable

end sound

/-! ### The command -/

theorem beside_taken_replied {n : Aud} {t : State} (kind tag : Byte) (code : Code) (vals : List Byte) :
    Beside n [] t (t.replied kind tag code vals) :=
  .of_tracks (.replied _ n _ _ _ _) (by rw [replied_aud]) (by rw [replied_aud]) (replied_queue ..) (replied_flight ..)

/-- Settles O38: the tests, and a text or sound track by its old and new enable and the show state. -/
theorem trackSetIsRecorded : Obligations.TrackSetIsRecorded := by
  unfold Obligations.TrackSetIsRecorded
  intro tag a s hs
  have hexec (kd tr e l : Byte) : exec (.trackSet tag [a, kd, tr, e, l]) s
      = .next (State.answer 0x36 tag (trackSetAction a kd tr e l s.taken)) := congrArg Host.Outcome.next (take_runs s 0x36 tag false _ hs)
  refine ⟨fun kd tr e l h => by rw [hexec, trackSet_range h, answer_refused], ?_⟩
  rintro n p x ha rfl rfl
  refine ⟨fun k tr e l set hk hset => ?_, fun k tr e l set hk hset => ?_⟩
  · rw [hexec, trackSet_text ha hk hset, taken_aud]
    refine ⟨fun h => by rw [if_pos h, answer_refused], fun hv hc => by rw [if_neg hv, if_pos hc, answer_refused], fun hv hc hsame => ?_,
      fun hv hc => ?_⟩
    · rw [if_neg hv, if_neg (Nat.not_le.mpr hc), setText_same (s := s.taken) hsame, answer_done]
      rfl
    · rw [if_neg hv, if_neg (Nat.not_le.mpr hc), answer_done]
      have hframe := TrackFrame.replied (s.taken.setText n k set) n 0x36 tag .ok []
      have hsettings := setText_settings (s := s.taken) (n := n) (k := k) (set := set)
      refine ⟨_, rfl, replied_replyBuf .., by rw [replied_aud]; exact hsettings.1, by rw [replied_aud]; exact hsettings.2, fun hold hnew => ?_,
        fun hold hnew => ⟨fun h => ?_, fun h => ?_, fun h => ?_⟩⟩
      · obtain ⟨⟨o, ho⟩, hothers, hsound, hpend⟩ := setText_disables (s := s.taken) hold hnew _ rfl
        rw [hframe.eng, ho, hframe.sound, hframe.air]
        exact ⟨rfl, rfl, rfl, rfl, rfl, rfl, fun j hj => by rw [hframe.eng, hothers j hj]; rfl, hsound, hpend⟩
      · rw [hframe.eng]
        exact setText_enable_binding (s := s.taken) hold hnew h
      · obtain ⟨heng, hothers, hair⟩ := setText_enable_waits (s := s.taken) hold hnew h _ rfl
        rw [hframe.eng, heng, hframe.air]
        exact ⟨rfl, fun j hj => by rw [hframe.eng, hothers j hj]; rfl, hair⟩
      · by_cases hend : s.position n = (s.aud n).ctx.duration
        · obtain ⟨hcount, hindex, hst, hstate, hlook, hactive⟩ := setText_enable_at_end (s := s.taken) hold hnew h hend _ rfl
          rw [hframe.eng, replied_aud]
          exact ⟨hcount, hindex, fun _ => ⟨hst, hstate, hlook, hactive⟩, fun hne => absurd hend hne⟩
        · obtain ⟨hcount, hindex, hst, hseeks, hothers⟩ := setText_enable_seeks (s := s.taken) hold hnew h hend _ rfl
          have hseeks' := seeksTo_after (beside_taken_replied 0x36 tag .ok []) List.not_mem_nil hseeks
          rw [hframe.eng, replied_aud]
          exact ⟨hcount, hindex, fun he => absurd he hend, fun _ => ⟨hst, seeksTo_of_same hseeks' rfl rfl,
            fun j hj => by rw [hframe.eng, hothers j hj]; rfl⟩⟩
  · rw [hexec, trackSet_sound ha hk hset, taken_aud]
    refine ⟨fun h => by rw [if_pos h, answer_refused], fun hv hc => by rw [if_neg hv, if_pos hc, answer_refused], fun hv hc => ?_⟩
    rw [if_neg hv, if_neg (Nat.not_le.mpr hc), answer_done]
    have hframe := TrackFrame.replied (s.taken.setSound n k set) n 0x36 tag .ok []
    have hsettings := setSound_settings (s := s.taken) (n := n) (k := k) (set := set)
    refine ⟨_, rfl, replied_replyBuf .., by rw [replied_aud]; exact hsettings.1, by rw [replied_aud]; exact hsettings.2, fun hplay hctx => ?_,
      fun hplay hnew => ?_, fun hplay hold hnew z e hz he => ?_⟩
    · rw [hframe.play, hframe.text]
      exact setSound_lead (s := s.taken) hplay hctx _ rfl
    · rw [hframe.play]
      exact setSound_disables (s := s.taken) hplay hnew
    · rw [hframe.play, replied_aud]
      have hplayed (h : ¬ ((s.aud n).ctx.st.running = true ∧ s.position n = (s.aud n).ctx.duration)) :=
        (setSound_enables (s := s.taken) hold hnew h).trans (onTrack_enables hplay hnew _ _)
      have hstill {st : ShowState} (hst : (s.aud n).ctx.st = st) (hno : st.running = false) :=
        hplayed (by rw [hst, hno]; exact fun h => absurd h.1 (by decide))
      rw [taken_aud] at hplayed hstill
      subst hz he
      refine ⟨fun h => ?_, fun h => ?_, fun h => ?_, fun h => ?_, fun h => ?_, fun h => ⟨fun hend => ?_, fun hend => ?_⟩⟩
      · rw [hstill h rfl, h]; rfl
      · rw [hstill h rfl, h]; rfl
      · rw [hstill h rfl, h]; rfl
      · rw [hstill h rfl, h]; rfl
      · rw [hstill h rfl, h]; rfl
      · rw [hplayed fun hr => hend hr.2]
        rcases h with h | h <;> rw [h] <;> rfl
      · exact setSound_enable_at_end (s := s.taken) hold hnew hplay (by rcases h with h | h <;> rw [taken_aud, h] <;> rfl) hend _ rfl

end Sys2Proof.Machine

/-! ## TIMING_SET, AIR_SET and EMITTER_SET (O44) -/

namespace Sys2Proof.Machine

/-! ### Two changes of an auditorium -/

theorem modAud_modAud (s : State) (n : Aud) (f g : Auditorium → Auditorium) : (s.modAud n f).modAud n g = s.modAud n fun a => g (f a) := by
  show (s.modAud n f).setAud n (g ((s.modAud n f).aud n)) = _
  rw [State.modAud_same]
  unfold State.modAud State.setAud
  rw [Vector.set_set]

theorem modAud_congr {s : State} {n : Aud} {f g : Auditorium → Auditorium} (h : f (s.aud n) = g (s.aud n)) : s.modAud n f = s.modAud n g := by
  unfold State.modAud
  rw [h]

/-! ### The bytes of the settings (R170) -/

/-- A code in a list of values. -/
theorem lt_of_getElem?_eq_some {α : Type} {l : List α} {i : Nat} {x : α} (h : l[i]? = some x) : i < l.length := (List.getElem?_eq_some_iff.mp h).1

theorem bitRate_of_code {b : Byte} {r : BitRate} (h : b.toNat = r.code) : BitRate.ofByte b = some r := by
  unfold BitRate.ofByte
  rw [h]
  cases r <;> rfl

theorem lineMode_of_code (m : LineMode) : LineMode.ofByte (BitVec.ofNat 8 m.code) = some m := by cases m <;> rfl
theorem restPull_of_code (m : RestPull) : RestPull.ofByte (BitVec.ofNat 8 m.code) = some m := by cases m <;> rfl
theorem pairing_of_code (m : Pairing) : Pairing.ofByte (BitVec.ofNat 8 m.code) = some m := by cases m <;> rfl

theorem enableOf_eq {b : Byte} (h : b.toNat ≤ 1) : enableOf b = some (decide (b.toNat = 1)) := by
  unfold enableOf
  obtain h | h : b.toNat = 0 ∨ b.toNat = 1 := by omega
  · rw [h]
    rfl
  · rw [h]
    rfl

/-! ### TIMING_SET (R84) -/

theorem timingSet_range {a w c sw : Byte} (h : 15 < a.toNat ∨ 48 < c.toNat ∨ sw.toNat = 0 ∨ 48 < sw.toNat) (s : State) :
    timingSetAction a w c sw s = refused s .range := by
  unfold timingSetAction
  split
  · rename_i n ha
    have ha' := audOf_lt ha
    exact if_pos (by omega)
  · rfl

theorem timingSet_eq {a w c sw : Byte} {n : Aud} (ha : a.toNat = n.val) (hc : c.toNat ≤ 48) (hsw : 1 ≤ sw.toNat) (hsw' : sw.toNat ≤ 48)
    (s : State) : timingSetAction a w c sw s = done (s.modAud n fun x =>
      if x.input.ref = .absent then
        { x with
          input := { x.input with wStaged := w.toNat, wCurrent := w.toNat }
          ctx := { x.ctx with
            coastLimitStaged := c.toNat, coastLimit := c.toNat, slewWindowStaged := sw.toNat, slewWindow := sw.toNat } }
      else
        { x with
          input := { x.input with wStaged := w.toNat }
          ctx := { x.ctx with coastLimitStaged := c.toNat, slewWindowStaged := sw.toNat } }) .ok [] := by
  unfold timingSetAction
  rw [audOf_eq ha]
  dsimp only
  rw [if_neg (by omega), State.modAud_same, State.adopt, modAud_modAud]
  dsimp only
  split
  · exact congrArg (done · .ok []) (modAud_congr (by rw [if_pos ‹_›]))
  · exact congrArg (done · .ok []) (modAud_congr (by rw [if_neg ‹_›]))

/-! ### AIR_SET (R147) -/

theorem airSet_range {a r idle : Byte} (site : Nat) (h : 15 < a.toNat ∨ 2 < r.toNat ∨ idle.toNat = 0 ∨ 250 < idle.toNat) (s : State) :
    airSetAction a r site idle s = refused s .range := by
  unfold airSetAction
  split
  · rename_i n rate ha hr
    have ha' := audOf_lt ha
    have hr' : r.toNat < 3 := lt_of_getElem?_eq_some hr
    exact if_pos (by omega)
  · rfl

theorem airSet_eq {a r idle : Byte} (site : Nat) {n : Aud} {rate : BitRate} (ha : a.toNat = n.val) (hr : r.toNat = rate.code)
    (h1 : 1 ≤ idle.toNat) (h250 : idle.toNat ≤ 250) (s : State) : airSetAction a r site idle s
    = if rate.maxPeriod < (s.aud n).emit.staged.p then refused s .range
      else done (s.modAir n fun x => { x with staged := { rate := rate, site := site, idle := idle.toNat } }) .ok [] := by
  unfold airSetAction
  rw [audOf_eq ha, bitRate_of_code hr]
  exact if_neg (by omega)

/-! ### The restore of the text tracks (R106, R107) -/

/-- A restore that fits appends its events. -/
theorem submitRestore_air_fits (n : Aud) (evs : List Event) : ∀ s : State, (s.aud n).air.pend.length + evs.length ≤ 32 →
    ((s.submitRestore n evs).aud n).air = { (s.aud n).air with pend := (s.aud n).air.pend ++ evs } := by
  induction evs with
  | nil =>
    intro s _
    rw [List.append_nil]
    rfl
  | cons ev evs ih =>
    intro s h
    rw [List.length_cons] at h
    unfold State.submitRestore
    rw [if_pos (show _ < pendingLimit from by unfold pendingLimit; omega), ih _ (by
      rw [State.modAir_same, List.length_append, List.length_singleton]
      omega), State.modAir_same]
    dsimp only
    rw [List.append_assoc]
    rfl

/-- What a restore of every enabled text track submits, with the gate read OPEN (R106). -/
theorem restoreEvents_open {s : State} {n : Aud} (h : (s.aud n).air.lastGate = some .opened) : s.restoreEvents n
    = ([0, 1, 2, 3] : List TextTrack).flatMap fun k =>
        if ((s.aud n).ctx.text.get k).enabled = false then []
        else if (s.eng n k).state = .running then .clear k :: (s.eng n k).active.map (Event.cueOn k)
        else if (s.eng n k).state = .waiting ∨ (s.eng n k).state = .ended then [.clear k] else [] := by
  have htrack (k : TextTrack) : (if s.textOn n k = true then (s.eng n k).restoreEvents k else [])
      = if ((s.aud n).ctx.text.get k).enabled = false then []
        else if (s.eng n k).state = .running then .clear k :: (s.eng n k).active.map (Event.cueOn k)
        else if (s.eng n k).state = .waiting ∨ (s.eng n k).state = .ended then [.clear k] else [] := by
    unfold State.textOn TrackEngine.restoreEvents
    cases ((s.aud n).ctx.text.get k).enabled with
    | false => rfl
    | true => cases (s.eng n k).state <;> rfl
  have hheld : s.withheld n = false := decide_eq_false (not_not.mpr h)
  rw [State.restoreEvents, hheld, funext htrack]
  rfl

theorem restoreEvents_withheld {s : State} {n : Aud} (h : (s.aud n).air.lastGate ≠ some .opened) : s.restoreEvents n = [] :=
  if_pos (decide_eq_true h)

theorem framed_iff {st : ShowState} : st.framed = true ↔ st = .acquiring ∨ st = .locked ∨ st = .coasting ∨ st = .held := by
  cases st <;> decide

/-- A recovery, by the show state and the gate last read (R156). -/
theorem recover_air_fits {s : State} {n : Aud} (hst : (s.aud n).ctx.st.framed = true)
    (h : (s.aud n).air.pend.length + (s.restoreEvents n).length ≤ 32) :
    ((s.recover n).aud n).air = { (s.aud n).air with pend := (s.aud n).air.pend ++ s.restoreEvents n } := by
  rw [State.recover, if_pos hst]
  exact submitRestore_air_fits n _ s h

theorem recover_without {s : State} {n : Aud} (h : ¬ ((s.aud n).ctx.st.framed = true ∧ (s.aud n).air.lastGate = some .opened)) :
    s.recover n = s := by
  unfold State.recover
  split
  · rw [State.restoreAll, restoreEvents_withheld fun hg => h ⟨‹_›, hg⟩]
    rfl
  · rfl

theorem recover_emit (s : State) (n : Aud) : ((s.recover n).aud n).emit = (s.aud n).emit := by
  unfold State.recover
  split
  · exact (Undisturbed.submitRestore n _ s).emit n
  · rfl

/-! ### EMITTER_SET (R157) -/

theorem emitterSet_range {a en ma pa mb pb pr : Byte} {p w : Nat} (h : 15 < a.toNat ∨ 1 < en.toNat ∨ 3 < ma.toNat ∨ 2 < pa.toNat
    ∨ 3 < mb.toNat ∨ 2 < pb.toNat ∨ 2 < pr.toNat ∨ p < 4 ∨ 1023 < p ∨ p < w) (s : State) :
    emitterSetAction a en ma pa mb pb pr p w s = refused s .range := by
  unfold emitterSetAction
  split
  · rename_i n en' ma' pa' mb' pb' pr' ha hen hma hpa hmb hpb hpr
    have ha' := audOf_lt ha
    have hen' : en.toNat < 2 := lt_of_getElem?_eq_some hen
    have hma' : ma.toNat < 4 := lt_of_getElem?_eq_some hma
    have hpa' : pa.toNat < 3 := lt_of_getElem?_eq_some hpa
    have hmb' : mb.toNat < 4 := lt_of_getElem?_eq_some hmb
    have hpb' : pb.toNat < 3 := lt_of_getElem?_eq_some hpb
    have hpr' : pr.toNat < 3 := lt_of_getElem?_eq_some hpr
    exact if_pos (by omega)
  · rfl

/-- The line settings are staged. -/
def State.stageLines (s : State) (n : Aud) (l : LineSettings) : State := s.modEmit n fun u => { u with staged := l }

theorem emitterSet_eq {a en ma pa mb pb pr p1 p0 w1 w0 : Byte} {n : Aud} {l : LineSettings} (ha : a.toNat = n.val) (hen : en.toNat ≤ 1)
    (hl : [ma, pa, mb, pb, pr, p1, p0, w1, w0] = l.bytes) (h4 : 4 ≤ l.p) (h1023 : l.p ≤ 1023) (hw : l.w ≤ l.p) (s : State) :
    emitterSetAction a en ma pa mb pb pr l.p l.w s = if (s.aud n).air.staged.rate.maxPeriod < l.p then refused s .range
      else done ((s.stageLines n l).enableEmitter n (decide (en.toNat = 1))) .ok
        (u8 (((s.stageLines n l).enableEmitter n (decide (en.toNat = 1))).aud n).emit.state.code) := by
  unfold LineSettings.bytes u8 u16 at hl
  obtain ⟨rfl, rfl, rfl, rfl, rfl, -⟩ : ma = _ ∧ pa = _ ∧ mb = _ ∧ pb = _ ∧ pr = _ ∧ _ := by
    simpa only [List.cons_append, List.nil_append, List.cons.injEq] using hl
  unfold emitterSetAction
  rw [audOf_eq ha, enableOf_eq hen, lineMode_of_code, restPull_of_code, lineMode_of_code, restPull_of_code, pairing_of_code]
  exact if_neg (by omega)

section enable

variable (s : State) (n : Aud)

/-- A disable acts at once: a frame on the lines is dropped (R157). -/
theorem disable_emitter : ∀ t, t = s.enableEmitter n false → (t.aud n).air = (s.aud n).air
    ∧ (t.aud n).emit = if (s.aud n).emit.state = .disabled then (s.aud n).emit else
      { (s.aud n).emit with
        dropped := if (s.aud n).emit.tx = none then (s.aud n).emit.dropped else min 65535 ((s.aud n).emit.dropped + 1)
        tx := none, cooling := 0, clean := 0, state := .disabled } := by
  rintro t rfl
  unfold State.enableEmitter
  dsimp only
  rw [if_neg (by decide)]
  split
  · exact ⟨rfl, rfl⟩
  · rw [State.modEmit_same]
    refine ⟨rfl, ?_⟩
    cases (s.aud n).emit.tx <;> rfl

/-- An enable of an emitter that is on changes nothing. -/
theorem enable_emitter_on (h : (s.aud n).emit.state ≠ .disabled) (h' : (s.aud n).emit.state ≠ .latchedOff) : s.enableEmitter n true = s := by
  unfold State.enableEmitter
  dsimp only
  rw [if_pos rfl, if_neg (by simp [h, h'])]

/-- The emitter of an enable that acts: ACTIVE with a demand, else SLEEPING. -/
def Emitter.enabled (u : Emitter) : Emitter := { u with retry := 0, clean := 0, state := if u.demand then .active else .sleeping }

variable {s n} in
theorem enable_emitter (h : (s.aud n).emit.state = .disabled ∨ (s.aud n).emit.state = .latchedOff) : s.enableEmitter n true
    = if (s.aud n).emit.demand = true then (s.modEmit n Emitter.enabled).recover n else s.modEmit n Emitter.enabled := by
  unfold State.enableEmitter
  dsimp only
  rw [if_pos rfl, if_pos h]
  rfl

variable {s n} in
theorem enable_emitter_emit (h : (s.aud n).emit.state = .disabled ∨ (s.aud n).emit.state = .latchedOff) :
    ((s.enableEmitter n true).aud n).emit = (s.aud n).emit.enabled := by
  rw [enable_emitter h]
  split
  · rw [recover_emit, State.modEmit_same]
  · rw [State.modEmit_same]

end enable

theorem enableEmitter_lines (s : State) (n : Aud) (enable : Bool) : ((s.enableEmitter n enable).aud n).emit.staged = (s.aud n).emit.staged
    ∧ ((s.enableEmitter n enable).aud n).emit.current = (s.aud n).emit.current := by
  cases enable with
  | false =>
    rw [(disable_emitter s n _ rfl).2]
    split
    · exact ⟨rfl, rfl⟩
    · exact ⟨rfl, rfl⟩
  | true =>
    by_cases hst : (s.aud n).emit.state = .disabled ∨ (s.aud n).emit.state = .latchedOff
    · rw [enable_emitter_emit hst]
      exact ⟨rfl, rfl⟩
    · rw [enable_emitter_on s n (fun e => hst (.inl e)) fun e => hst (.inr e)]
      exact ⟨rfl, rfl⟩

/-- Whether an enable asks for the restore of the text tracks. -/
def State.RestoresOn (s : State) (n : Aud) (enable : Bool) : Prop :=
  enable = true ∧ ((s.aud n).emit.state = .disabled ∨ (s.aud n).emit.state = .latchedOff) ∧ (s.aud n).emit.demand = true
    ∧ ((s.aud n).ctx.st = .acquiring ∨ (s.aud n).ctx.st = .locked ∨ (s.aud n).ctx.st = .coasting ∨ (s.aud n).ctx.st = .held)
    ∧ (s.aud n).air.lastGate = some .opened

/-- The air of an enable: a restore that fits, or nothing (R156, R106, R107). -/
theorem enableEmitter_air {s : State} {n : Aud} {enable : Bool} :
    (s.RestoresOn n enable → (s.aud n).air.pend.length + (s.restoreEvents n).length ≤ 32 →
      ((s.enableEmitter n enable).aud n).air = { (s.aud n).air with pend := (s.aud n).air.pend ++ s.restoreEvents n })
    ∧ (¬ s.RestoresOn n enable → ((s.enableEmitter n enable).aud n).air = (s.aud n).air) := by
  have hair : ((s.modEmit n Emitter.enabled).aud n).air = (s.aud n).air := by rw [State.modEmit_same]
  have hctx : ((s.modEmit n Emitter.enabled).aud n).ctx = (s.aud n).ctx := by rw [State.modEmit_same]
  have heng (k : TextTrack) : (s.modEmit n Emitter.enabled).eng n k = s.eng n k := by rw [State.eng, State.modEmit_same]; rfl
  have hevs : (s.modEmit n Emitter.enabled).restoreEvents n = s.restoreEvents n :=
    restoreEvents_congr (by rw [hair]) hctx fun k => .of_eq (heng k)
  refine ⟨?_, fun h => ?_⟩
  · rintro ⟨rfl, hst, hdemand, hshow, hgate⟩ hfits
    rw [enable_emitter hst, if_pos hdemand, recover_air_fits (by rw [hctx]; exact framed_iff.mpr hshow) (by rw [hair, hevs]; exact hfits), hair,
      hevs]
  · cases enable with
    | false => exact (disable_emitter s n _ rfl).1
    | true =>
      by_cases hst : (s.aud n).emit.state = .disabled ∨ (s.aud n).emit.state = .latchedOff
      · rw [enable_emitter hst]
        split
        · rw [recover_without, hair]
          rw [hctx, hair, framed_iff]
          exact fun hk => h ⟨rfl, hst, ‹_›, hk.1, hk.2⟩
        · exact hair
      · rw [enable_emitter_on s n (fun e => hst (.inl e)) fun e => hst (.inr e)]

/-- Settles O44: the three commands by their tests, and the enable by the emitter's state and demand. -/
theorem settingsAreStaged : Obligations.SettingsAreStaged := by
  unfold Obligations.SettingsAreStaged
  intro tag a s hs
  refine ⟨fun w c sw => ?_, fun r c1 c0 idle => ?_, fun en ma pa mb pb pr p1 p0 w1 w0 => ?_⟩
  · have hexec : exec (.timingSet tag [a, w, c, sw]) s = .next (State.answer 0x31 tag (timingSetAction a w c sw s.taken)) :=
      congrArg Host.Outcome.next (take_runs s 0x31 tag false _ hs)
    rw [hexec]
    exact ⟨fun h => by rw [timingSet_range h, answer_refused], fun n ha hc h1 h48 => by rw [timingSet_eq ha hc h1 h48, answer_done]⟩
  · have hexec : exec (.airSet tag [a, r, c1, c0, idle]) s = .next (State.answer 0x50 tag (airSetAction a r (be [c1, c0]) idle s.taken)) :=
      congrArg Host.Outcome.next (take_runs s 0x50 tag false _ hs)
    rw [hexec]
    refine ⟨fun h => by rw [airSet_range _ h, answer_refused], fun n rate ha hr h1 h250 => ⟨fun h => ?_, fun h => ?_⟩⟩
    · rw [airSet_eq _ ha hr h1 h250, taken_aud, if_pos h, answer_refused]
    · rw [airSet_eq _ ha hr h1 h250, taken_aud, if_neg (Nat.not_lt.mpr h), answer_done]
  · have hexec : exec (.emitterSet tag [a, en, ma, pa, mb, pb, pr, p1, p0, w1, w0]) s
        = .next (State.answer 0x60 tag (emitterSetAction a en ma pa mb pb pr (be [p1, p0]) (be [w1, w0]) s.taken)) :=
      congrArg Host.Outcome.next (take_runs s 0x60 tag false _ hs)
    rw [hexec]
    refine ⟨fun h => by rw [emitterSet_range h, answer_refused], ?_⟩
    rintro n l u ha hen hl hp hw h4 h1023 hwp rfl
    rw [← hp, ← hw, emitterSet_eq ha hen hl h4 h1023 hwp, taken_aud]
    refine ⟨fun h => by rw [if_pos h, answer_refused], fun h => ?_⟩
    rw [if_neg (Nat.not_lt.mpr h), answer_done]
    generalize hv : s.taken.stageLines n l = v
    have haud : v.aud n = { s.aud n with emit := { (s.aud n).emit with staged := l } } := by
      rw [← hv, State.stageLines, State.modEmit_same, taken_aud]
    have heng (k : TextTrack) : v.eng n k = s.eng n k := by rw [State.eng, haud]; rfl
    have hlines := enableEmitter_lines v n (decide (en.toNat = 1))
    have hair := enableEmitter_air (s := v) (n := n) (enable := decide (en.toNat = 1))
    rw [haud] at hlines hair
    refine ⟨_, rfl, by rw [replied_replyBuf, replied_aud]; rfl, ?_⟩
    rw [replied_aud]
    refine ⟨hlines.1, hlines.2, fun h0 => ?_, fun h1 hst => ?_, fun h1 hd hl => ?_, ?_⟩
    · have hdisable := (disable_emitter v n _ rfl).2
      rw [h0, show decide (0 = 1) = false from rfl, hdisable, haud]
      dsimp only
      by_cases hd : (s.aud n).emit.state = .disabled
      · rw [if_pos hd]
        exact ⟨hd, rfl, fun hne => absurd hd hne⟩
      · rw [if_neg hd]
        exact ⟨rfl, rfl, fun _ => ⟨rfl, rfl, rfl⟩⟩
    · rw [h1, show decide (1 = 1) = true from rfl, enable_emitter_emit (by rw [haud]; exact hst), haud]
      exact ⟨rfl, rfl, rfl⟩
    · rw [h1, show decide (1 = 1) = true from rfl, enable_emitter_on v n (by rw [haud]; exact hd) (by rw [haud]; exact hl), haud]
    · rintro restores evs hrestores rfl
      have hasks : v.RestoresOn n (decide (en.toNat = 1)) ↔ restores = true := by
        rw [State.RestoresOn, haud, hrestores, decide_eq_true_iff, decide_eq_true_iff]
      refine ⟨fun h hfits => ?_, fun h => hair.2 fun k => absurd ((hasks.mp k).symm.trans h) (by decide)⟩
      have hopen : (s.aud n).air.lastGate = some .opened := by
        rw [hrestores] at h
        obtain ⟨-, -, -, -, hopen⟩ := of_decide_eq_true h
        exact hopen
      have hevs := restoreEvents_open (s := v) (n := n) (by rw [haud]; exact hopen)
      simp only [heng, haud] at hevs
      rw [hevs] at hair
      exact hair.1 (hasks.mpr h) hfits

end Sys2Proof.Machine

/-! ## The choice and the stages of a frame build (O48) -/

namespace Sys2Proof.Machine

/-! ### What the operations between a sample and a header leave of the air (R127, R130) -/

/-- What of an air scheduler only an expiry, a gate read, an announcement or a header changes. -/
def AirSched.steady (a : AirSched) : AirSettings × Nat × Option Gate × AnnSlot := (a.current, a.sequence, a.lastGate, a.ann)

/-- The settings, the frame sequence, the gate last read and the announcement slot of an auditorium are as they were. -/
def Steady (n : Aud) (s t : State) : Prop := (t.aud n).air.steady = (s.aud n).air.steady

namespace Steady

variable {n : Aud} {s s' s'' t : State}

theorem refl (n : Aud) (s : State) : Steady n s s := rfl

theorem trans (h : Steady n s s') (k : Steady n s' s'') : Steady n s s'' := Eq.trans k h

theorem current (h : Steady n s t) : (t.aud n).air.current = (s.aud n).air.current := congrArg (·.1) h

theorem sequence (h : Steady n s t) : (t.aud n).air.sequence = (s.aud n).air.sequence := congrArg (·.2.1) h

theorem lastGate (h : Steady n s t) : (t.aud n).air.lastGate = (s.aud n).air.lastGate := congrArg (·.2.2.1) h

theorem ann (h : Steady n s t) : (t.aud n).air.ann = (s.aud n).air.ann := congrArg (·.2.2.2) h

theorem of_air (h : (t.aud n).air = (s.aud n).air) : Steady n s t := congrArg AirSched.steady h

theorem ite {a b : State} (c : Prop) [Decidable c] (ha : c → Steady n s a) (hb : ¬ c → Steady n s b) : Steady n s (if c then a else b) := by
  split
  · exact ha ‹_›
  · exact hb ‹_›

theorem foldl {α : Type} (f : State → α → State) (h : ∀ s a, Steady n s (f s a)) (l : List α) : ∀ s, Steady n s (l.foldl f s) := by
  induction l with
  | nil => exact fun s => refl n s
  | cons a as ih => exact fun s => (h s a).trans (ih _)

theorem modAir (s : State) (n : Aud) (f : AirSched → AirSched) (h : (f (s.aud n).air).steady = (s.aud n).air.steady) :
    Steady n s (s.modAir n f) := by
  rw [Steady, State.modAir_same]
  exact h

theorem modEng (s : State) (n : Aud) (t : TextTrack) (f : TrackEngine → TrackEngine) : Steady n s (s.modEng n t f) := of_air (by simp)

theorem modPlay (s : State) (n : Aud) (t : SoundTrack) (f : Playout → Playout) : Steady n s (s.modPlay n t f) := of_air (by simp)

theorem raise (s : State) (n : Aud) (src : Source) (k : NoticeKind) (x : List Byte) : Steady n s (s.raise src k x) := rfl

theorem overflow (s : State) (n : Aud) : Steady n s (s.overflow n) := modAir s n _ rfl

theorem submit (s : State) (n : Aud) (ev : Event) : Steady n s (s.submit n ev) := ite _ (fun _ => modAir s n _ rfl) fun _ => overflow s n

theorem submitRestore (n : Aud) (evs : List Event) : ∀ s : State, Steady n s (s.submitRestore n evs) := by
  induction evs with
  | nil => exact refl n
  | cons ev evs ih => exact fun s => ite _ (fun _ => (modAir s n _ rfl).trans (ih _)) fun _ => overflow s n

theorem engineRead (s : State) (n : Aud) (t : TextTrack) (k : ReadKind) (l need : Nat) : Steady n s (s.engineRead n t k l need) := by
  obtain ⟨-, -, hair, -⟩ := request_aud (s.modEng n t fun e => { e with out := some { kind := k, inFlight := false } })
    { who := .engine n t, op := .readLogical ((s.aud n).ctx.pkg.getD Config.packageIds) l, kind := k, need := need
      bindGen := (s.aud n).ctx.bindGen, seekCount := (s.eng n t).seekCount } n
  exact (modEng s n t _).trans (of_air hair)

theorem fetchTest (s : State) (n : Aud) (t : TextTrack) : Steady n s (s.fetchTest n t) := by
  unfold State.fetchTest
  dsimp only
  split
  · split
    · exact engineRead s n t _ _ _
    · exact refl n s
  · exact refl n s

theorem missCues (s : State) (n : Aud) (t : TextTrack) (a b c : Nat) : Steady n s (s.missCues n t a b c) :=
  (modEng s n t _).trans (raise _ n _ _ _)

/-! The finish (R82) -/

theorem dropWaiting (s : State) (n : Aud) (t : TextTrack) : Steady n s (s.dropWaiting n t) := by
  obtain ⟨-, -, hair⟩ := dropWaiting_eq s n t
  exact of_air hair

theorem textFinish (s : State) (n : Aud) (t : TextTrack) : Steady n s (s.textFinish n t) :=
  ((dropWaiting s n t).trans (modEng _ n t _)).trans (submit _ n _)

theorem soundSignal (s : State) (n : Aud) (f : Playout → Playout) : Steady n s (s.soundSignal n f) :=
  foldl _ (fun s t => modPlay s n t f) allSound s

theorem finish (s : State) (n : Aud) : Steady n s (s.finish n) := by
  rw [finish_eq]
  have hfinishing : Steady n s (s.finishing n) := of_air ((TrackFrame.modCtx s n ShowCtx.finished rfl).trans (.raise _ n _ _ _)).air
  exact (hfinishing.trans (foldl _ (fun s t => ite _ (fun _ => textFinish s n t) fun _ => refl n s) allText _)).trans (soundSignal _ n _)

theorem finishTest (s : State) (n : Aud) : Steady n s (s.finishTest n) := ite _ (fun _ => finish s n) fun _ => refl n s

/-! The release check (R98 to R101) -/

theorem cutOldest (s : State) (n : Aud) (t : TextTrack) (w : Bool) : Steady n s (s.cutOldest n t w) := by
  unfold State.cutOldest
  split
  · exact ite _ (fun _ => (modEng s n t _).trans (ite _ (fun _ => refl n _) fun _ => submit _ n _)) fun _ => refl n s
  · exact refl n s

theorem releaseOne (s : State) (n : Aud) (t : TextTrack) (w : Bool) (c : Cue) (rest : List Cue) : Steady n s (s.releaseOne n t w c rest) :=
  ((cutOldest s n t w).trans (modEng _ n t _)).trans (ite _ (fun _ => refl n _) fun _ => submit _ n _)

theorem releaseDue (n : Aud) (t : TextTrack) (q : Nat) (w : Bool) (fuel : Nat) : ∀ s : State, Steady n s (State.releaseDue n t q w fuel s) := by
  induction fuel with
  | zero => exact refl n
  | succ fuel ih =>
    intro s
    rw [releaseDue_succ]
    split
    · exact refl n s
    · exact ite _ (fun _ => refl n s) fun _ => ite _ (fun _ => ((modEng s n t _).trans (missCues _ n t _ _ _)).trans (ih _)) fun _ =>
        (releaseOne s n t w _ _).trans (ih _)

theorem releaseCheck (s : State) (n : Aud) (p : Nat) (w : Bool) (t : TextTrack) : Steady n s (s.releaseCheck n p w t) :=
  ite _ (fun _ => (((modEng s n t _).trans (releaseDue n t _ w _ _)).trans (modEng _ n t _)).trans (fetchTest _ n t)) fun _ => refl n s

/-! The sound of a build (R118 to R120) -/

theorem skipTest (s : State) (n : Aud) (p : Nat) (t : SoundTrack) : Steady n s (s.skipTest n p t) := by
  unfold State.skipTest
  dsimp only
  split
  · exact ite _ (fun _ => (modPlay s n t _).trans (raise _ n _ _ _)) fun _ => refl n s
  · exact refl n s

theorem serveTurns (n : Aud) (p : Nat) (l : List SoundTrack) : ∀ (s : State) (b : Build), Steady n s (State.serveTurns n p l s b).1 := by
  induction l with
  | nil => exact fun s _ => refl n s
  | cons t ts ih =>
    intro s b
    unfold State.serveTurns
    dsimp only
    split
    · exact ih s b
    · split
      · exact refl n s
      · exact (modPlay s n t _).trans (ih _ _)

theorem slotService (s : State) (n : Aud) (p : Nat) (b : Build) : Steady n s (s.slotService n p b).1 :=
  (foldl _ (fun s t => skipTest s n p t) allSound s).trans (serveTurns n p _ _ _)

end Steady

/-- The show context, and of the air what a header is made of, are as they were. -/
structure Headed (n : Aud) (s t : State) : Prop where
  ctx : (t.aud n).ctx = (s.aud n).ctx
  settings : (t.aud n).air.current = (s.aud n).air.current
  sequence : (t.aud n).air.sequence = (s.aud n).air.sequence

namespace Headed

variable {n : Aud} {s s' s'' : State}

theorem refl (n : Aud) (s : State) : Headed n s s := ⟨rfl, rfl, rfl⟩

theorem trans (h : Headed n s s') (k : Headed n s' s'') : Headed n s s'' :=
  ⟨k.ctx.trans h.ctx, k.settings.trans h.settings, k.sequence.trans h.sequence⟩

theorem of_steady {t : State} (h : ShowFrame s t) (k : Steady n s t) : Headed n s t := ⟨h.ctx n, k.current, k.sequence⟩

theorem ite {a b : State} (c : Prop) [Decidable c] (ha : c → Headed n s a) (hb : ¬ c → Headed n s b) : Headed n s (if c then a else b) := by
  split
  · exact ha ‹_›
  · exact hb ‹_›

theorem ite_fst {α : Type} {a b : State × α} (c : Prop) [Decidable c] (ha : c → Headed n s a.1) (hb : ¬ c → Headed n s b.1) :
    Headed n s (if c then a else b).1 := by
  split
  · exact ha ‹_›
  · exact hb ‹_›

theorem modAir (s : State) (n : Aud) (f : AirSched → AirSched) (hc : (f (s.aud n).air).current = (s.aud n).air.current)
    (hs : (f (s.aud n).air).sequence = (s.aud n).air.sequence) : Headed n s (s.modAir n f) := by
  refine ⟨State.modAir_aud_ctx .., ?_, ?_⟩
  · rw [State.modAir_same]
    exact hc
  · rw [State.modAir_same]
    exact hs

theorem claimAnnouncement (s : State) (n : Aud) (b : Build) : Headed n s (s.claimAnnouncement n b).1 := by
  unfold State.claimAnnouncement
  split
  · split
    · split
      · dsimp only
        exact modAir s n _ rfl rfl
      · exact refl n s
    · dsimp only
      exact modAir s n _ rfl rfl
  · exact refl n s

theorem packPending (s : State) (n : Aud) (g : Gate) (b : Build) : Headed n s (s.packPending n g b).1 := by
  unfold State.packPending
  dsimp only
  exact modAir s n _ rfl rfl

theorem runCarousel (s : State) (n : Aud) (b : Build) : Headed n s (s.runCarousel n b).1 := by
  unfold State.runCarousel
  dsimp only
  split
  · dsimp only
    exact modAir s n _ rfl rfl
  · exact refl n s

end Headed

/-! ### The header (R145, R173) -/

theorem flags_bits (a b c d e : Bool) : ∀ f : Byte, f = BitVec.ofNat 8 (weight a 1 + weight b 2 + weight c 4 + weight d 8 + weight e 16) →
    f.getLsbD 0 = a ∧ f.getLsbD 1 = b ∧ f.getLsbD 2 = c ∧ f.getLsbD 3 = d ∧ f.getLsbD 4 = e ∧ f.toNat < 32 := by
  rintro f rfl
  revert a b c d e
  decide

theorem mask_bits (a b c d e f : Bool) : ∀ m : Byte,
    m = BitVec.ofNat 8 (weight a 1 + weight b 2 + weight c 4 + weight d 8 + weight e 16 + weight f 32) →
    m.getLsbD 0 = a ∧ m.getLsbD 1 = b ∧ m.getLsbD 2 = c ∧ m.getLsbD 3 = d ∧ m.getLsbD 4 = e ∧ m.getLsbD 5 = f ∧ m.toNat < 64 := by
  rintro m rfl
  revert a b c d e f
  decide

theorem noShow_eq (st : ShowState) : st.noShow = decide (st = .vacant ∨ st = .binding ∨ st = .standby ∨ st = .finished) := by cases st <;> rfl

theorem stands_eq (st : ShowState) : st.stands = decide (st = .held ∨ st = .finished) := by cases st <;> rfl

theorem headerFlags_bits (st : ShowState) (gate : Gate) (ann : AnnSlot) : ∀ f : Byte, f = headerFlags st gate ann →
    f.getLsbD 0 = decide (st = .vacant ∨ st = .binding ∨ st = .standby ∨ st = .finished)
      ∧ f.getLsbD 1 = decide (st = .held ∨ st = .finished) ∧ f.getLsbD 2 = decide (gate = .closed)
      ∧ f.getLsbD 3 = decide (st = .coasting) ∧ f.getLsbD 4 = ann.isActive ∧ f.toNat < 32 := by
  rw [← noShow_eq, ← stands_eq]
  exact flags_bits _ _ _ _ _

theorem trackMask_bits {x : ShowCtx} (h : x.st ≠ .vacant) : (∀ k : TextTrack, (trackMask x).getLsbD k.val = (x.text.get k).enabled)
    ∧ (∀ k : SoundTrack, (trackMask x).getLsbD (4 + k.val) = (x.sound.get k).enabled) ∧ (trackMask x).toNat < 64 := by
  obtain ⟨h0, h1, h2, h3, h4, h5, hlt⟩ := mask_bits (x.text.get 0).enabled (x.text.get 1).enabled (x.text.get 2).enabled (x.text.get 3).enabled
    (x.sound.get 0).enabled (x.sound.get 1).enabled (trackMask x) (if_neg h)
  refine ⟨fun k => ?_, fun k => ?_, hlt⟩
  · match k with
    | 0 => exact h0
    | 1 => exact h1
    | 2 => exact h2
    | 3 => exact h3
  · match k with
    | 0 => exact h4
    | 1 => exact h5

/-! ### The choice at an expiry (R128, R129, R141, R147, R151) -/

theorem expire_adopts (s : State) (n : Aud) : (s.modAir n fun a => { a with timer := cycleCounts }).adoptAir n = s.modAud n fun x =>
    { x with air := { x.air with timer := 24000, current := x.air.staged }, emit := { x.emit with current := x.emit.staged } } :=
  modAud_modAud ..

/-- The ageing of an announcement, by the slot. -/
theorem ageAnnouncement_of {s t : State} {n : Aud}
    (hlife : ∀ text i c life number, (s.aud n).air.ann = .active text i c (some life) number →
      (2 ≤ life → t = s.modAir n fun x => { x with ann := .active text i c (some (life - 1)) number })
      ∧ (life ≤ 1 → t = (s.modAir n fun x => { x with ann := .ending }).submit n .announceEnd))
    (hno : (∀ text i c life number, (s.aud n).air.ann ≠ .active text i c (some life) number) → t = s) : t = s.ageAnnouncement n := by
  unfold State.ageAnnouncement
  split
  · rename_i text i c life number hann
    obtain ⟨hmore, hend⟩ := hlife text i c life number hann
    split
    · exact hend ‹_›
    · exact hmore (by omega)
  · rename_i hann
    exact hno hann

/-- The frame of an expiry, by the choice of the aged state. -/
theorem expire_of_choice {s aged : State} {n : Aud} (h : aged = (s.modAud n fun x =>
      { x with air := { x.air with timer := 24000, current := x.air.staged }, emit := { x.emit with current := x.emit.staged } }).ageAnnouncement n) :
    (∀ kind, aged.chooseFrame n = some kind → s.expire n = ((aged.buildFrame n kind).1.modAir n fun a => { a with beacon := 0 }).handOver n
        (some (aged.buildFrame n kind).2) (aged.aud n).air.current.rate)
      ∧ (aged.chooseFrame n = none →
        s.expire n = (aged.modAir n fun a => { a with beacon := a.beacon + 1 }).handOver n none (aged.aud n).air.current.rate) := by
  rw [← expire_adopts] at h
  subst h
  unfold State.expire
  dsimp only
  refine ⟨fun kind hkind => ?_, fun hnone => ?_⟩
  · rw [hkind]
  · rw [hnone]

/-- The first frame that applies (R129). -/
theorem chooseFrame_of_first {s : State} {n : Aud} {b : AirSched} (hb : b = (s.aud n).air) {kind : FrameKind}
    (h : (kind = .shown ∧ (s.aud n).ctx.st.framed = true)
      ∨ (kind = .announcement ∧ (s.aud n).ctx.st.framed = false ∧ b.ann.isActive = true)
      ∨ (kind = .closing ∧ (s.aud n).ctx.st.framed = false ∧ b.ann.isActive = false ∧ b.pend ≠ [])
      ∨ (kind = .beacon ∧ (s.aud n).ctx.st.framed = false ∧ b.ann.isActive = false ∧ b.pend = [] ∧ b.current.idle ≤ b.beacon + 1)) :
    s.chooseFrame n = some kind := by
  subst hb
  unfold State.chooseFrame
  dsimp only
  rcases h with ⟨rfl, hst⟩ | ⟨rfl, hst, hann⟩ | ⟨rfl, hst, hann, hpend⟩ | ⟨rfl, hst, hann, hpend, hidle⟩
  · rw [if_pos hst]
  · rw [if_neg (by simp [hst]), if_pos hann]
  · rw [if_neg (by simp [hst]), if_neg (by simp [hann]), if_pos hpend]
  · rw [if_neg (by simp [hst]), if_neg (by simp [hann]), if_neg (not_not.mpr hpend), if_pos hidle]

theorem chooseFrame_none {s : State} {n : Aud} (hst : (s.aud n).ctx.st.framed = false) (hann : (s.aud n).air.ann.isActive = false)
    (hpend : (s.aud n).air.pend = []) (hidle : (s.aud n).air.beacon + 1 < (s.aud n).air.current.idle) : s.chooseFrame n = none := by
  unfold State.chooseFrame
  dsimp only
  rw [if_neg (by simp [hst]), if_neg (by simp [hann]), if_neg (not_not.mpr hpend), if_neg (Nat.not_le.mpr hidle)]

/-! ### The stages (R130) -/

theorem modAir_self (s : State) (n : Aud) : (s.modAir n fun a => a) = s := by
  show { s with auds := s.auds.set n.val (s.auds.get n) n.isLt } = s
  rw [show s.auds.set n.val (s.auds.get n) n.isLt = s.auds from Vector.set_getElem_self n.isLt]

/-- The claim of an announcement, by its countdown and the budget (R133). -/
theorem claimAnnouncement_of {s : State} {n : Aud} {b : Build} {text : List Byte} {i c : Nat} {life : Option Nat} {number : Nat}
    (hann : (s.aud n).air.ann = .active text i c life number) :
    (c ≠ 0 → s.claimAnnouncement n b = (s.modAir n fun x => { x with ann := .active text i (c - 1) life number }, b))
    ∧ (c = 0 → b.acct + (8 + text.length) ≤ b.budget → s.claimAnnouncement n b
      = (s.modAir n fun x => { x with ann := .active text i (i - 1) life number },
          { b with acct := b.acct + (8 + text.length), items := b.items ++ [.announce i number text] }))
    ∧ (c = 0 → b.budget < b.acct + (8 + text.length) → s.claimAnnouncement n b = (s, b)) := by
  unfold State.claimAnnouncement
  rw [hann]
  dsimp only
  refine ⟨fun hc => if_neg hc, fun hc hfits => ?_, fun hc hfull => ?_⟩
  · rw [if_pos hc, Build.claim, if_pos (show b.acct + Item.size (.announce i number text) ≤ b.budget from hfits)]
    rfl
  · rw [if_pos hc, Build.claim, if_neg (show ¬ b.acct + Item.size (.announce i number text) ≤ b.budget from Nat.not_le.mpr hfull)]

theorem claimAnnouncement_without {s : State} {n : Aud} (b : Build)
    (h : ∀ text i c life number, (s.aud n).air.ann ≠ .active text i c life number) : s.claimAnnouncement n b = (s, b) := by
  unfold State.claimAnnouncement
  split
  · exact (h _ _ _ _ _ ‹_›).elim
  · rfl

/-- A build runs its stages one after another on the sampled state. -/
theorem buildFrame_stages {n : Aud} {s : State} {kind : FrameKind} {p : Nat} {gate : Gate} {opening withhold runs : Bool} {start : State}
    {b0 : Build} {claimed : State × Build} {released restored : State} {sounded packed repeated : State × Build}
    (hp : p = s.position n) (hgate : gate = (s.aud n).input.gate)
    (hopening : opening = decide (gate = .opened ∧ (s.aud n).air.lastGate ≠ some .opened))
    (hwithhold : withhold = (decide (gate = .closed) || opening))
    (hstart : start = (s.finishTest n).modAir n fun x => { x with lastGate := some gate })
    (hb0 : b0 = { acct := 18, budget := (s.aud n).air.current.rate.budget, items := [] })
    (hclaimed : claimed = if kind = .shown ∨ kind = .announcement then start.claimAnnouncement n b0 else (start, b0))
    (hruns : runs = (decide (kind = .shown) && (claimed.1.aud n).ctx.st.running))
    (hreleased : released = if runs then allText.foldl (fun s t => s.releaseCheck n p withhold t) claimed.1 else claimed.1)
    (hrestored : restored = if opening then released.restoreAll n else released)
    (hsounded : sounded = if runs then
        if gate = .opened then restored.slotService n p claimed.2 else (restored.soundSignal n (Playout.passClosed p), claimed.2)
      else (restored, claimed.2))
    (hpacked : packed = if kind = .beacon then
        (sounded.1.modAir n fun a => { a with pend := if gate = .closed then purge a.pend else a.pend }, sounded.2)
      else sounded.1.packPending n gate sounded.2)
    (hrepeated : repeated = if kind = .shown ∧ gate = .opened then packed.1.runCarousel n packed.2 else packed) :
    s.buildFrame n kind = repeated.1.closeFrame n gate p repeated.2 := by
  have hinput : ((s.finishTest n).aud n).input.gate = gate := by
    rw [hgate]
    unfold State.finishTest
    split
    · rw [finish_input]
    · rfl
  have hsteady := Steady.finishTest s n
  unfold State.buildFrame
  extract_lets sp s1 p' gate' opening' s2 b sb3 s3 running withhold' s4 s5 sb6 sb7 sb8
  obtain rfl : p' = p := hp.symm
  have hg : gate' = gate := hinput
  have ho : opening' = opening := by
    rw [hopening, ← hsteady.lastGate, ← hg]
    rfl
  have h2 : s2 = start := by
    rw [hstart, ← hg]
    rfl
  have hb : b = b0 := by
    have hsettings : (s2.aud n).air.current = (s.aud n).air.current := by
      rw [← hsteady.current]
      exact congrArg (·.air.current) (State.modAir_same s1 n _)
    rw [hb0, ← hsettings]
    rfl
  have h3 : sb3 = claimed := by
    rw [hclaimed, ← h2, ← hb]
  have hr : running = runs := by
    rw [hruns, ← h3]
  have hw : withhold' = withhold := by
    rw [hwithhold, ← hg, ← ho]
  have h4 : s4 = released := by
    rw [hreleased, ← hr, ← h3, ← hw]
  have h5 : s5 = restored := by
    rw [hrestored, ← ho, ← h4]
  have h6 : sb6 = sounded := by
    rw [hsounded, ← hr, ← hg, ← h5, ← h3]
  have h7 : sb7 = packed := by
    rw [hpacked, ← hg, ← h6]
  have h8 : sb8 = repeated := by
    rw [hrepeated, ← hg, ← h7]
  rw [h8, hg]

/-- The claim of a build, by the frame's kind and the announcement slot. -/
theorem claimed_of {start : State} {n : Aud} {kind : FrameKind} {b0 : Build} {claimed : State × Build}
    (hactive : ∀ text i c life number, (start.aud n).air.ann = .active text i c life number → kind = .shown ∨ kind = .announcement →
      (c ≠ 0 → claimed = (start.modAir n fun x => { x with ann := .active text i (c - 1) life number }, b0))
      ∧ (c = 0 → b0.acct + (8 + text.length) ≤ b0.budget →
          claimed = (start.modAir n fun x => { x with ann := .active text i (i - 1) life number },
            { b0 with acct := b0.acct + (8 + text.length), items := b0.items ++ [.announce i number text] }))
      ∧ (c = 0 → b0.budget < b0.acct + (8 + text.length) → claimed = (start, b0)))
    (hno : (∀ text i c life number, (start.aud n).air.ann ≠ .active text i c life number) ∨ kind = .closing ∨ kind = .beacon →
      claimed = (start, b0)) :
    claimed = if kind = .shown ∨ kind = .announcement then start.claimAnnouncement n b0 else (start, b0) := by
  by_cases hk : kind = .shown ∨ kind = .announcement
  · rw [if_pos hk]
    by_cases hann : ∀ text i c life number, (start.aud n).air.ann ≠ .active text i c life number
    · rw [claimAnnouncement_without b0 hann, hno (.inl hann)]
    · simp only [ne_eq, not_forall, not_not] at hann
      obtain ⟨text, i, c, life, number, hann⟩ := hann
      obtain ⟨hcount, hfits, hfull⟩ := hactive text i c life number hann hk
      obtain ⟨hcount', hfits', hfull'⟩ := claimAnnouncement_of (b := b0) hann
      by_cases hc : c = 0
      · rcases Nat.lt_or_ge b0.budget (b0.acct + (8 + text.length)) with hlt | hle
        · rw [hfull hc hlt, hfull' hc hlt]
        · rw [hfits hc hle, hfits' hc hle]
      · rw [hcount hc, hcount' hc]
  · rw [if_neg hk]
    refine hno (.inr ?_)
    cases kind with
    | shown => exact absurd (.inl rfl) hk
    | announcement => exact absurd (.inr rfl) hk
    | closing => exact .inl rfl
    | beacon => exact .inr rfl

/-- A beacon packs nothing and purges with the gate CLOSED (R130, R138). -/
theorem beacon_purges (v : State × Build) (n : Aud) (gate : Gate) :
    ((v.1.modAir n fun a => { a with pend := if gate = .closed then purge a.pend else a.pend }, v.2) : State × Build)
      = if gate = .closed then (v.1.modAir n fun x => { x with pend := x.pend.filter fun ev => decide (ev = .announceEnd) }, v.2) else v := by
  split
  · rfl
  · exact congrArg (·, v.2) (modAir_self v.1 n)

theorem running_iff (st : ShowState) : st.running = true ↔ st = .locked ∨ st = .coasting := by cases st <;> decide

/-- Between the gate read and the header a build leaves what the header is made of (R130). -/
theorem stages_headed {n : Aud} {kind : FrameKind} {p : Nat} {gate : Gate} {opening withhold runs : Bool} {start : State} {b0 : Build}
    {claimed : State × Build} {released restored : State} {sounded packed repeated : State × Build}
    (hclaimed : claimed = if kind = .shown ∨ kind = .announcement then start.claimAnnouncement n b0 else (start, b0))
    (hreleased : released = if runs then allText.foldl (fun s t => s.releaseCheck n p withhold t) claimed.1 else claimed.1)
    (hrestored : restored = if opening then released.restoreAll n else released)
    (hsounded : sounded = if runs then
        if gate = .opened then restored.slotService n p claimed.2 else (restored.soundSignal n (Playout.passClosed p), claimed.2)
      else (restored, claimed.2))
    (hpacked : packed = if kind = .beacon then
        (sounded.1.modAir n fun a => { a with pend := if gate = .closed then purge a.pend else a.pend }, sounded.2)
      else sounded.1.packPending n gate sounded.2)
    (hrepeated : repeated = if kind = .shown ∧ gate = .opened then packed.1.runCarousel n packed.2 else packed) :
    Headed n start claimed.1 ∧ Headed n start repeated.1 := by
  have h3 : Headed n start claimed.1 := by
    rw [hclaimed]
    exact .ite_fst _ (fun _ => .claimAnnouncement _ n _) fun _ => .refl n _
  have h4 : Headed n claimed.1 released := by
    rw [hreleased]
    exact .ite _ (fun _ => .of_steady (.foldl _ (fun s t => .releaseCheck s n p withhold t) _ _)
      (.foldl _ (fun s t => .releaseCheck s n p withhold t) _ _)) fun _ => .refl n _
  have h5 : Headed n released restored := by
    rw [hrestored]
    exact .ite _ (fun _ => .of_steady (.restoreAll _ n) (.submitRestore n _ _)) fun _ => .refl n _
  have h6 : Headed n restored sounded.1 := by
    rw [hsounded]
    exact .ite_fst _ (fun _ => .ite_fst _ (fun _ => .of_steady (.slotService _ n p _) (.slotService _ n p _))
      fun _ => .of_steady (.soundSignal _ n _) (.soundSignal _ n _)) fun _ => .refl n _
  have h7 : Headed n sounded.1 packed.1 := by
    rw [hpacked]
    refine .ite_fst _ (fun _ => ?_) fun _ => .packPending _ n gate _
    dsimp only
    exact .modAir _ n _ rfl rfl
  have h8 : Headed n packed.1 repeated.1 := by
    rw [hrepeated]
    exact .ite_fst _ (fun _ => .runCarousel _ n _) fun _ => .refl n _
  exact ⟨h3, ((((h3.trans h4).trans h5).trans h6).trans h7).trans h8⟩

/-- The release checks of the four tracks, one after another. -/
theorem releases_eq (s : State) (n : Aud) (p : Nat) (withhold : Bool) : allText.foldl (fun s t => s.releaseCheck n p withhold t) s
    = (((s.releaseCheck n p withhold 0).releaseCheck n p withhold 1).releaseCheck n p withhold 2).releaseCheck n p withhold 3 := by
  rw [allText, List.foldl_cons, List.foldl_cons, List.foldl_cons, List.foldl_cons, List.foldl_nil]

theorem soundSignal_eq (s : State) (n : Aud) (f : Playout → Playout) : s.soundSignal n f = (s.modPlay n 0 f).modPlay n 1 f := rfl

/-- Settles O48: an expiry by the choice of its frame, and a build stage by stage. -/
theorem frameBuildRunsItsStages : Obligations.FrameBuildRunsItsStages := by
  unfold Obligations.FrameBuildRunsItsStages
  refine ⟨?_, fun st => framed_iff, ?_⟩
  · rintro n s adopted aged a b rfl rfl rfl hlife hno
    have haged := ageAnnouncement_of hlife hno
    obtain ⟨hframe, hnone⟩ := expire_of_choice haged
    have hst : (aged.aud n).ctx.st = (s.aud n).ctx.st := by
      rw [haged, (ShowFrame.ageAnnouncement _ n).ctx, State.modAud_same]
    rw [← hst]
    refine ⟨fun kind hkind => congrArg Host.Outcome.next (hframe kind (chooseFrame_of_first rfl hkind)), fun hst hann hpend hidle => ?_⟩
    exact congrArg Host.Outcome.next (hnone (chooseFrame_none hst hann hpend hidle))
  · intro n s kind p gate opening withhold runs start b0 claimed released restored sounded packed repeated hp hgate hopening hwithhold hstart hb0
      hactive hno hruns hreleased hrestored hsounded hpacked hrepeated
    have hstart' : start = (s.finishTest n).modAir n fun x => { x with lastGate := some gate } := by
      rw [hstart, State.finishTest, hp]
      simp only [running_iff]
    have hair : (start.aud n).air = { ((s.finishTest n).aud n).air with lastGate := some gate } := by rw [hstart', State.modAir_same]
    have hctx : (start.aud n).ctx.bindGen = (s.aud n).ctx.bindGen := by
      rw [hstart', State.modAir_aud_ctx]
      unfold State.finishTest
      split
      · rw [finish_ctx]
        rfl
      · rfl
    have hsteady := Steady.finishTest s n
    have hann : (start.aud n).air.ann = (s.aud n).air.ann := by rw [hair]; exact hsteady.ann
    have hclaimed : claimed = if kind = .shown ∨ kind = .announcement then start.claimAnnouncement n b0 else (start, b0) := by
      refine claimed_of ?_ (by rw [hann]; exact hno)
      rw [hann, hb0]
      rw [hb0] at hactive
      exact hactive
    rw [← beacon_purges] at hpacked
    rw [← releases_eq] at hreleased
    rw [← soundSignal_eq] at hsounded
    obtain ⟨hheaded, hrepeats⟩ := stages_headed hclaimed hreleased hrestored hsounded hpacked hrepeated
    have hruns' : runs = (decide (kind = .shown) && (claimed.1.aud n).ctx.st.running) := by
      rw [hruns, hheaded.ctx]
      simp only [← running_iff, Bool.decide_and, Bool.decide_eq_true]
    have hbuild := buildFrame_stages hp hgate hopening hwithhold hstart' hb0 hclaimed hruns' hreleased hrestored hsounded hpacked hrepeated
    refine ⟨_, hbuild, rfl, rfl, ?_, rfl, ?_, rfl, ?_, ?_⟩
    · exact congrArg AirSettings.site (hrepeats.settings.trans (by rw [hair]; exact hsteady.current))
    · exact hrepeats.sequence.trans (by rw [hair]; exact hsteady.sequence)
    · exact (congrArg ShowCtx.bindGen hrepeats.ctx).trans hctx
    · rintro st x rfl rfl
      obtain ⟨h0, h1, h2, h3, h4, hlt⟩ := headerFlags_bits (start.aud n).ctx.st gate (repeated.1.aud n).air.ann _ rfl
      dsimp only
      rw [hrepeats.ctx]
      exact ⟨h0, h1, h2, h3, h4, hlt, fun hv => if_pos hv, trackMask_bits⟩

end Sys2Proof.Machine
